-- ==== Sys2Proof/Word.lean ====
section
/-! DEFINITION. The words of the CU9400 and the one sparse table that every array of the machine is held in. -/
namespace Sys2Proof

/-- One byte of a memory; byte 0 of a value is its least significant byte (R6). -/
abbrev Byte := BitVec 8

/-- A 32-bit register (R7). -/
abbrev Word := BitVec 32

/-- A 64-bit value: a register pair (R8), a sync counter (R99), a step number. -/
abbrev DWord := BitVec 64

/-- A 64-byte command record (R93). -/
abbrev RecWord := BitVec 512

/-- A sparse table in canonical form: keys strictly rising, no entry equal to what its unlisted key reads as. -/
abbrev Tbl (V : Type) := List (Nat × V)

/-- A memory: the unlisted byte reads 0 (R422 for stacked memory; a design choice for the on-chip memories). -/
abbrev Mem := Tbl Byte

end Sys2Proof
end

