-- ==== Sys2Proof/Syntax.lean ====
section
/-! DEFINITION. The commands of the block: one constructor for each row of spec/opcode_table.json, with the facts that come with it from
outside (what was written, what a message holds, what a sensor or a test showed). -/
namespace Sys2Proof

/-- Who performs a register access: page 0 is host software's and the firmware pages are firmware's (R104, R364, R366). -/
inductive Agent where
  | host | firmware
deriving DecidableEq, Repr

/-- The link header of a received flit (R223); `bad` says that a reserved or must-be-zero field is not zero (R235 code 0x01). -/
structure FlitHdr where
  nak    : Bool
  ack    : Nat
  crdEn  : Bool
  crdBuf : Nat
  seq    : Nat
  bad    : Bool
deriving DecidableEq, Repr

/-- A packet (R228): its flits' VC and DL, its header, and the plaintext of its body. `resv` says that a reserved header field is not
zero, `lastOk` that LAST agrees with FLITS, `credit` that the sender held a credit for every flit, `gen` is the generation it was
encrypted under and `tagOk` whether its tag verifies (R233, R235); `hdrs` are the link headers of its flits as far as they say something (R223). -/
structure Packet where
  vc      : Nat
  dl      : Nat
  pctr    : Nat
  step    : Nat
  epoch   : Nat
  bodyLen : Nat
  ptype   : Nat
  src     : Nat
  flits   : Nat
  y       : Bool
  dst     : Nat
  body    : List Byte
  gen     : Nat
  resv    : Bool
  lastOk  : Bool
  credit  : Bool
  tagOk   : Bool
  hdrs    : List FlitHdr
deriving DecidableEq, Repr

/-- A host transport message (R371) with the plaintext of its body; `cls` is the class it came in, `resv` that a reserved field is not
zero, `tagOk` whether its tag verifies (R377); `lastOk`, `credit` and `hdrs` are as in Packet (R369, R382). -/
structure HostMsg where
  mtype  : Nat
  cls    : Nat
  addr   : Nat
  data   : Nat
  tag    : Nat
  queue  : Nat
  ctx    : Nat
  len    : Nat
  status : Nat
  mctr   : Nat
  body   : List Byte
  resv   : Bool
  tagOk  : Bool
  lastOk : Bool
  credit : Bool
  hdrs   : List FlitHdr
deriving DecidableEq, Repr

/-- What the partner reports in a training's parameter exchange (R230, R219): coordinate, FAB_DIMS, FAB_YOKE, last accepted SEQ, job
check value (none when it holds no job fabric key), and the map of the lanes it receives, which this end transmits by. -/
structure Params where
  coord : Nat
  dims  : Nat
  yoke  : Nat
  seq   : Nat
  kcv   : Option (List Byte)
  sp16  : Nat
  sp17  : Nat
deriving DecidableEq, Repr

/-- A Grielle message as the Ostler reads it (R389, R390): the path it came by (0 I3C, 1 1000BASE-KX, 2 fabric, 3 mailbox) and, on the fabric,
the coordinate it came from; the fields of its header, `resv` for a reserved field that is not zero; its plaintext body. Of what is
signed, encapsulated or wrapped in a body, the body here holds what it covers, and `proofOk` says that it verifies: of a RECOVERY request the 72
bytes before the signature, of JOB_OPEN the 296-byte payload, of KEY_LOAD the eight bytes and the unwrapped key; of FW_ACTIVATE `proofOk` says that the
bundle's signature and payload digest verify, of FW_BEGIN and FW_WRITE that the flash took the data. `tagOk` says that a sealed body's tag verifies. -/
structure GMsg where
  path    : Nat
  src     : Nat
  version : Nat
  resp    : Bool
  sealed  : Bool
  reqId   : Nat
  seq     : Nat
  len     : Nat
  status  : Nat
  resv    : Bool
  body    : List Byte
  tagOk   : Bool
  proofOk : Bool
deriving DecidableEq, Repr

/-- Bits that have flipped in a memory since the last command (R163, R173, R177): of the block of stacked memory that holds an address, in symbols of its burst
by pin, 0 to 63 DQ and 64 to 71 CB; of the on-chip word of a memory key, bits 0 to 31 data and 32 to 38 check; of the word of an address in the
depot cache line that holds its block; of a word in a decode core's own memory (R204). -/
inductive MemErr where
  | block (addr : Nat) (syms : List (Nat × Nat))
  | word (key flips : Nat)
  | line (addr flips : Nat)
  | core (flips : Nat)
deriving DecidableEq, Repr

/-- A fault of a matrix core while a command runs on it (R65 to R67, R79): in the array it inverts one bit of an accumulator after accumulation
(product as MXC_CHK_POS codes it, row and column as R70 counts them); in the drain it inverts bit `bit` of byte `col` of an output row, in the first
or the second of the two datapaths, of the main output or of the second one (`saved`: the saved form of MX_GEMM, the row statistics of MX_ATTN). -/
structure MxFault where
  drain   : Bool
  product : Nat
  row     : Nat
  col     : Nat
  bit     : Nat
  second  : Bool
  saved   : Bool
deriving DecidableEq, Repr

/-- A fault of the move engine's chunk coder (R118): it inverts one bit of a byte of a row's coded chunks. -/
structure CodeFault where
  row  : Nat
  byte : Nat
  bit  : Nat
deriving DecidableEq, Repr

/-- A packing: its record, and the coder's faults while it runs. -/
structure Packing where
  rid    : Nat
  faults : List CodeFault
deriving DecidableEq, Repr

/-- A register read: its offset, and how many bytes the reader asks for (R7). -/
structure RegRead where
  off  : Nat
  size : Nat
deriving DecidableEq, Repr

/-- A logic fault of a decode core while a sample runs (R204): it inverts bits of one byte of the core's token output. `second` names the second
core of a sample that is decoded twice. -/
structure CoreFlip where
  second : Bool
  byte   : Nat
  mask   : Nat
deriving DecidableEq, Repr

/-- One command: a row of the table. `rid` names a record in flight by the number RECORD_START gave it; `low` and `high` are the 32-byte halves of a
vote's body. -/
inductive Instr where
  -- registers (00_scope, 16, 01)
  | registerWrite (a : Agent) (off size data tag : Nat)
  | pairLowRead (a : Agent) (r : RegRead)
  | pairLowWrite (a : Agent) (off data tag : Nat)
  | pairHighWrite (a : Agent) (off data tag : Nat)
  | regRd (r : RegRead) (tag : Nat)
  | regTimeout (addr tag : Nat) (write : Bool)
  | processorFault (proc cls : Nat)
  -- queues (04)
  | doorbell (page word : Nat)
  | recordStart (engine : Nat)
  | recordRetire (rid : Nat)
  | nop (rid : Nat)
  -- engines (03, 04, 06)
  | mxGemm (rid : Nat) (errs : List MemErr) (faults : List MxFault)
  | mxAttn (rid : Nat) (faults : List MxFault)
  | vxEw (rid : Nat)
  | vxRed (rid : Nat)
  | vxPcm (rid : Nat)
  | vxOptMoment (rid : Nat)
  | vxOptSgdm (rid : Nat)
  | vxOptSign (rid : Nat)
  | mvCopy (rid : Nat) (errs : List MemErr)
  | mvGather (rid : Nat)
  | mvScatterAdd (rid : Nat)
  | mvPack (x : Packing)
  | mvUnpack (rid : Nat)
  | mvFill (rid : Nat)
  | queCfgWrite (a : Agent) (data : Nat)
  | queueStop (a : Agent)
  | queueResume (a : Agent)
  | queueSkip (a : Agent)
  | queCtxCfgWrite (a : Agent) (data : Nat)
  | synValSet (a : Agent) (data : Nat)
  | synAdd (a : Agent) (data : Nat)
  -- steps (05, 06)
  | stepIssue
  | stepBoundary (times : List Nat)
  | schedFirstWrite (data : Nat)
  | watchCapture
  | watchCommit
  -- memory (07)
  | depModeWrite (word data : Nat)
  | depCrWrite (reg data : Nat)
  | stateRangeWrite (reg data : Nat)
  | scrub (addr : Nat) (errs : List MemErr)
  | memRetrain (a : Agent) (stack : Nat)
  | pchTrainComplete (stack pch : Nat) (failed : List Nat)
  -- ingest (08)
  | ixSample (rid : Nat) (errs : List MemErr) (flips : List CoreFlip)
  | ixShuffle (rid : Nat)
  -- fabric (09)
  | portTrainComplete (port : Nat) (failed : List Nat) (p : Params)
  | trainingTimeout (port event : Nat)
  | linkLost (port : Nat)
  | laneErrorWindow (port : Nat) (counts : List Nat) (codewords : Nat)
  | portCtlWrite (a : Agent) (port data : Nat)
  | portRetrainRequest (port : Nat)
  | idle (port : Nat) (h : FlitHdr)
  | nakRepeat (port : Nat)
  | linkErr (port : Nat) (h : FlitHdr) (code seq : Nat)
  | retrainReq (port : Nat) (h : FlitHdr)
  | key (port : Nat) (h : FlitHdr) (gen : Nat)
  | abort (port : Nat) (h : FlitHdr) (step reason run domain origin : Nat)
  | packetForward (port : Nat) (p : Packet)
  | fabUnreach (port : Nat) (p : Packet)
  | mapReload (a : Agent)
  -- collectives (10)
  | cxAllreduce (rid : Nat)
  | cxRedscat (rid : Nat)
  | cxAllgather (rid : Nat)
  | cxSend (rid : Nat)
  | cxSignal (rid : Nat)
  | cxRing (port : Nat) (p : Packet)
  | cxWrite (port : Nat) (p : Packet)
  | remoteSignal (port : Nat) (p : Packet)
  | cxResp (port : Nat) (p : Packet)
  | cxReady (port : Nat) (p : Packet)
  | cxVerdict (port : Nat) (p : Packet)
  | resend (opid pseq : Nat)
  | layoutArm (a : Agent)
  | layoutCancel (a : Agent)
  | layoutApply
  -- ledger (11)
  | lxRecord (rid : Nat)
  | lxForward (rid : Nat)
  | lxVerdict (rid : Nat)
  | lxWindow (rid : Nat)
  | lxData (port : Nat) (p : Packet)
  | lxHeader (port : Nat) (p : Packet)
  | lxDigest (port : Nat) (p : Packet)
  | lxResp (port : Nat) (p : Packet)
  | stateReread (window : Nat)
  -- spares and membership (12)
  | spareSelfTest (carriage unit index : Nat) (pass : Bool)
  | remountRetire (a : Agent) (carriage unit index : Nat)
  | remountReturn (a : Agent) (carriage unit index : Nat)
  | expel (m : GMsg)
  | abortStep (m : GMsg)
  | reissue (m : GMsg)
  | joinLoad (m : GMsg)
  | takeover (m : GMsg)
  | joinCancel (m : GMsg)
  | standby (m : GMsg)
  | voteExpired (low high : Nat)
  -- checkpoint (13)
  | lxCkpt (rid : Nat)
  | ckptPageCopy (page : Nat)
  | stalledWritePerformed (page : Nat)
  | ckptUnit (port : Nat) (p : Packet)
  | ckptEnd (port : Nat) (p : Packet)
  | ckptReduce (port : Nat) (p : Packet)
  | ckptFetch (port : Nat) (p : Packet)
  | lxCkptRebuild (rid : Nat)
  | lxRestore (rid : Nat)
  | ckptDrained
  | ckptDiscard
  | preNotice (a : Agent) (data : Nat)
  | preemptN
  | ckptStop (port : Nat) (p : Packet)
  | release
  -- hangs and resets (14)
  | engineProgressExpire (engine : Nat)
  | syncWaitExpire (queue : Nat)
  | fabricResponseExpire (opid : Nat)
  | peerTimeout (port : Nat)
  | fenceDrainExpire (domain : Nat)
  | collectComplete (tick recent : Nat)
  | dumpReadTimeout (window : Nat)
  | collectAbandon (recent dumpRecent : Nat)
  | domainResetComplete
  | discardTimeout (engine : Nat)
  | rstFenceCollectReset (a : Agent) (domain : Nat)
  | rstFenceHold (a : Agent) (domain : Nat)
  | rstRelease (a : Agent) (domain : Nat)
  | blkResetReq (a : Agent) (off : Nat)
  | blkFenceReq (a : Agent) (off : Nat)
  | blkEngineEn (off data : Nat)
  | blkEvtSet (off data : Nat)
  | dumpAck
  | dumpHoldExpire
  | abortCtlReissue
  -- interrupts (15)
  | groupTimerExpire (group : Nat)
  | interruptDelivery (target : Nat)
  | endOfInterrupt (a : Agent) (target vector : Nat)
  | stackClear (a : Agent) (target : Nat)
  | stackPoptop (a : Agent) (target : Nat)
  | icuMaskWrite (a : Agent) (plane index data : Nat)
  -- host attachment (16)
  | htToDev (rid : Nat)
  | htToHost (rid : Nat)
  | htRing (rid : Nat)
  | dmaRdData (m : HostMsg)
  | dmaWrAck (m : HostMsg)
  | hostTimeout (tag : Nat)
  | hostPre (m : HostMsg)
  | hostLinkTrain (modules : Nat)
  -- management and security (17)
  | mailboxGo (data : Nat)
  | discover (m : GMsg)
  | getCert (m : GMsg)
  | attest (m : GMsg)
  | jobOpen (m : GMsg)
  | jobClose (m : GMsg)
  | keyLoad (m : GMsg)
  | keyDerive (m : GMsg)
  | keyErase (m : GMsg)
  | keySlotChangeApply (slot : Nat)
  | keySlotWaitTimeout (slot : Nat)
  | read (m : GMsg)
  | fwBegin (m : GMsg)
  | fwWrite (m : GMsg)
  | fwActivate (m : GMsg)
  | fwCommit (m : GMsg)
  | fwSessionTimeout
  | holdRelease (m : GMsg)
  | debugChal (m : GMsg)
  | debugUnlock (m : GMsg)
  | challengeExpire
  | forward (m : GMsg)
  | jtagInstruction (code : Nat)
  -- power, clocks, start-up (18)
  | supplyStart
  | sysResetN (low : Bool)
  | firmwareBoot (banks : List Bool) (recent : Nat)
  | controlCoreRelease (core : Nat)
  | memoryInitComplete (carriage : Nat)
  | startupSelfTestComplete (failed : List Nat)
  | seal (a : Agent)
  | supplyWarn (mv : Nat)
  | supplyWarnRecover (mv : Nat)
  | supplySag (mv : Nat)
  | supplySuspect (mv : Nat)
  | supplySuspectRecover
  | supplyReset
  | powerTransientLimit
  | powerCapTick (watts : Nat)
  | thermalThrottle (die : Nat)
  | thermalRelease
  | thermalReset (die : Nat)
  | thermalRestart
  | refclkBad (input : Nat)
  | refclkRevertTimer
  | refclkHoldExpire
  | testUnitSelfTest (a : Agent) (target : Nat) (immediate : Bool) (ms : Nat)
  | testPchRetrain (a : Agent) (target : Nat)
  | testPortRetrain (a : Agent) (target : Nat)
  | testFullSelfTest (a : Agent)
  | calibrationPeriod
  | testComplete (pass : Bool) (ms : Nat)
  | discardedFlit (port codewords : Nat)
  | refclkGood (input : Nat)
  | powerTransientRelease
  | forwardResponse (code : Nat) (m : GMsg)
  | forwardTimeout (coord reqId : Nat)
deriving DecidableEq, Repr

end Sys2Proof
end

