-- ==== Sys2Proof/Decode.lean ====
section
/-! DEFINITION. The table of commands gives no row any bits: a command comes with its facts from outside and no word spells one. -/
namespace Sys2Proof

/-- The command that a word spells by the table's bits: none, because no row of the table has any. -/
def decodeTableWord (_nbits _w : Nat) : Option Instr := none

end Sys2Proof
end

