-- ==== Sys2Proof/Config.lean ====
section
/-! DEFINITION. What one implementation fixes and what the spec leaves open: opaque constants without a body. No proof can see
a value of one, so a statement that names one holds for every value. -/
namespace Sys2Proof.Config

/-- The design revision of the block in a window (R447: "This manual does not specify its value"). -/
opaque design : Nat → BitVec 16

/-- The low 48 bits of the OST_MAC pair (R408 gives the register no value). -/
opaque macAddress : BitVec 48

/-- The device serial, 8 bytes (R394: from the identity key that is generated at manufacture). -/
opaque serial : BitVec 64

/-- The device certificate chain that GET_CERT returns (R391). -/
opaque certChain : List (BitVec 8)

/-- A value the spec leaves open, one for each number that State.free has held. -/
opaque freeValue : Nat → Nat

/-- SHA-256 of a byte string (R307, R403, R404, R407; the function is FIPS 180-4's). -/
opaque sha256 : List (BitVec 8) → List (BitVec 8)

/-- HKDF-SHA-256 of key material, salt and info (R233, R400; the function is RFC 5869's). -/
opaque hkdf : List (BitVec 8) → List (BitVec 8) → List (BitVec 8) → List (BitVec 8)

/-- HMAC-SHA-256 of a key and a message (R230). -/
opaque hmac : List (BitVec 8) → List (BitVec 8) → List (BitVec 8)

/-- AES-256-GCM encryption: key, nonce, additional data, plaintext; ciphertext followed by the 16-byte tag (R210, R233, R319, R377, R393). -/
opaque gcmSeal : List (BitVec 8) → BitVec 96 → List (BitVec 8) → List (BitVec 8) → List (BitVec 8)

/-- AES-256-GCM decryption with its tag check: none when the tag fails. -/
opaque gcmOpen : List (BitVec 8) → BitVec 96 → List (BitVec 8) → List (BitVec 8) → Option (List (BitVec 8))

/-- AES-256-XTS of IEEE 1619 over one data unit (R186): the key pair, the tweak, the data. -/
opaque xtsSeal : List (BitVec 8) → BitVec 128 → List (BitVec 8) → List (BitVec 8)
opaque xtsOpen : List (BitVec 8) → BitVec 128 → List (BitVec 8) → List (BitVec 8)

/-- The key pair of a carriage's memory controllers (R186), which the security engine generates at a device reset: the number of device resets, the
carriage. -/
opaque memoryKeys : Nat → Nat → List (BitVec 8)

/-- The column of the Hsiao (39,32) code's check matrix for data bits 0 to 31 and check bits 32 to 38 (R177: the spec names the code and not its matrix). -/
opaque hsiao : Nat → BitVec 7

/-- The encapsulation key of the key pair of a device reset (R399, R405), 1,184 bytes. -/
opaque kemPublic : Nat → List (BitVec 8)

/-- The identity key's signature over the evidence (R405), 17,088 bytes. -/
opaque slhSign : List (BitVec 8) → List (BitVec 8)

/-- The SHA-256 that MR0 or MR1 is extended with (R403): of the bundle header and the Ostler image (0) or of control core i - 1's image, whose
places in the payload are firmware's own (R397): bank and flash contents. -/
opaque imageDigest : Nat → Nat → List (Nat × BitVec 8) → List (BitVec 8)

/-- The body of a dump section whose layout R342 does not give: its TYPE and the number of the free value it uses. -/
opaque dumpBody : Nat → Nat → List (BitVec 8)

/-- A fresh debug challenge, one for each DEBUG_CHAL since the device reset (R391, R407), 32 bytes. -/
opaque challenge : Nat → List (BitVec 8)

/-! ### Video streams (R194: the bitstream syntax and the decoding are the codec standards' and, for MPEG-2, the device's own) -/

/-- The pictures at which R195 lets a decode start, and any other. -/
inductive Start where
  | sequenceI | idr | recovery | irap | shownKey | other
deriving DecidableEq, Repr, Inhabited

/-- The profiles that R194 names, and any other. -/
inductive Profile where
  | main | constrainedBaseline | high | main10 | other
deriving DecidableEq, Repr, Inhabited

/-- What the syntax of a stream says of one coded picture: its access unit, what kind of start it is, its place in output order (none: never
output), the earlier coded pictures that it references (none: one that is missing), its parity if it is a field (true: bottom), whether its data is broken or
unsupported, its profile, its level (ten times the standard's number; for MPEG-2 1 Low to 4 High), chroma_format_idc, bit depth, display and coded
sizes, full-range flag, matrix coefficients, and the reference buffer size that R206 names. -/
structure Coded where
  unit    : Nat
  start   : Start
  place   : Option Nat
  refs    : List (Option Nat)
  field   : Option Bool
  broken  : Bool
  profile : Profile
  level   : Nat
  chroma  : Nat
  depth   : Nat
  width   : Nat
  height  : Nat
  codedW  : Nat
  codedH  : Nat
  full    : Bool
  matrix  : Nat
  refBuf  : Nat
deriving DecidableEq, Repr, Inhabited

/-- The coded pictures of the access units so far in decode order, the output place below which no later access unit can change anything, and
whether the last access unit's syntax is broken or unsupported. -/
structure Parsed where
  pics   : List Coded
  final  : Nat
  broken : Bool
deriving DecidableEq, Repr, Inhabited

/-- The syntax of access units from a random access point: codec, configuration blob, access units. -/
opaque parse : Nat → List (BitVec 8) → List (List (BitVec 8)) → Parsed

/-- The luma or chroma sample that the decoding yields: codec, blob, access units, coded picture in decode order, plane, row, column. -/
opaque decodedSample : Nat → List (BitVec 8) → List (List (BitVec 8)) → Nat → Nat → Nat → Nat → Nat

end Sys2Proof.Config
end

