-- ==== Sys2Proof/Machine/Numeric.lean ====
section
/-! DEFINITION. Number formats, exact values, rounding and conversion, the random generator of stochastic rounding, and the
binary32 arithmetic of the arrays and the vector engine (02_number_formats, R26 to R52). -/
namespace Sys2Proof.Machine

/-- The formats of R26. -/
inductive Fmt where
  | e4m3 | e5m2 | b8e4 | b8e5 | f16 | t16 | f32 | u16 | i32
deriving DecidableEq, Repr

/-- The format a 4-bit code names; none for a reserved code (R26). -/
def Fmt.ofCode : Nat → Option Fmt
  | 0 => some .e4m3 | 1 => some .e5m2 | 2 => some .b8e4 | 3 => some .b8e5 | 4 => some .f16
  | 5 => some .t16 | 6 => some .f32 | 8 => some .u16 | 9 => some .i32 | _ => none

def Fmt.code : Fmt → Nat
  | .e4m3 => 0 | .e5m2 => 1 | .b8e4 => 2 | .b8e5 => 3 | .f16 => 4 | .t16 => 5 | .f32 => 6 | .u16 => 8 | .i32 => 9

/-- Bytes of one element (R26). -/
def Fmt.size : Fmt → Nat
  | .e4m3 | .e5m2 | .b8e4 | .b8e5 => 1
  | .f16 | .t16 | .u16 => 2
  | .f32 | .i32 => 4

def Fmt.isBlock : Fmt → Bool
  | .b8e4 | .b8e5 => true
  | _ => false

def Fmt.isInt : Fmt → Bool
  | .u16 | .i32 => true
  | _ => false

/-- The element format of a block format, any other format itself (R30). -/
def Fmt.elem : Fmt → Fmt
  | .b8e4 => .e4m3
  | .b8e5 => .e5m2
  | f => f

/-- Exponent width, fraction width and bias of a scalar floating-point format (R27). -/
def Fmt.layout : Fmt → Nat × Nat × Nat
  | .e4m3 | .b8e4 => (4, 3, 7)
  | .e5m2 | .b8e5 => (5, 2, 15)
  | .f16 => (5, 10, 15)
  | .t16 => (8, 7, 127)
  | _ => (8, 23, 127)

/-- The encoding of the largest finite value (R27). -/
def Fmt.maxBits : Fmt → Nat
  | .e4m3 | .b8e4 => 0x7E
  | .e5m2 | .b8e5 => 0x7B
  | .f16 => 0x7BFF
  | .t16 => 0x7F7F
  | _ => 0x7F7FFFFF

/-- The encoding of +infinity; the formats of E4M3 elements have none (R27). -/
def Fmt.infBits : Fmt → Nat
  | .e5m2 | .b8e5 => 0x7C
  | .f16 => 0x7C00
  | .t16 => 0x7F80
  | _ => 0x7F800000

/-- The canonical NaN of a scalar format (R29). -/
def Fmt.nanBits : Fmt → Nat
  | .e4m3 | .b8e4 => 0x7F
  | .e5m2 | .b8e5 => 0x7E
  | .f16 => 0x7E00
  | .t16 => 0x7FC0
  | _ => 0x7FC00000

/-- A value of a floating-point format: NaN, an infinity, or sign and the exact magnitude m × 2^e (R28 keeps both zeros). -/
inductive Val where
  | nan
  | inf (neg : Bool)
  | fin (neg : Bool) (m : Nat) (e : Int)
deriving DecidableEq, Repr

def Val.zero : Val := .fin false 0 0
def Val.one : Val := .fin false 1 0

/-- The number of bits of a magnitude: 0 for 0, else floor(log2 m) + 1. -/
def bitLen (m : Nat) : Nat := if m = 0 then 0 else Nat.log2 m + 1

/-- The value of an encoding of a scalar format (R27, R28, R29). -/
def decodeScalar (f : Fmt) (bits : Nat) : Val :=
  let (ew, fw, bias) := f.layout
  let s := (bits / 2 ^ (ew + fw)) % 2 = 1
  let e := (bits / 2 ^ fw) % 2 ^ ew
  let fr := bits % 2 ^ fw
  if f.elem = .e4m3 && e = 15 && fr = 7 then .nan
  else if f.elem ≠ .e4m3 && e = 2 ^ ew - 1 then (if fr = 0 then .inf s else .nan)
  else if e = 0 then .fin s fr (1 - (bias : Int) - fw)
  else .fin s (2 ^ fw + fr) ((e : Int) - bias - fw)

/-- The encoding of a finite magnitude that lies on the format's grid: mant × 2^q with q at least the subnormal quantum. -/
def encodeMag (f : Fmt) (mant : Nat) (q : Int) : Nat :=
  let (_, fw, bias) := f.layout
  let qmin : Int := 1 - (bias : Int) - fw
  if mant = 0 then 0
  else if mant < 2 ^ fw then
    if q ≤ qmin then mant
    else
      let up := min (q - qmin).toNat (fw + 1 - bitLen mant)
      let m := mant * 2 ^ up
      let q := q - up
      if m < 2 ^ fw then m else (q + fw + bias).toNat * 2 ^ fw + (m - 2 ^ fw)
  else
    let dn := bitLen mant - (fw + 1)
    let m := mant / 2 ^ dn
    (q + dn + fw + bias).toNat * 2 ^ fw + (m - 2 ^ fw)

/-- The sign bit's weight. -/
def Fmt.signBit (f : Fmt) (neg : Bool) : Nat :=
  let (ew, fw, _) := f.layout
  if neg then 2 ^ (ew + fw) else 0

/-- The rounding modes of R40; stochastic rounding carries its 16-bit random value u (R42). -/
inductive Rnd where
  | nearest
  | toZero
  | stoch (u : Nat)
deriving DecidableEq, Repr

/-- Whether a magnitude a × 2^sh + rem is rounded away from zero (R40, R42). -/
def roundUp (r : Rnd) (a rem sh : Nat) : Bool :=
  match r with
  | .nearest => rem * 2 > 2 ^ sh || (rem * 2 = 2 ^ sh && a % 2 = 1)
  | .toZero => false
  | .stoch u => rem ≠ 0 && rem * 2 ^ 16 / 2 ^ sh + u ≥ 2 ^ 16

/-- R34: the magnitude m × 2^e rounded once onto the grid of a format whose exponent range is unbounded above, as
(mantissa, quantum). -/
def roundMag (fw : Nat) (qmin : Int) (r : Rnd) (m : Nat) (e : Int) : Nat × Int :=
  if m = 0 then (0, qmin)
  else
    let top : Int := e + bitLen m - 1
    let q := max (top - fw) qmin
    if e ≥ q then (m * 2 ^ (e - q).toNat, q)
    else
      let sh := (q - e).toNat
      let a := m / 2 ^ sh
      (if roundUp r a (m % 2 ^ sh) sh then a + 1 else a, q)

/-- m × 2^e ≤ k × 2^j for magnitudes. -/
def magLe (m : Nat) (e : Int) (k : Nat) (j : Int) : Bool :=
  let lo := min e j
  m * 2 ^ (e - lo).toNat ≤ k * 2 ^ (j - lo).toNat

/-- The largest finite magnitude of a format (R27). -/
def Fmt.maxMag (f : Fmt) : Nat × Int :=
  match decodeScalar f f.maxBits with
  | .fin _ m e => (m, e)
  | _ => (0, 0)

/-- A converted value with what R36 to R38 count about it. -/
structure Conv where
  bits  : Nat
  ovf   : Bool
  flush : Bool
  nan   : Bool
  inf   : Bool
deriving DecidableEq, Repr

/-- R36: a finite magnitude beyond the target's range. -/
def overflowConv (f : Fmt) (strict : Bool) (r : Rnd) (neg : Bool) : Conv :=
  let saturates := !strict || r = .toZero
  if saturates then ⟨f.maxBits + f.signBit neg, true, false, false, false⟩
  else if f.elem = .e4m3 then ⟨f.nanBits, true, false, true, false⟩
  else ⟨f.infBits + f.signBit neg, true, false, false, false⟩

/-- R34 to R38: one value converted to a scalar format (for a block format: to its element format). -/
def convScalar (f : Fmt) (strict : Bool) (r : Rnd) (v : Val) : Conv :=
  match v with
  | .nan => ⟨f.nanBits, false, false, true, false⟩
  | .inf neg =>
    if f.elem = .e4m3 then
      if strict then ⟨f.nanBits, true, false, true, false⟩
      else ⟨f.maxBits + f.signBit neg, true, false, false, false⟩
    else ⟨f.infBits + f.signBit neg, false, false, false, true⟩
  | .fin neg m e =>
    let (_, fw, bias) := f.layout
    let (a, q) := roundMag fw (1 - (bias : Int) - fw) r m e
    let (mx, me) := f.maxMag
    if magLe a q mx me then
      ⟨encodeMag f a q + f.signBit neg, false, a = 0 && m ≠ 0, false, false⟩
    else overflowConv f strict r neg

/-- The value of a block element under its scale byte (R31). -/
def decodeBlockElem (f : Fmt) (scale elem : Nat) : Val :=
  if scale = 0xFF then .nan
  else match decodeScalar f.elem elem with
    | .fin s m e => .fin s m (e + scale - 127)
    | v => v

/-- A finite value times 2^k. -/
def Val.scale2 (v : Val) (k : Int) : Val :=
  match v with
  | .fin s m e => .fin s m (e + k)
  | v => v

/-- The larger of two magnitudes. -/
def magMax (a b : Nat × Int) : Nat × Int :=
  if magLe a.1 a.2 b.1 b.2 then b else a

/-- The scale exponent s that R32 chooses for 32 source values without a NaN. -/
def blockScale (f : Fmt) (vs : List Val) : Int :=
  let emax : Int := if f = .b8e4 then 8 else 15
  let (mx, me) := f.elem.maxMag
  let amax := vs.foldl (fun acc v => match v with | .fin _ m e => magMax acc (m, e) | _ => acc) (0, 0)
  let s :=
    if amax.1 = 0 then 0
    else
      let s := amax.2 + bitLen amax.1 - 1 - emax
      if magLe amax.1 (amax.2 - s) mx me then s else s + 1
  min (max s (-127)) 127

/-- R32: a block of source values encoded as its scale byte and its converted elements; rs gives each element's rounding. A NaN in the
block is counted once for each NaN source value. -/
def encodeBlock (f : Fmt) (strict : Bool) (vrs : List (Val × Rnd)) : Nat × List Conv :=
  if vrs.any (fun p => p.1 = .nan) then
    (0xFF, vrs.map fun p => ⟨0, false, false, p.1 = .nan, false⟩)
  else
    let s := blockScale f (vrs.map (·.1))
    ((s + 127).toNat, vrs.map fun p => convScalar f.elem strict p.2 (p.1.scale2 (-s)))

/-! ### Exact arithmetic -/

def Val.isNeg : Val → Bool
  | .inf n => n
  | .fin n _ _ => n
  | .nan => false

def Val.isZero : Val → Bool
  | .fin _ 0 _ => true
  | _ => false

def Val.isFinite : Val → Bool
  | .fin .. => true
  | _ => false

def Val.neg : Val → Val
  | .nan => .nan
  | .inf n => .inf (!n)
  | .fin n m e => .fin (!n) m e

def Val.abs : Val → Val
  | .nan => .nan
  | .inf _ => .inf false
  | .fin _ m e => .fin false m e

/-- An exact dyadic sum: an integer times a power of two. -/
structure Dy where
  m : Int
  e : Int
deriving DecidableEq, Repr

def Dy.zero : Dy := ⟨0, 0⟩

def Dy.add (a b : Dy) : Dy :=
  if a.m = 0 then b else if b.m = 0 then a
  else
    let lo := min a.e b.e
    ⟨a.m * 2 ^ (a.e - lo).toNat + b.m * 2 ^ (b.e - lo).toNat, lo⟩

/-- The exact value of a finite value (0 for the others). -/
def Val.dy : Val → Dy
  | .fin n m e => ⟨if n then -(m : Int) else m, e⟩
  | _ => Dy.zero

/-- a ≤ b of exact sums. -/
def Dy.le (a b : Dy) : Bool :=
  let lo := min a.e b.e
  a.m * 2 ^ (a.e - lo).toNat ≤ b.m * 2 ^ (b.e - lo).toNat

/-- The exact product of two values, NaN for infinity times zero. -/
def Val.mulExact (a b : Val) : Val :=
  match a, b with
  | .nan, _ => .nan
  | _, .nan => .nan
  | .inf n, .inf k => .inf (n != k)
  | .inf n, .fin k m _ => if m = 0 then .nan else .inf (n != k)
  | .fin k m _, .inf n => if m = 0 then .nan else .inf (n != k)
  | .fin n m e, .fin k j f => .fin (n != k) (m * j) (e + f)

/-- An exact magnitude rounded to binary32, nearest even, with the overflow result of the caller's choice: none when the rounded
magnitude lies beyond the largest finite value. -/
def roundF32? (neg : Bool) (m : Nat) (e : Int) : Option Val :=
  let (a, q) := roundMag 23 (-149) .nearest m e
  let (mx, me) := Fmt.maxMag .f32
  if magLe a q mx me then some (.fin neg a q) else none

/-- A finite value rounded to binary32 as IEEE 754 does: beyond the range an infinity (R51). -/
def roundF32 (neg : Bool) (m : Nat) (e : Int) : Val :=
  (roundF32? neg m e).getD (.inf neg)

/-- An exact sum rounded once to binary32; an exact zero takes the sign z. -/
def Dy.roundF32 (d : Dy) (z : Bool := false) : Val :=
  if d.m = 0 then .fin z 0 0 else Machine.roundF32 (d.m < 0) d.m.natAbs d.e

/-- The sum of values as one exact value: NaN for a NaN or for infinities of both signs, an infinity for the rest of the
infinities, else the exact sum, whose zero is −0 only when every summand is −0 (R48). -/
inductive Sum where
  | nan
  | inf (neg : Bool)
  | fin (d : Dy) (negZero : Bool)
deriving DecidableEq, Repr

def sumExact (vs : List Val) : Sum :=
  if vs.any (· = .nan) then .nan
  else if vs.any (· = .inf false) && vs.any (· = .inf true) then .nan
  else if vs.any (· = .inf false) then .inf false
  else if vs.any (· = .inf true) then .inf true
  else .fin (vs.foldl (fun d v => d.add v.dy) Dy.zero) (vs.all fun v => v.isZero && v.isNeg)

/-- R47, R48, R49: one rounded accumulation of a group of exact terms; the second component says that it overflowed. In fast mode an
overflow gives the largest finite value, in strict mode an infinity. -/
def accumulate (strict : Bool) (acc : Val) (terms : List Val) : Val × Bool :=
  match sumExact (acc :: terms) with
  | .nan => (.nan, false)
  | .inf n => (.inf n, false)
  | .fin d nz =>
    if d.m = 0 then (.fin nz 0 0, false)
    else
      let neg : Bool := d.m < 0
      match roundF32? neg d.m.natAbs d.e with
      | some v => (v, false)
      | none =>
        if strict then (.inf neg, true)
        else (.fin neg (Fmt.maxMag .f32).1 (Fmt.maxMag .f32).2, true)

/-- The first n elements and the rest, n at a time (structural on the fuel). -/
def chunksOf {α : Type} (n : Nat) : Nat → List α → List (List α)
  | 0, _ => []
  | fuel + 1, xs => if xs.isEmpty then [] else xs.take n :: chunksOf n fuel (xs.drop n)

/-- The accumulation of exact terms from c in the declared K order, grouped by 16 in fast mode (R47) and one by one in strict mode
(R49), with the number of overflows. -/
def accumulateAll (strict : Bool) (c : Val) (terms : List Val) : Val × Nat :=
  let groups := chunksOf (if strict then 1 else 16) terms.length terms
  groups.foldl (fun (acc, n) g =>
    let (v, o) := accumulate strict acc g
    (v, if o then n + 1 else n)) (c, 0)

/-! ### Binary32 operations (R51): each rounds once to nearest even, NaN results are canonical -/

def fAdd (a b : Val) : Val :=
  match sumExact [a, b] with
  | .nan => .nan
  | .inf n => .inf n
  | .fin d nz => d.roundF32 nz

def fSub (a b : Val) : Val := fAdd a b.neg

def fMul (a b : Val) : Val :=
  match a.mulExact b with
  | .fin n m e => roundF32 n m e
  | v => v

def fFma (a b c : Val) : Val :=
  match sumExact [a.mulExact b, c] with
  | .nan => .nan
  | .inf n => .inf n
  | .fin d nz => d.roundF32 nz

/-- A positive quotient num / den × 2^e rounded to binary32: 64 further quotient bits and a sticky bit decide it. -/
def roundQuot (neg : Bool) (num den : Nat) (e : Int) : Val :=
  let sh := 64 + bitLen den
  let q := num * 2 ^ sh / den
  let sticky := if num * 2 ^ sh % den = 0 then 0 else 1
  roundF32 neg (2 * q + sticky) (e - sh - 1)

def fDiv (a b : Val) : Val :=
  match a, b with
  | .nan, _ => .nan
  | _, .nan => .nan
  | .inf _, .inf _ => .nan
  | .inf n, .fin k _ _ => .inf (n != k)
  | .fin n _ _, .inf k => .fin (n != k) 0 0
  | .fin n m e, .fin k j f =>
    if j = 0 then (if m = 0 then .nan else .inf (n != k))
    else if m = 0 then .fin (n != k) 0 0
    else roundQuot (n != k) m j (e - f)

/-- The integer square root, bit by bit from 2^(n-1). -/
def isqrtFrom (x : Nat) : Nat → Nat → Nat
  | 0, r => r
  | n + 1, r =>
    let t := r + 2 ^ n
    isqrtFrom x n (if t * t ≤ x then t else r)

def isqrt (x : Nat) : Nat := isqrtFrom x (bitLen x / 2 + 1) 0

def fSqrt (a : Val) : Val :=
  match a with
  | .nan => .nan
  | .inf n => if n then .nan else .inf false
  | .fin n m e =>
    if m = 0 then .fin n 0 0
    else if n then .nan
    else
      let (m, e) := if e % 2 = 0 then (m, e) else (2 * m, e - 1)
      let x := m * 2 ^ 128
      let r := isqrt x
      roundF32 false (2 * r + (if r * r = x then 0 else 1)) (e / 2 - 64 - 1)

/-- a > b as numbers; false when either is NaN. -/
def Val.gt (a b : Val) : Bool :=
  match a, b with
  | .nan, _ => false
  | _, .nan => false
  | .inf n, .inf k => !n && k
  | .inf n, _ => !n
  | _, .inf k => k
  | a, b => !(a.dy.le b.dy)

/-- R51: max and min are exact; a NaN gives the canonical NaN; of two zeros max gives +0 and min −0 when the signs differ. -/
def fMax (a b : Val) : Val :=
  if a = .nan || b = .nan then .nan
  else if a.isZero && b.isZero then (if a.isNeg && b.isNeg then a else Val.zero)
  else if a.gt b then a else b

def fMin (a b : Val) : Val :=
  if a = .nan || b = .nan then .nan
  else if a.isZero && b.isZero then (if a.isNeg || b.isNeg then .fin true 0 0 else a)
  else if a.gt b then b else a

/-- A value of the device's binary32 arithmetic from its encoding. -/
def ofF32 (bits : Nat) : Val := decodeScalar .f32 bits

/-- The encoding of a value that lies on the binary32 grid. -/
def toF32 (v : Val) : Nat := (convScalar .f32 true .nearest v).bits

/-- R35, R36, R49: an input value decoded to F32. Only a block element beyond the F32 range changes; it is then an overflow. -/
def inputF32 (strict : Bool) (r : Rnd) (v : Val) : Val × Bool :=
  match v with
  | .fin n m e =>
    match roundF32? n m e with
    | some _ => (v, false)
    | none => (ofF32 (overflowConv .f32 strict r n).bits, true)
  | v => (v, false)

/-! ### Integers (R33, R39) -/

/-- An exact value rounded to an integer under a rounding mode (spacing 1). -/
def roundInt (r : Rnd) (v : Val) : Int :=
  match v with
  | .fin n m e =>
    let a :=
      if e ≥ 0 then m * 2 ^ e.toNat
      else
        let sh := (-e).toNat
        let a := m / 2 ^ sh
        if roundUp r a (m % 2 ^ sh) sh then a + 1 else a
    if n then -(a : Int) else a
  | _ => 0

/-- R39: a binary32 value converted to I32 or U16, with its overflow. -/
def convInt (f : Fmt) (r : Rnd) (v : Val) : Conv :=
  let lo : Int := if f = .i32 then -2147483648 else 0
  let hi : Int := if f = .i32 then 2147483647 else 65535
  let enc (x : Int) : Nat := if x < 0 then (x + 4294967296).toNat else x.toNat
  match v with
  | .nan => ⟨0, true, false, false, false⟩
  | .inf n => ⟨enc (if n then lo else hi), true, false, false, false⟩
  | v =>
    let x := roundInt r v
    if x < lo then ⟨enc lo, true, false, false, false⟩
    else if x > hi then ⟨enc hi, true, false, false, false⟩
    else ⟨enc x, false, false, false, false⟩

/-- The exact value of an integer encoding; U16 widens by zero extension (R33). -/
def decodeInt (f : Fmt) (bits : Nat) : Val :=
  if f = .i32 && bits ≥ 2147483648 then .fin true (4294967296 - bits) 0 else .fin false bits 0

/-! ### The generator of stochastic rounding (R43, R44) -/

def rotl32 (x k : Nat) : Nat := (x * 2 ^ k % 2 ^ 32) ||| (x / 2 ^ (32 - k))

def mixRound (k0 k1 : Nat) (x : Nat × Nat × Nat × Nat) (rc : Nat) : Nat × Nat × Nat × Nat :=
  let (x0, x1, x2, x3) := x
  let x0 := (x0 + (k0 ^^^ rc)) % 2 ^ 32
  let x1 := (x1 + (k1 ^^^ rc)) % 2 ^ 32
  let x0 := (x0 + x1) % 2 ^ 32
  let x3 := rotl32 (x3 ^^^ x0) 16
  let x2 := (x2 + x3) % 2 ^ 32
  let x1 := rotl32 (x1 ^^^ x2) 12
  let x0 := (x0 + x1) % 2 ^ 32
  let x3 := rotl32 (x3 ^^^ x0) 8
  let x2 := (x2 + x3) % 2 ^ 32
  let x1 := rotl32 (x1 ^^^ x2) 7
  (x0, x1, x2, x3)

/-- R44: the 128 output bits for a counter c and a 64-bit key k. -/
def generator (c k : Nat) : Nat :=
  let x := (c % 2 ^ 32, c / 2 ^ 32 % 2 ^ 32, c / 2 ^ 64 % 2 ^ 32, c / 2 ^ 96 % 2 ^ 32)
  let (x0, x1, x2, x3) :=
    [0x243f6a88, 0x85a308d3, 0x13198a2e, 0x03707344].foldl (mixRound (k % 2 ^ 32) (k / 2 ^ 32 % 2 ^ 32)) x
  x0 + x1 * 2 ^ 32 + x2 * 2 ^ 64 + x3 * 2 ^ 96

/-- What of R43's counter a command fixes, and the width N of the output matrix. -/
structure RndCtx where
  mode   : Nat      -- the 2-bit code of R40
  key    : Nat      -- the job key of R45
  step   : Nat
  layer  : Nat
  stream : Nat
  mb     : Nat
  base   : Nat      -- TILEBASE
  n      : Nat      -- columns of the output matrix
deriving DecidableEq, Repr

/-- R43: the counter of the element at row r and column c of the output. -/
def srCounter (x : RndCtx) (r c : Nat) : Nat :=
  let tile := (x.base + (r / 256 * ((x.n + 255) / 256) + c / 256)) % 2 ^ 42
  let lane := r % 256 * 32 + c % 256 / 8
  (x.step % 2 ^ 48) * 2 ^ 80 + x.layer * 2 ^ 68 + x.stream * 2 ^ 64 + x.mb * 2 ^ 58 + tile * 2 ^ 16 + lane

/-- The rounding of the element at row r and column c under the command's mode (R40 to R44). -/
def rndAt (x : RndCtx) (r c : Nat) : Rnd :=
  match x.mode with
  | 0 => .nearest
  | 1 => .toZero
  | _ => .stoch (generator (srCounter x r c) x.key / 2 ^ (16 * (c % 8)) % 2 ^ 16)

/-- The rounding of element e of a command that is not a matrix product (R43). -/
def rndElem (x : RndCtx) (e : Nat) : Rnd := rndAt { x with n := 256 } (e / 256) (e % 256)

end Sys2Proof.Machine
end

