-- ==== Sys2Proof/Machine/RegTable.lean ====
section
/-! DEFINITION. The register map (20_register_map): windows, the rows of the index of R451 with the access masks and reset values of
their field tables, and a name for every register (its register-space offset, R444) and for every field. Registers of a carriage are named for
C0, of a fabric port for port 1's page, of a stack for page 1; `Fld.car`, `Fld.port` and `Fld.stack` move a name to the others. -/
namespace Sys2Proof.Machine

/-- A field of a register: its register's offset and its bit range. -/
structure Fld where
  reg : Nat
  hi  : Nat
  lo  : Nat
deriving DecidableEq, Repr

/-- The offset of carriage n's copy of a register of C0 (R444: windows 0x10 apart). -/
def carReg (k n : Nat) : Nat := k + 0x100000 * n

/-- The offset of a port's or a stack's copy of a register: pages 0x1000 apart (R236, R187); i counts from 0. -/
def pageReg (k i : Nat) : Nat := k + 0x1000 * i

def Fld.car (f : Fld) (n : Nat) : Fld := { f with reg := carReg f.reg n }
def Fld.page (f : Fld) (i : Nat) : Fld := { f with reg := pageReg f.reg i }

/-- The field of the i-th register of a run of registers. -/
def Fld.nth (f : Fld) (i : Nat) (stride : Nat := 4) : Fld := { f with reg := f.reg + stride * i }

/-- The field of stack i (0 to 7): carriage i div 2, page 1 or 2 (R187). -/
def Fld.stack (f : Fld) (i : Nat) : Fld := (f.car (i / 2)).page (i % 2)

/-- The register of stack i. -/
def stackReg (k i : Nat) : Nat := pageReg (carReg k (i / 2)) (i % 2)

/-- One row of the index: `count` registers from offset `key`, `stride` apart, with the masks of their RW, RWL and W1C bits and their
reset value. Every other bit is RO, WO or reserved. -/
structure RegRow where
  key    : Nat
  count  : Nat
  stride : Nat
  rw     : Nat
  rwl    : Nat
  w1c    : Nat
  reset  : Nat
deriving DecidableEq, Repr

/-! ### Register offsets -/
namespace R

/-- R16. -/
def HUB_CCORE_STS : Nat := 0x40
/-- R23. -/
def HUB_STEP_STS : Nat := 0x44
/-- R23, low word of a pair or first of two. -/
def HUB_STEP_NUM : Nat := 0x48
/-- R135. -/
def HUB_SCHED_CFG : Nat := 0x1040
/-- R136. -/
def HUB_SCHED_STS : Nat := 0x1044
/-- R137. -/
def HUB_SCHED_T_STEP : Nat := 0x1048
/-- R137. -/
def HUB_SCHED_T_FWD : Nat := 0x104C
/-- R137. -/
def HUB_SCHED_T_BIN : Nat := 0x1050
/-- R137. -/
def HUB_SCHED_T_BF : Nat := 0x1054
/-- R137. -/
def HUB_SCHED_T_UPD : Nat := 0x1058
/-- R137. -/
def HUB_SCHED_MX_IDLE : Nat := 0x105C
/-- R137. -/
def HUB_SCHED_MX_BFGAP : Nat := 0x1060
/-- R138. -/
def HUB_SCHED_CTL : Nat := 0x1064
/-- R138, low word of a pair or first of two. -/
def HUB_SCHED_FIRST : Nat := 0x1068
/-- R156. -/
def HUB_WATCH_CFG : Nat := 0x2040
/-- R156. -/
def HUB_WATCH_WIN : Nat := 0x2044
/-- R156. -/
def HUB_WATCH_GS : Nat := 0x2048
/-- R156. -/
def HUB_WATCH_RATIO_HI : Nat := 0x204C
/-- R156. -/
def HUB_WATCH_SEL : Nat := 0x2050
/-- R156. -/
def HUB_WATCH_CTL : Nat := 0x2054
/-- R156. -/
def HUB_WATCH_STS : Nat := 0x2058
/-- R156, low word of a pair or first of two. -/
def HUB_WATCH_LOG : Nat := 0x205C
/-- R156. -/
def HUB_WATCH_LOG_CFG : Nat := 0x2064
/-- R156. -/
def HUB_WATCH_LOG_TAIL : Nat := 0x2068
/-- R156: 16 registers, 4 bytes apart. -/
def HUB_WATCH_DATA : Nat := 0x2080
/-- R310. -/
def HUB_RCV_CFG : Nat := 0x3040
/-- R310. -/
def HUB_RCV_EPOCH : Nat := 0x3044
/-- R310. -/
def HUB_RCV_SEQ : Nat := 0x3048
/-- R310. -/
def HUB_RCV_STS : Nat := 0x304C
/-- R310. -/
def HUB_JOIN_CFG : Nat := 0x3050
/-- R310. -/
def HUB_JOIN_STS : Nat := 0x3054
/-- R310. -/
def HUB_UNIT_CFG : Nat := 0x3058
/-- R310. -/
def HUB_UNIT_STS : Nat := 0x305C
/-- R334. -/
def HUB_PRE_NOTICE : Nat := 0x4040
/-- R334. -/
def HUB_PRE_CFG : Nat := 0x4044
/-- R334. -/
def HUB_PRE_STS : Nat := 0x4048
/-- R334, low word of a pair or first of two. -/
def HUB_PRE_STEP : Nat := 0x404C
/-- R334. -/
def HUB_PRE_CTL : Nat := 0x4054
/-- R351. -/
def HUB_WD_LIMIT0 : Nat := 0x5040
/-- R351. -/
def HUB_WD_LIMIT1 : Nat := 0x5044
/-- R351. -/
def HUB_RST_CFG : Nat := 0x5048
/-- R351. -/
def HUB_RST_CTL : Nat := 0x504C
/-- R351. -/
def HUB_RST_REQ : Nat := 0x5050
/-- R351. -/
def HUB_RST_STS : Nat := 0x5054
/-- R351. -/
def HUB_RST_SEL : Nat := 0x5058
/-- R351. -/
def HUB_RST_CNT : Nat := 0x505C
/-- R351. -/
def HUB_OOS0 : Nat := 0x5060
/-- R351. -/
def HUB_OOS1 : Nat := 0x5064
/-- R351. -/
def HUB_ABORT_STS : Nat := 0x5068
/-- R351, low word of a pair or first of two. -/
def HUB_ABORT_STEP : Nat := 0x506C
/-- R351. -/
def HUB_ABORT_ORIGIN : Nat := 0x5074
/-- R351. -/
def HUB_ABORT_CTL : Nat := 0x5078
/-- R351. -/
def HUB_WD_INFO : Nat := 0x507C
/-- R429. -/
def HUB_TEST_REQ : Nat := 0x6040
/-- R429. -/
def HUB_TEST_STS : Nat := 0x6044
/-- R429. -/
def HUB_TEST_CFG : Nat := 0x6048
/-- R429. -/
def HUB_SEAL_CTL : Nat := 0x604C
/-- R429. -/
def HUB_SEAL_STS : Nat := 0x6050
/-- R164, low word of a pair or first of two. -/
def DEP_MODE : Nat := 0x10040
/-- R164, low word of a pair or first of two. -/
def DEP_MODE_CUR : Nat := 0x10048
/-- R165. -/
def DEP_STS : Nat := 0x10050
/-- R164: 8 registers, 8 bytes apart. -/
def DEP_CR_BASE : Nat := 0x10060
/-- R164: 8 registers, 8 bytes apart. -/
def DEP_CR_LIMIT : Nat := 0x10064
/-- R164. -/
def DEP_CE_CNT : Nat := 0x100A0
/-- R164. -/
def DEP_UE_CNT : Nat := 0x100A4
/-- R164. -/
def DEP_REFETCH_CNT : Nat := 0x100A8
/-- R164, low word of a pair or first of two. -/
def DEP_HIT : Nat := 0x100B0
/-- R164, low word of a pair or first of two. -/
def DEP_MISS : Nat := 0x100B8
/-- R110. -/
def SYN_SEL : Nat := 0x20040
/-- R110, low word of a pair or first of two. -/
def SYN_VAL : Nat := 0x20044
/-- R110. -/
def SYN_ADD : Nat := 0x2004C
/-- R110, low word of a pair or first of two. -/
def SYN_BOUND : Nat := 0x20050
/-- R110. -/
def SYN_STS : Nat := 0x20058
/-- R104. -/
def QUE_SEL : Nat := 0x30040
/-- R105. -/
def QUE_CFG : Nat := 0x30044
/-- R104, low word of a pair or first of two. -/
def QUE_BASE : Nat := 0x30048
/-- R104. -/
def QUE_PTR : Nat := 0x30050
/-- R104. -/
def QUE_SAFE : Nat := 0x30054
/-- R106. -/
def QUE_STS : Nat := 0x30058
/-- R107. -/
def QUE_CTL : Nat := 0x3005C
/-- R104. -/
def QUE_CTX_SEL : Nat := 0x30080
/-- R108. -/
def QUE_CTX_CFG : Nat := 0x30084
/-- R104. -/
def QUE_CTX_WIN_BASE : Nat := 0x30088
/-- R104. -/
def QUE_CTX_WIN_LIMIT : Nat := 0x3008C
/-- R104, low word of a pair or first of two. -/
def QUE_CTX_SRKEY : Nat := 0x30090
/-- R104. -/
def QUE_CTX_EPOCH : Nat := 0x30098
/-- R109. -/
def QUE_CTX_STS : Nat := 0x3009C
/-- R104, low word of a pair or first of two. -/
def QUE_CTX_CR : Nat := 0x300A0
/-- R109. -/
def QUE_CTX_CR_CFG : Nat := 0x300A8
/-- R104. -/
def QUE_CTX_CR_TAIL : Nat := 0x300AC
/-- R260. -/
def CXE_CFG : Nat := 0x40040
/-- R258. -/
def CXE_EPOCH : Nat := 0x40044
/-- R258. -/
def CXE_LCOORD : Nat := 0x40048
/-- R259: 4 registers, 4 bytes apart. -/
def CXE_CUT : Nat := 0x4004C
/-- R258. -/
def CXE_NEXT_EPOCH : Nat := 0x4005C
/-- R258. -/
def CXE_NEXT_LCOORD : Nat := 0x40060
/-- R259: 4 registers, 4 bytes apart. -/
def CXE_NEXT_CUT : Nat := 0x40064
/-- R258, low word of a pair or first of two. -/
def CXE_NEXT_STEP : Nat := 0x40074
/-- R258. -/
def CXE_NEXT_CTL : Nat := 0x4007C
/-- R260. -/
def CXE_NEXT_STS : Nat := 0x40080
/-- R258. -/
def CXE_REFUSE_CNT : Nat := 0x40084
/-- R258. -/
def CXE_RESEND_CNT : Nat := 0x40088
/-- R258. -/
def CXE_CHECK_CNT : Nat := 0x4008C
/-- R212. -/
def IXE_CFG : Nat := 0x50040
/-- R212. -/
def IXE_STS : Nat := 0x50044
/-- R212. -/
def IXE_WORK_BASE : Nat := 0x50048
/-- R212. -/
def IXE_WORK_SIZE : Nat := 0x5004C
/-- R212, low word of a pair or first of two. -/
def IXE_SHUF_N : Nat := 0x50050
/-- R212, low word of a pair or first of two. -/
def IXE_SHUF_KEY : Nat := 0x50058
/-- R212. -/
def IXE_SHUF_SEED : Nat := 0x50060
/-- R212, low word of a pair or first of two. -/
def IXE_SHUF_STEP0 : Nat := 0x50064
/-- R212. -/
def IXE_SHUF_MEMBERS : Nat := 0x5006C
/-- R212. -/
def IXE_SHUF_RANK : Nat := 0x50070
/-- R212. -/
def IXE_SHUF_BATCH : Nat := 0x50074
/-- R212, low word of a pair or first of two. -/
def IXE_PICS : Nat := 0x50078
/-- R212: 16 registers, 8 bytes apart. -/
def IXE_SLOT_BASE : Nat := 0x50080
/-- R212: 16 registers, 8 bytes apart. -/
def IXE_SLOT_SIZE : Nat := 0x50084
/-- R212: 3 registers, 4 bytes apart. -/
def IXE_NORM1_MEAN : Nat := 0x50100
/-- R212: 3 registers, 4 bytes apart. -/
def IXE_NORM1_SCALE : Nat := 0x5010C
/-- R212: 3 registers, 4 bytes apart. -/
def IXE_NORM2_MEAN : Nat := 0x50120
/-- R212: 3 registers, 4 bytes apart. -/
def IXE_NORM2_SCALE : Nat := 0x5012C
/-- R212: 3 registers, 4 bytes apart. -/
def IXE_NORM3_MEAN : Nat := 0x50140
/-- R212: 3 registers, 4 bytes apart. -/
def IXE_NORM3_SCALE : Nat := 0x5014C
/-- R212: 3 registers, 4 bytes apart. -/
def IXE_NORM4_MEAN : Nat := 0x50160
/-- R212: 3 registers, 4 bytes apart. -/
def IXE_NORM4_SCALE : Nat := 0x5016C
/-- R212: 3 registers, 4 bytes apart. -/
def IXE_NORM5_MEAN : Nat := 0x50180
/-- R212: 3 registers, 4 bytes apart. -/
def IXE_NORM5_SCALE : Nat := 0x5018C
/-- R212: 3 registers, 4 bytes apart. -/
def IXE_NORM6_MEAN : Nat := 0x501A0
/-- R212: 3 registers, 4 bytes apart. -/
def IXE_NORM6_SCALE : Nat := 0x501AC
/-- R212: 3 registers, 4 bytes apart. -/
def IXE_NORM7_MEAN : Nat := 0x501C0
/-- R212: 3 registers, 4 bytes apart. -/
def IXE_NORM7_SCALE : Nat := 0x501CC
/-- R212. -/
def IXE_ERR_CNT : Nat := 0x50200
/-- R212. -/
def IXE_AUTH_CNT : Nat := 0x50204
/-- R212. -/
def IXE_DUAL_CNT : Nat := 0x50208
/-- R289. -/
def LXE_CFG : Nat := 0x60040
/-- R288, low word of a pair or first of two. -/
def LXE_LEDGER_BASE : Nat := 0x60044
/-- R288. -/
def LXE_LEDGER_SIZE : Nat := 0x6004C
/-- R288. -/
def LXE_LEDGER_STS : Nat := 0x60050
/-- R290. -/
def LXE_VSTS : Nat := 0x60054
/-- R288. -/
def LXE_VORIGIN : Nat := 0x60058
/-- R288, low word of a pair or first of two. -/
def LXE_VSTEP : Nat := 0x6005C
/-- R288: 8 registers, 8 bytes apart. -/
def LXE_SR_BASE : Nat := 0x60070
/-- R288: 8 registers, 8 bytes apart. -/
def LXE_SR_LIMIT : Nat := 0x60074
/-- R288. -/
def LXE_REPLAY_CNT : Nat := 0x600B0
/-- R288. -/
def LXE_WIN_REDO_CNT : Nat := 0x600B4
/-- R288. -/
def LXE_GUARD_CNT : Nat := 0x600B8
/-- R288. -/
def LXE_REREAD_FIX_CNT : Nat := 0x600BC
/-- R288. -/
def LXE_RECDIFF_CNT : Nat := 0x600C0
/-- R333. -/
def LXE_CKPT_CFG : Nat := 0x61040
/-- R332, low word of a pair or first of two. -/
def LXE_CKPT_BASE : Nat := 0x61044
/-- R332. -/
def LXE_CKPT_SIZE : Nat := 0x6104C
/-- R332: 4 registers, 8 bytes apart. -/
def LXE_CKPT_SRC_BASE : Nat := 0x61050
/-- R332: 4 registers, 8 bytes apart. -/
def LXE_CKPT_SRC_LIMIT : Nat := 0x61054
/-- R333. -/
def LXE_CKPT_STS : Nat := 0x61070
/-- R332. -/
def LXE_CKPT_GEN : Nat := 0x61074
/-- R332, low word of a pair or first of two. -/
def LXE_CKPT_STEP : Nat := 0x61078
/-- R332. -/
def LXE_CKPT_PROG : Nat := 0x61080
/-- R332. -/
def LXE_CKPT_CTL : Nat := 0x61084
/-- R332. -/
def LXE_CKPT_UNITS : Nat := 0x61088
/-- R332. -/
def LXE_CKPT_STALL_CNT : Nat := 0x6108C
/-- R332, low word of a pair or first of two. -/
def LXE_CKPT_GDIG : Nat := 0x61090
/-- R332. -/
def LXE_CKPT_RATE : Nat := 0x61098
/-- R237. -/
def FAB_COORD : Nat := 0x70040
/-- R237. -/
def FAB_DIMS : Nat := 0x70044
/-- R237. -/
def FAB_YOKE : Nat := 0x70048
/-- R236. -/
def FAB_ARB : Nat := 0x7004C
/-- R236, low word of a pair or first of two. -/
def FAB_MAP_BASE : Nat := 0x70050
/-- R236. -/
def FAB_MAP_CTL : Nat := 0x70058
/-- R236. -/
def FAB_UNREACH_CNT : Nat := 0x7005C
/-- R238. -/
def FAB_PORT_CTL : Nat := 0x71040
/-- R239. -/
def FAB_PORT_STS : Nat := 0x71044
/-- R240. -/
def FAB_LANE_MAP : Nat := 0x71048
/-- R236. -/
def FAB_LANE_SEL : Nat := 0x7104C
/-- R236. -/
def FAB_LANE_CNT : Nat := 0x71050
/-- R236, low word of a pair or first of two. -/
def FAB_CW_CORR : Nat := 0x71054
/-- R236. -/
def FAB_CW_UNCORR : Nat := 0x7105C
/-- R236. -/
def FAB_RETRY_CNT : Nat := 0x71060
/-- R236. -/
def FAB_VIOL_CNT : Nat := 0x71064
/-- R240. -/
def FAB_VIOL_INFO : Nat := 0x71068
/-- R240. -/
def FAB_PEER_ERR : Nat := 0x7106C
/-- R236. -/
def FAB_AUTH_CNT : Nat := 0x71070
/-- R236. -/
def FAB_KEY_GEN : Nat := 0x71074
/-- R367. -/
def ICU_CFG : Nat := 0x80040
/-- R366. -/
def ICU_SRC_SEL : Nat := 0x80044
/-- R367. -/
def ICU_SRC_CFG : Nat := 0x80048
/-- R366. -/
def ICU_GRP_SEL : Nat := 0x8004C
/-- R366. -/
def ICU_GRP_CFG0 : Nat := 0x80050
/-- R367. -/
def ICU_GRP_CFG1 : Nat := 0x80054
/-- R366. -/
def ICU_GRP_STS : Nat := 0x80058
/-- R366, low word of a pair or first of two. -/
def ICU_MSI_ADDR : Nat := 0x80060
/-- R366, low word of a pair or first of two. -/
def ICU_MSIX_ADDR : Nat := 0x80068
/-- R366. -/
def ICU_MSI_DATA : Nat := 0x80070
/-- R366: 64 registers, 4 bytes apart. -/
def ICU_HMASK : Nat := 0x81040
/-- R366: 64 registers, 4 bytes apart. -/
def ICU_HPEND : Nat := 0x81140
/-- R366: 64 registers, 4 bytes apart. -/
def ICU_HRAW : Nat := 0x81240
/-- R366: 64 registers, 4 bytes apart. -/
def ICU_FMASK : Nat := 0x82040
/-- R366: 64 registers, 4 bytes apart. -/
def ICU_FPEND : Nat := 0x82140
/-- R366: 64 registers, 4 bytes apart. -/
def ICU_FRAW : Nat := 0x82240
/-- R366: 8 registers, 16 bytes apart. -/
def ICU_T_EOI : Nat := 0x83040
/-- R367: 8 registers, 16 bytes apart. -/
def ICU_T_STK : Nat := 0x83044
/-- R366: 8 registers, 16 bytes apart. -/
def ICU_T_CTL : Nat := 0x83048
/-- R366: 16 registers, 4 bytes apart. -/
def ICU_T_VEC : Nat := 0x83100
/-- R408. -/
def OST_STS : Nat := 0x90040
/-- R408. -/
def OST_SENSOR_SEL : Nat := 0x90044
/-- R408. -/
def OST_SENSOR_VAL : Nat := 0x90048
/-- R408. -/
def OST_MBX_CTL : Nat := 0x9004C
/-- R408. -/
def OST_MBX_STS : Nat := 0x90050
/-- R408, low word of a pair or first of two. -/
def OST_MAC : Nat := 0x90054
/-- R408: 1008 registers, 4 bytes apart. -/
def OST_MBX_REQ : Nat := 0x91040
/-- R408: 1008 registers, 4 bytes apart. -/
def OST_MBX_RSP : Nat := 0x92040
/-- R408. -/
def SEC_STS : Nat := 0xA0040
/-- R408. -/
def SEC_SLOT_SEL : Nat := 0xA0044
/-- R408. -/
def SEC_SLOT_STS : Nat := 0xA0048
/-- R427. -/
def PWR_LEVELS : Nat := 0xB0040
/-- R427. -/
def PWR_STS : Nat := 0xB0044
/-- R427. -/
def PWR_DIP_MIN : Nat := 0xB0048
/-- R427. -/
def PWR_CAP : Nat := 0xB004C
/-- R427. -/
def PWR_THERM : Nat := 0xB0050
/-- R427. -/
def PWR_THROT_STS : Nat := 0xB0054
/-- R427. -/
def PWR_THROT_CTL : Nat := 0xB0058
/-- R428. -/
def CLK_CFG : Nat := 0xC0040
/-- R428. -/
def CLK_STS : Nat := 0xC0044
/-- R384. -/
def UCI_CFG : Nat := 0xD0040
/-- R384. -/
def UCI_STS : Nat := 0xD0044
/-- R384. -/
def UCI_VIOL_CNT : Nat := 0xD0048
/-- R384. -/
def UCI_VIOL_INFO : Nat := 0xD004C
/-- R384. -/
def UCI_RETRY_CNT : Nat := 0xD0050
/-- R384. -/
def UCI_AUTH_CNT : Nat := 0xD0054
/-- R352. -/
def DMP_CFG : Nat := 0xE0040
/-- R352, low word of a pair or first of two. -/
def DMP_OUT_BASE : Nat := 0xE0044
/-- R352. -/
def DMP_OUT_SIZE : Nat := 0xE004C
/-- R352. -/
def DMP_STS : Nat := 0xE0050
/-- R352. -/
def DMP_CTL : Nat := 0xE0054
/-- R352. -/
def DMP_SEQ : Nat := 0xE0058
/-- R295. -/
def CAR_CORE_MAP : Nat := 0x1000040
/-- R295. -/
def CAR_CORE_STS : Nat := 0x1000044
/-- R295. -/
def CAR_VX_MAP : Nat := 0x1000048
/-- R295. -/
def CAR_REMOUNT_CTL : Nat := 0x100004C
/-- R295. -/
def CAR_REMOUNT_STS : Nat := 0x1000050
/-- R295. -/
def CAR_SLOW_CFG : Nat := 0x1000054
/-- R295: 8 registers, 4 bytes apart. -/
def CAR_SLOW_RATIO : Nat := 0x1000060
/-- R295. -/
def CAR_VX_MAP0 : Nat := 0x1000080
/-- R295. -/
def CAR_VX_MAP1 : Nat := 0x1000084
/-- R295. -/
def CAR_VX_MAP2 : Nat := 0x1000088
/-- R295. -/
def CAR_VX_MAP3 : Nat := 0x100008C
/-- R68. -/
def MXC_CHK_CTL : Nat := 0x1010040
/-- R69. -/
def MXC_CHK_STS : Nat := 0x1010044
/-- R70, low word of a pair or first of two. -/
def MXC_CHK_STEP : Nat := 0x1010048
/-- R70. -/
def MXC_CHK_INFO : Nat := 0x1010050
/-- R70. -/
def MXC_CHK_EXCESS : Nat := 0x1010054
/-- R70. -/
def MXC_CHK_POS : Nat := 0x1010058
/-- R71: 8 registers, 4 bytes apart. -/
def MXC_CHK_CNT : Nat := 0x1010060
/-- R188. -/
def MEM_CFG : Nat := 0x1041040
/-- R189. -/
def MEM_PRIO : Nat := 0x1041044
/-- R187. -/
def MEM_PCH_SEL : Nat := 0x1041048
/-- R190. -/
def MEM_PCH_STS : Nat := 0x104104C
/-- R187. -/
def MEM_CE_CNT : Nat := 0x1041050
/-- R187. -/
def MEM_UE_CNT : Nat := 0x1041054
/-- R187, low word of a pair or first of two. -/
def MEM_ERR_ADDR : Nat := 0x1041058
/-- R191. -/
def MEM_ERR_INFO : Nat := 0x1041060
/-- R187. -/
def MEM_REMAP_STS : Nat := 0x1041064
/-- R187. -/
def MEM_RETIRE_SEL : Nat := 0x1041068
/-- R187. -/
def MEM_RETIRE_PAGE : Nat := 0x104106C
/-- R187. -/
def MEM_RETIRE_CNT : Nat := 0x1041070
/-- R187. -/
def MEM_TRAIN_CTL : Nat := 0x1041074
/-- R447; the offset within a window. -/
def BLK_CTL : Nat := 0x10
/-- R447; the offset within a window. -/
def BLK_STS : Nat := 0x14
/-- R447; the offset within a window. -/
def BLK_EVT_RAW : Nat := 0x18
/-- R447; the offset within a window. -/
def BLK_EVT_EN : Nat := 0x1C
/-- R447; the offset within a window. -/
def BLK_ERR_INFO0 : Nat := 0x28
/-- R447; the offset within a window. -/
def BLK_ERR_INFO1 : Nat := 0x2C
/-- R447; the offset within a window. -/
def BLK_ERR_INFO2 : Nat := 0x30

end R

/-! ### Fields -/
namespace F

def HUB_CCORE_STS_OSTLER : Fld := ⟨R.HUB_CCORE_STS, 15, 14⟩
def HUB_CCORE_STS_RCORE : Fld := ⟨R.HUB_CCORE_STS, 13, 12⟩
def HUB_CCORE_STS_SCORE1 : Fld := ⟨R.HUB_CCORE_STS, 11, 10⟩
def HUB_CCORE_STS_SCORE0 : Fld := ⟨R.HUB_CCORE_STS, 9, 8⟩
def HUB_CCORE_STS_CC3 : Fld := ⟨R.HUB_CCORE_STS, 7, 6⟩
def HUB_CCORE_STS_CC2 : Fld := ⟨R.HUB_CCORE_STS, 5, 4⟩
def HUB_CCORE_STS_CC1 : Fld := ⟨R.HUB_CCORE_STS, 3, 2⟩
def HUB_CCORE_STS_CC0 : Fld := ⟨R.HUB_CCORE_STS, 1, 0⟩
def HUB_STEP_STS_BOUNDARY : Fld := ⟨R.HUB_STEP_STS, 31, 31⟩
def HUB_STEP_STS_PHASE : Fld := ⟨R.HUB_STEP_STS, 10, 8⟩
def HUB_STEP_STS_PASS : Fld := ⟨R.HUB_STEP_STS, 1, 0⟩
def HUB_SCHED_CFG_PH_ENFORCE : Fld := ⟨R.HUB_SCHED_CFG, 31, 31⟩
def HUB_SCHED_CFG_PHCTR : Fld := ⟨R.HUB_SCHED_CFG, 29, 16⟩
def HUB_SCHED_CFG_MB_LAST : Fld := ⟨R.HUB_SCHED_CFG, 5, 0⟩
def HUB_SCHED_STS_CFG_ERR : Fld := ⟨R.HUB_SCHED_STS, 31, 31⟩
def HUB_SCHED_STS_PH_REFUSED : Fld := ⟨R.HUB_SCHED_STS, 23, 16⟩
def HUB_SCHED_STS_PH : Fld := ⟨R.HUB_SCHED_STS, 7, 0⟩
def HUB_SCHED_CTL_RUN : Fld := ⟨R.HUB_SCHED_CTL, 31, 31⟩
def HUB_WATCH_CFG_WIDEN_EN : Fld := ⟨R.HUB_WATCH_CFG, 31, 31⟩
def HUB_WATCH_CFG_GS_ON : Fld := ⟨R.HUB_WATCH_CFG, 30, 30⟩
def HUB_WATCH_CFG_GS_AXES : Fld := ⟨R.HUB_WATCH_CFG, 29, 26⟩
def HUB_WATCH_CFG_WREP_MAX : Fld := ⟨R.HUB_WATCH_CFG, 19, 16⟩
def HUB_WATCH_CFG_STICKY_N : Fld := ⟨R.HUB_WATCH_CFG, 15, 8⟩
def HUB_WATCH_WIN_STICKY_WIN : Fld := ⟨R.HUB_WATCH_WIN, 31, 0⟩
def HUB_WATCH_GS_GMAX : Fld := ⟨R.HUB_WATCH_GS, 31, 24⟩
def HUB_WATCH_GS_GMIN : Fld := ⟨R.HUB_WATCH_GS, 23, 16⟩
def HUB_WATCH_GS_FLUSH_HI : Fld := ⟨R.HUB_WATCH_GS, 15, 0⟩
def HUB_WATCH_SEL_INDEX : Fld := ⟨R.HUB_WATCH_SEL, 12, 0⟩
def HUB_WATCH_CTL_COMMIT : Fld := ⟨R.HUB_WATCH_CTL, 1, 1⟩
def HUB_WATCH_CTL_CAPTURE : Fld := ⟨R.HUB_WATCH_CTL, 0, 0⟩
def HUB_WATCH_STS_PENDING : Fld := ⟨R.HUB_WATCH_STS, 31, 31⟩
def HUB_WATCH_STS_REFUSED : Fld := ⟨R.HUB_WATCH_STS, 30, 30⟩
def HUB_WATCH_STS_LOG_OVF : Fld := ⟨R.HUB_WATCH_STS, 29, 29⟩
def HUB_WATCH_STS_PEND_SEL : Fld := ⟨R.HUB_WATCH_STS, 12, 0⟩
def HUB_WATCH_LOG_CFG_EN : Fld := ⟨R.HUB_WATCH_LOG_CFG, 31, 31⟩
def HUB_WATCH_LOG_CFG_SIZE_LOG2 : Fld := ⟨R.HUB_WATCH_LOG_CFG, 20, 16⟩
def HUB_WATCH_LOG_CFG_HEAD : Fld := ⟨R.HUB_WATCH_LOG_CFG, 15, 0⟩
def HUB_WATCH_LOG_TAIL_TAIL : Fld := ⟨R.HUB_WATCH_LOG_TAIL, 15, 0⟩
def HUB_RCV_CFG_POLICY : Fld := ⟨R.HUB_RCV_CFG, 31, 31⟩
def HUB_RCV_CFG_N : Fld := ⟨R.HUB_RCV_CFG, 26, 24⟩
def HUB_RCV_CFG_K : Fld := ⟨R.HUB_RCV_CFG, 22, 20⟩
def HUB_RCV_CFG_VOTE_SEC : Fld := ⟨R.HUB_RCV_CFG, 15, 0⟩
def HUB_RCV_STS_RCMD : Fld := ⟨R.HUB_RCV_STS, 31, 24⟩
def HUB_RCV_STS_RESP : Fld := ⟨R.HUB_RCV_STS, 23, 16⟩
def HUB_RCV_STS_VOTES : Fld := ⟨R.HUB_RCV_STS, 7, 0⟩
def HUB_JOIN_CFG_SHADOW_FAILS : Fld := ⟨R.HUB_JOIN_CFG, 15, 8⟩
def HUB_JOIN_CFG_SHADOW_STEPS : Fld := ⟨R.HUB_JOIN_CFG, 7, 0⟩
def HUB_JOIN_STS_ROLE : Fld := ⟨R.HUB_JOIN_STS, 31, 30⟩
def HUB_JOIN_STS_STATE : Fld := ⟨R.HUB_JOIN_STS, 29, 27⟩
def HUB_JOIN_STS_FAILS : Fld := ⟨R.HUB_JOIN_STS, 15, 8⟩
def HUB_JOIN_STS_CLEAN : Fld := ⟨R.HUB_JOIN_STS, 7, 0⟩
def HUB_UNIT_CFG_REPEAT_N : Fld := ⟨R.HUB_UNIT_CFG, 31, 24⟩
def HUB_UNIT_CFG_HYST : Fld := ⟨R.HUB_UNIT_CFG, 23, 16⟩
def HUB_UNIT_CFG_DSLOW_PCT : Fld := ⟨R.HUB_UNIT_CFG, 15, 8⟩
def HUB_UNIT_CFG_HIST_WIN : Fld := ⟨R.HUB_UNIT_CFG, 7, 0⟩
def HUB_UNIT_STS_HIST_OVF : Fld := ⟨R.HUB_UNIT_STS, 31, 31⟩
def HUB_UNIT_STS_SPARE_SHORT : Fld := ⟨R.HUB_UNIT_STS, 30, 30⟩
def HUB_UNIT_STS_DEV_SLOW : Fld := ⟨R.HUB_UNIT_STS, 29, 29⟩
def HUB_UNIT_STS_DSLOW_RUN : Fld := ⟨R.HUB_UNIT_STS, 15, 0⟩
def HUB_PRE_NOTICE_NOTICE : Fld := ⟨R.HUB_PRE_NOTICE, 31, 31⟩
def HUB_PRE_NOTICE_DEADLINE_MS : Fld := ⟨R.HUB_PRE_NOTICE, 15, 0⟩
def HUB_PRE_CFG_PIN_EN : Fld := ⟨R.HUB_PRE_CFG, 31, 31⟩
def HUB_PRE_CFG_MARGIN_MS : Fld := ⟨R.HUB_PRE_CFG, 27, 16⟩
def HUB_PRE_CFG_PIN_DEADLINE_MS : Fld := ⟨R.HUB_PRE_CFG, 15, 0⟩
def HUB_PRE_STS_STATE : Fld := ⟨R.HUB_PRE_STS, 31, 30⟩
def HUB_PRE_STS_PIN : Fld := ⟨R.HUB_PRE_STS, 29, 29⟩
def HUB_PRE_STS_REMOTE : Fld := ⟨R.HUB_PRE_STS, 28, 28⟩
def HUB_PRE_STS_ABORTED : Fld := ⟨R.HUB_PRE_STS, 27, 27⟩
def HUB_PRE_CTL_RELEASE : Fld := ⟨R.HUB_PRE_CTL, 0, 0⟩
def HUB_WD_LIMIT0_ENG_MS : Fld := ⟨R.HUB_WD_LIMIT0, 31, 16⟩
def HUB_WD_LIMIT0_SYNC_MS : Fld := ⟨R.HUB_WD_LIMIT0, 15, 0⟩
def HUB_WD_LIMIT1_FAB_MS : Fld := ⟨R.HUB_WD_LIMIT1, 31, 16⟩
def HUB_WD_LIMIT1_PEER_S : Fld := ⟨R.HUB_WD_LIMIT1, 15, 0⟩
def HUB_RST_CFG_DOM_LIMIT : Fld := ⟨R.HUB_RST_CFG, 31, 28⟩
def HUB_RST_CFG_DOM_WIN_S : Fld := ⟨R.HUB_RST_CFG, 27, 16⟩
def HUB_RST_CFG_DEV_LIMIT : Fld := ⟨R.HUB_RST_CFG, 15, 12⟩
def HUB_RST_CFG_DEV_WIN_S : Fld := ⟨R.HUB_RST_CFG, 11, 0⟩
def HUB_RST_CTL_ABORT_EN : Fld := ⟨R.HUB_RST_CTL, 31, 31⟩
def HUB_RST_CTL_SUSPECT_EN : Fld := ⟨R.HUB_RST_CTL, 30, 30⟩
def HUB_RST_CTL_TEST : Fld := ⟨R.HUB_RST_CTL, 29, 29⟩
def HUB_RST_REQ_GO : Fld := ⟨R.HUB_RST_REQ, 31, 31⟩
def HUB_RST_REQ_ACTION : Fld := ⟨R.HUB_RST_REQ, 30, 29⟩
def HUB_RST_REQ_DOMAIN : Fld := ⟨R.HUB_RST_REQ, 7, 0⟩
def HUB_RST_STS_MODE : Fld := ⟨R.HUB_RST_STS, 31, 30⟩
def HUB_RST_STS_SEQ : Fld := ⟨R.HUB_RST_STS, 29, 27⟩
def HUB_RST_STS_DOMAIN : Fld := ⟨R.HUB_RST_STS, 23, 16⟩
def HUB_RST_STS_REASON : Fld := ⟨R.HUB_RST_STS, 15, 8⟩
def HUB_RST_STS_GUILTY : Fld := ⟨R.HUB_RST_STS, 7, 7⟩
def HUB_RST_STS_CTX : Fld := ⟨R.HUB_RST_STS, 5, 0⟩
def HUB_RST_SEL_DOMAIN : Fld := ⟨R.HUB_RST_SEL, 7, 0⟩
def HUB_RST_CNT_RECENT : Fld := ⟨R.HUB_RST_CNT, 31, 24⟩
def HUB_RST_CNT_TOTAL : Fld := ⟨R.HUB_RST_CNT, 15, 0⟩
def HUB_OOS0_MEM : Fld := ⟨R.HUB_OOS0, 31, 24⟩
def HUB_OOS0_PORT : Fld := ⟨R.HUB_OOS0, 22, 16⟩
def HUB_OOS0_ENGINE : Fld := ⟨R.HUB_OOS0, 15, 0⟩
def HUB_OOS1_HUBF : Fld := ⟨R.HUB_OOS1, 12, 8⟩
def HUB_OOS1_CARRIAGE : Fld := ⟨R.HUB_OOS1, 3, 0⟩
def HUB_ABORT_STS_VALID : Fld := ⟨R.HUB_ABORT_STS, 31, 31⟩
def HUB_ABORT_STS_LOCAL : Fld := ⟨R.HUB_ABORT_STS, 30, 30⟩
def HUB_ABORT_STS_COMMITTED : Fld := ⟨R.HUB_ABORT_STS, 29, 29⟩
def HUB_ABORT_STS_RUN : Fld := ⟨R.HUB_ABORT_STS, 27, 24⟩
def HUB_ABORT_STS_REASON : Fld := ⟨R.HUB_ABORT_STS, 23, 16⟩
def HUB_ABORT_STS_DOMAIN : Fld := ⟨R.HUB_ABORT_STS, 15, 8⟩
def HUB_ABORT_ORIGIN_ORIGIN : Fld := ⟨R.HUB_ABORT_ORIGIN, 17, 0⟩
def HUB_ABORT_CTL_REISSUE : Fld := ⟨R.HUB_ABORT_CTL, 0, 0⟩
def HUB_WD_INFO_KIND : Fld := ⟨R.HUB_WD_INFO, 31, 30⟩
def HUB_WD_INFO_QUEUE : Fld := ⟨R.HUB_WD_INFO, 29, 16⟩
def HUB_WD_INFO_COUNTER : Fld := ⟨R.HUB_WD_INFO, 13, 0⟩
def HUB_TEST_REQ_GO : Fld := ⟨R.HUB_TEST_REQ, 31, 31⟩
def HUB_TEST_REQ_IMMEDIATE : Fld := ⟨R.HUB_TEST_REQ, 30, 30⟩
def HUB_TEST_REQ_KIND : Fld := ⟨R.HUB_TEST_REQ, 29, 28⟩
def HUB_TEST_REQ_TARGET : Fld := ⟨R.HUB_TEST_REQ, 15, 0⟩
def HUB_TEST_STS_PEND : Fld := ⟨R.HUB_TEST_STS, 31, 31⟩
def HUB_TEST_STS_RUNNING : Fld := ⟨R.HUB_TEST_STS, 30, 30⟩
def HUB_TEST_STS_FAIL : Fld := ⟨R.HUB_TEST_STS, 29, 29⟩
def HUB_TEST_STS_REFUSED : Fld := ⟨R.HUB_TEST_STS, 28, 28⟩
def HUB_TEST_STS_HELD : Fld := ⟨R.HUB_TEST_STS, 15, 0⟩
def HUB_TEST_CFG_CAL_PERIOD_S : Fld := ⟨R.HUB_TEST_CFG, 31, 16⟩
def HUB_TEST_CFG_CAL_BUDGET_MS : Fld := ⟨R.HUB_TEST_CFG, 15, 0⟩
def HUB_SEAL_CTL_SEAL : Fld := ⟨R.HUB_SEAL_CTL, 0, 0⟩
def HUB_SEAL_STS_SEALED : Fld := ⟨R.HUB_SEAL_STS, 31, 31⟩
def HUB_SEAL_STS_READY : Fld := ⟨R.HUB_SEAL_STS, 30, 30⟩
def HUB_SEAL_STS_CAUSE : Fld := ⟨R.HUB_SEAL_STS, 7, 0⟩
def DEP_STS_MODE_PEND : Fld := ⟨R.DEP_STS, 31, 31⟩
def DEP_STS_CR_PEND : Fld := ⟨R.DEP_STS, 30, 30⟩
def DEP_STS_NSCRATCH : Fld := ⟨R.DEP_STS, 22, 16⟩
def DEP_STS_NCACHE : Fld := ⟨R.DEP_STS, 6, 0⟩
def DEP_CR_BASE_EN : Fld := ⟨R.DEP_CR_BASE, 31, 31⟩
def DEP_CR_BASE_BASE : Fld := ⟨R.DEP_CR_BASE, 19, 0⟩
def DEP_CR_LIMIT_LIMIT : Fld := ⟨R.DEP_CR_LIMIT, 19, 0⟩
def SYN_SEL_COUNTER : Fld := ⟨R.SYN_SEL, 13, 0⟩
def SYN_STS_REFUSED : Fld := ⟨R.SYN_STS, 31, 16⟩
def SYN_STS_PENDING : Fld := ⟨R.SYN_STS, 10, 0⟩
def QUE_SEL_QUEUE : Fld := ⟨R.QUE_SEL, 13, 0⟩
def QUE_CFG_EN : Fld := ⟨R.QUE_CFG, 31, 31⟩
def QUE_CFG_SIZE_LOG2 : Fld := ⟨R.QUE_CFG, 20, 16⟩
def QUE_CFG_PRIO : Fld := ⟨R.QUE_CFG, 15, 14⟩
def QUE_CFG_CTX : Fld := ⟨R.QUE_CFG, 5, 0⟩
def QUE_PTR_TAIL : Fld := ⟨R.QUE_PTR, 31, 16⟩
def QUE_PTR_HEAD : Fld := ⟨R.QUE_PTR, 15, 0⟩
def QUE_SAFE_BHEAD : Fld := ⟨R.QUE_SAFE, 31, 16⟩
def QUE_SAFE_SAFE : Fld := ⟨R.QUE_SAFE, 15, 0⟩
def QUE_STS_STATE : Fld := ⟨R.QUE_STS, 31, 29⟩
def QUE_STS_DETAIL : Fld := ⟨R.QUE_STS, 23, 16⟩
def QUE_STS_RESP : Fld := ⟨R.QUE_STS, 15, 8⟩
def QUE_CTL_SKIP : Fld := ⟨R.QUE_CTL, 2, 2⟩
def QUE_CTL_RESUME : Fld := ⟨R.QUE_CTL, 1, 1⟩
def QUE_CTL_STOP : Fld := ⟨R.QUE_CTL, 0, 0⟩
def QUE_CTX_SEL_CONTEXT : Fld := ⟨R.QUE_CTX_SEL, 5, 0⟩
def QUE_CTX_CFG_EN : Fld := ⟨R.QUE_CTX_CFG, 31, 31⟩
def QUE_CTX_CFG_STEPPED : Fld := ⟨R.QUE_CTX_CFG, 30, 30⟩
def QUE_CTX_CFG_REMOTE_EN : Fld := ⟨R.QUE_CTX_CFG, 29, 29⟩
def QUE_CTX_CFG_MEASURE : Fld := ⟨R.QUE_CTX_CFG, 28, 28⟩
def QUE_CTX_CFG_DEPOT_EN : Fld := ⟨R.QUE_CTX_CFG, 27, 27⟩
def QUE_CTX_CFG_GROUP : Fld := ⟨R.QUE_CTX_CFG, 21, 16⟩
def QUE_CTX_CFG_KEYSLOT : Fld := ⟨R.QUE_CTX_CFG, 7, 0⟩
def QUE_CTX_WIN_BASE_BASE : Fld := ⟨R.QUE_CTX_WIN_BASE, 19, 0⟩
def QUE_CTX_WIN_LIMIT_LIMIT : Fld := ⟨R.QUE_CTX_WIN_LIMIT, 19, 0⟩
def QUE_CTX_STS_STATE : Fld := ⟨R.QUE_CTX_STS, 31, 30⟩
def QUE_CTX_STS_CR_OVF : Fld := ⟨R.QUE_CTX_STS, 16, 16⟩
def QUE_CTX_STS_DB_REJ : Fld := ⟨R.QUE_CTX_STS, 15, 0⟩
def QUE_CTX_CR_CFG_SIZE_LOG2 : Fld := ⟨R.QUE_CTX_CR_CFG, 20, 16⟩
def QUE_CTX_CR_CFG_HEAD : Fld := ⟨R.QUE_CTX_CR_CFG, 15, 0⟩
def QUE_CTX_CR_TAIL_TAIL : Fld := ⟨R.QUE_CTX_CR_TAIL, 15, 0⟩
def CXE_CFG_RESEND_US : Fld := ⟨R.CXE_CFG, 19, 8⟩
def CXE_CFG_RESENDS : Fld := ⟨R.CXE_CFG, 1, 0⟩
def CXE_LCOORD_COORD : Fld := ⟨R.CXE_LCOORD, 17, 0⟩
def CXE_CUT_B_AXIS : Fld := ⟨R.CXE_CUT, 31, 30⟩
def CXE_CUT_B_SIZE : Fld := ⟨R.CXE_CUT, 29, 23⟩
def CXE_CUT_B_INNER : Fld := ⟨R.CXE_CUT, 22, 16⟩
def CXE_CUT_A_AXIS : Fld := ⟨R.CXE_CUT, 15, 14⟩
def CXE_CUT_A_SIZE : Fld := ⟨R.CXE_CUT, 13, 7⟩
def CXE_CUT_A_INNER : Fld := ⟨R.CXE_CUT, 6, 0⟩
def CXE_NEXT_LCOORD_COORD : Fld := ⟨R.CXE_NEXT_LCOORD, 17, 0⟩
def CXE_NEXT_CUT_B_AXIS : Fld := ⟨R.CXE_NEXT_CUT, 31, 30⟩
def CXE_NEXT_CUT_B_SIZE : Fld := ⟨R.CXE_NEXT_CUT, 29, 23⟩
def CXE_NEXT_CUT_B_INNER : Fld := ⟨R.CXE_NEXT_CUT, 22, 16⟩
def CXE_NEXT_CUT_A_AXIS : Fld := ⟨R.CXE_NEXT_CUT, 15, 14⟩
def CXE_NEXT_CUT_A_SIZE : Fld := ⟨R.CXE_NEXT_CUT, 13, 7⟩
def CXE_NEXT_CUT_A_INNER : Fld := ⟨R.CXE_NEXT_CUT, 6, 0⟩
def CXE_NEXT_CTL_CANCEL : Fld := ⟨R.CXE_NEXT_CTL, 1, 1⟩
def CXE_NEXT_CTL_ARM : Fld := ⟨R.CXE_NEXT_CTL, 0, 0⟩
def CXE_NEXT_STS_PEND : Fld := ⟨R.CXE_NEXT_STS, 31, 31⟩
def CXE_NEXT_STS_APPLIED : Fld := ⟨R.CXE_NEXT_STS, 30, 30⟩
def CXE_NEXT_STS_REFUSED : Fld := ⟨R.CXE_NEXT_STS, 29, 29⟩
def CXE_NEXT_STS_CAUSE : Fld := ⟨R.CXE_NEXT_STS, 7, 0⟩
def IXE_CFG_SHUF_EN : Fld := ⟨R.IXE_CFG, 31, 31⟩
def IXE_CFG_DUAL_FORCE : Fld := ⟨R.IXE_CFG, 30, 30⟩
def IXE_STS_BUSY : Fld := ⟨R.IXE_STS, 31, 28⟩
def IXE_STS_SPARE : Fld := ⟨R.IXE_STS, 27, 24⟩
def IXE_STS_RETIRED : Fld := ⟨R.IXE_STS, 8, 0⟩
def IXE_WORK_BASE_BASE : Fld := ⟨R.IXE_WORK_BASE, 19, 0⟩
def IXE_WORK_SIZE_SIZE : Fld := ⟨R.IXE_WORK_SIZE, 15, 0⟩
def IXE_SHUF_MEMBERS_D : Fld := ⟨R.IXE_SHUF_MEMBERS, 18, 0⟩
def IXE_SHUF_RANK_RANK : Fld := ⟨R.IXE_SHUF_RANK, 17, 0⟩
def IXE_SHUF_BATCH_B : Fld := ⟨R.IXE_SHUF_BATCH, 15, 0⟩
def IXE_SLOT_BASE_EN : Fld := ⟨R.IXE_SLOT_BASE, 31, 31⟩
def IXE_SLOT_BASE_BASE : Fld := ⟨R.IXE_SLOT_BASE, 19, 0⟩
def IXE_SLOT_SIZE_SIZE : Fld := ⟨R.IXE_SLOT_SIZE, 19, 0⟩
def LXE_CFG_MIRROR_EN : Fld := ⟨R.LXE_CFG, 31, 31⟩
def LXE_CFG_REREAD_EN : Fld := ⟨R.LXE_CFG, 30, 30⟩
def LXE_CFG_GUARD_EN : Fld := ⟨R.LXE_CFG, 29, 29⟩
def LXE_CFG_VG_CUTS : Fld := ⟨R.LXE_CFG, 27, 24⟩
def LXE_CFG_WIN_RETRY : Fld := ⟨R.LXE_CFG, 19, 16⟩
def LXE_CFG_WIN_MAX : Fld := ⟨R.LXE_CFG, 11, 8⟩
def LXE_CFG_REPLAY_MAX : Fld := ⟨R.LXE_CFG, 3, 0⟩
def LXE_LEDGER_SIZE_MIB : Fld := ⟨R.LXE_LEDGER_SIZE, 16, 0⟩
def LXE_LEDGER_STS_USED : Fld := ⟨R.LXE_LEDGER_STS, 31, 16⟩
def LXE_LEDGER_STS_WINDOWS : Fld := ⟨R.LXE_LEDGER_STS, 7, 0⟩
def LXE_VSTS_STAGE : Fld := ⟨R.LXE_VSTS, 31, 30⟩
def LXE_VSTS_FAIL : Fld := ⟨R.LXE_VSTS, 29, 29⟩
def LXE_VSTS_EARLY : Fld := ⟨R.LXE_VSTS, 28, 28⟩
def LXE_VSTS_RUN : Fld := ⟨R.LXE_VSTS, 27, 24⟩
def LXE_VSTS_CAUSE : Fld := ⟨R.LXE_VSTS, 23, 16⟩
def LXE_VORIGIN_ORIGIN : Fld := ⟨R.LXE_VORIGIN, 17, 0⟩
def LXE_SR_BASE_EN : Fld := ⟨R.LXE_SR_BASE, 31, 31⟩
def LXE_SR_BASE_BASE : Fld := ⟨R.LXE_SR_BASE, 19, 0⟩
def LXE_SR_LIMIT_LIMIT : Fld := ⟨R.LXE_SR_LIMIT, 19, 0⟩
def LXE_CKPT_CFG_AXIS : Fld := ⟨R.LXE_CKPT_CFG, 31, 30⟩
def LXE_CKPT_CFG_GM1 : Fld := ⟨R.LXE_CKPT_CFG, 28, 24⟩
def LXE_CKPT_CFG_KEYSLOT : Fld := ⟨R.LXE_CKPT_CFG, 7, 0⟩
def LXE_CKPT_SIZE_MIB : Fld := ⟨R.LXE_CKPT_SIZE, 17, 0⟩
def LXE_CKPT_SRC_BASE_EN : Fld := ⟨R.LXE_CKPT_SRC_BASE, 31, 31⟩
def LXE_CKPT_SRC_BASE_BASE : Fld := ⟨R.LXE_CKPT_SRC_BASE, 19, 0⟩
def LXE_CKPT_SRC_LIMIT_LIMIT : Fld := ⟨R.LXE_CKPT_SRC_LIMIT, 19, 0⟩
def LXE_CKPT_STS_STATE : Fld := ⟨R.LXE_CKPT_STS, 31, 29⟩
def LXE_CKPT_STS_RESP : Fld := ⟨R.LXE_CKPT_STS, 23, 16⟩
def LXE_CKPT_STS_PAR_PEND : Fld := ⟨R.LXE_CKPT_STS, 15, 0⟩
def LXE_CKPT_CTL_DISCARD : Fld := ⟨R.LXE_CKPT_CTL, 1, 1⟩
def LXE_CKPT_CTL_DRAINED : Fld := ⟨R.LXE_CKPT_CTL, 0, 0⟩
def LXE_CKPT_RATE_RATE : Fld := ⟨R.LXE_CKPT_RATE, 15, 0⟩
def FAB_COORD_COORD : Fld := ⟨R.FAB_COORD, 17, 0⟩
def FAB_DIMS_SZM1 : Fld := ⟨R.FAB_DIMS, 17, 12⟩
def FAB_DIMS_SYM1 : Fld := ⟨R.FAB_DIMS, 11, 6⟩
def FAB_DIMS_SXM1 : Fld := ⟨R.FAB_DIMS, 5, 0⟩
def FAB_YOKE_EN : Fld := ⟨R.FAB_YOKE, 31, 31⟩
def FAB_YOKE_PARTNER : Fld := ⟨R.FAB_YOKE, 17, 0⟩
def FAB_ARB_W1 : Fld := ⟨R.FAB_ARB, 15, 8⟩
def FAB_ARB_W0 : Fld := ⟨R.FAB_ARB, 7, 0⟩
def FAB_MAP_CTL_PEND : Fld := ⟨R.FAB_MAP_CTL, 31, 31⟩
def FAB_MAP_CTL_ERR : Fld := ⟨R.FAB_MAP_CTL, 30, 30⟩
def FAB_MAP_CTL_RELOAD : Fld := ⟨R.FAB_MAP_CTL, 0, 0⟩
def FAB_PORT_CTL_EN : Fld := ⟨R.FAB_PORT_CTL, 31, 31⟩
def FAB_PORT_CTL_RETRAIN : Fld := ⟨R.FAB_PORT_CTL, 30, 30⟩
def FAB_PORT_CTL_VIOL_LIMIT : Fld := ⟨R.FAB_PORT_CTL, 23, 16⟩
def FAB_PORT_CTL_LANE_LIMIT : Fld := ⟨R.FAB_PORT_CTL, 15, 0⟩
def FAB_PORT_STS_STATE : Fld := ⟨R.FAB_PORT_STS, 31, 28⟩
def FAB_PORT_STS_CAUSE : Fld := ⟨R.FAB_PORT_STS, 27, 24⟩
def FAB_PORT_STS_RETRAIN_PEND : Fld := ⟨R.FAB_PORT_STS, 23, 23⟩
def FAB_PORT_STS_SPARES_USED : Fld := ⟨R.FAB_PORT_STS, 19, 18⟩
def FAB_PORT_STS_PEER : Fld := ⟨R.FAB_PORT_STS, 17, 0⟩
def FAB_LANE_MAP_TX_SP17 : Fld := ⟨R.FAB_LANE_MAP, 25, 21⟩
def FAB_LANE_MAP_TX_SP16 : Fld := ⟨R.FAB_LANE_MAP, 20, 16⟩
def FAB_LANE_MAP_RX_SP17 : Fld := ⟨R.FAB_LANE_MAP, 9, 5⟩
def FAB_LANE_MAP_RX_SP16 : Fld := ⟨R.FAB_LANE_MAP, 4, 0⟩
def FAB_LANE_SEL_LANE : Fld := ⟨R.FAB_LANE_SEL, 4, 0⟩
def FAB_VIOL_INFO_VALID : Fld := ⟨R.FAB_VIOL_INFO, 31, 31⟩
def FAB_VIOL_INFO_CODE : Fld := ⟨R.FAB_VIOL_INFO, 23, 16⟩
def FAB_VIOL_INFO_BUF : Fld := ⟨R.FAB_VIOL_INFO, 15, 13⟩
def FAB_VIOL_INFO_SEQ : Fld := ⟨R.FAB_VIOL_INFO, 9, 0⟩
def FAB_PEER_ERR_VALID : Fld := ⟨R.FAB_PEER_ERR, 31, 31⟩
def FAB_PEER_ERR_CODE : Fld := ⟨R.FAB_PEER_ERR, 23, 16⟩
def FAB_PEER_ERR_SEQ : Fld := ⟨R.FAB_PEER_ERR, 9, 0⟩
def ICU_CFG_EN : Fld := ⟨R.ICU_CFG, 31, 31⟩
def ICU_CFG_HMHOLD : Fld := ⟨R.ICU_CFG, 30, 30⟩
def ICU_CFG_FMHOLD : Fld := ⟨R.ICU_CFG, 29, 29⟩
def ICU_SRC_SEL_SOURCE : Fld := ⟨R.ICU_SRC_SEL, 10, 0⟩
def ICU_SRC_CFG_HEN : Fld := ⟨R.ICU_SRC_CFG, 31, 31⟩
def ICU_SRC_CFG_HGROUP : Fld := ⟨R.ICU_SRC_CFG, 30, 24⟩
def ICU_SRC_CFG_FEN : Fld := ⟨R.ICU_SRC_CFG, 23, 23⟩
def ICU_SRC_CFG_FGROUP : Fld := ⟨R.ICU_SRC_CFG, 22, 16⟩
def ICU_SRC_CFG_KIND : Fld := ⟨R.ICU_SRC_CFG, 0, 0⟩
def ICU_GRP_SEL_GROUP : Fld := ⟨R.ICU_GRP_SEL, 7, 0⟩
def ICU_GRP_CFG0_COUNT : Fld := ⟨R.ICU_GRP_CFG0, 31, 16⟩
def ICU_GRP_CFG0_TIME_US : Fld := ⟨R.ICU_GRP_CFG0, 15, 0⟩
def ICU_GRP_CFG1_EN : Fld := ⟨R.ICU_GRP_CFG1, 31, 31⟩
def ICU_GRP_CFG1_CLASS : Fld := ⟨R.ICU_GRP_CFG1, 30, 30⟩
def ICU_GRP_CFG1_AUTO_MASK : Fld := ⟨R.ICU_GRP_CFG1, 29, 29⟩
def ICU_GRP_CFG1_PRIO : Fld := ⟨R.ICU_GRP_CFG1, 28, 26⟩
def ICU_GRP_CFG1_TARGET : Fld := ⟨R.ICU_GRP_CFG1, 18, 16⟩
def ICU_GRP_STS_READY : Fld := ⟨R.ICU_GRP_STS, 31, 31⟩
def ICU_GRP_STS_TIMING : Fld := ⟨R.ICU_GRP_STS, 30, 30⟩
def ICU_GRP_STS_EVENTS : Fld := ⟨R.ICU_GRP_STS, 15, 0⟩
def ICU_MSI_DATA_DATA_BASE : Fld := ⟨R.ICU_MSI_DATA, 31, 9⟩
def ICU_T_EOI_VECTOR : Fld := ⟨R.ICU_T_EOI, 7, 0⟩
def ICU_T_STK_FROZEN : Fld := ⟨R.ICU_T_STK, 31, 31⟩
def ICU_T_STK_DEPTH : Fld := ⟨R.ICU_T_STK, 27, 24⟩
def ICU_T_STK_FAULTS : Fld := ⟨R.ICU_T_STK, 23, 16⟩
def ICU_T_STK_FAULT_VEC : Fld := ⟨R.ICU_T_STK, 15, 8⟩
def ICU_T_STK_TOP : Fld := ⟨R.ICU_T_STK, 7, 0⟩
def ICU_T_CTL_CLEAR : Fld := ⟨R.ICU_T_CTL, 1, 1⟩
def ICU_T_CTL_POPTOP : Fld := ⟨R.ICU_T_CTL, 0, 0⟩
def OST_STS_BANK_RUN : Fld := ⟨R.OST_STS, 31, 31⟩
def OST_STS_BANK_PEND : Fld := ⟨R.OST_STS, 30, 29⟩
def OST_STS_BANK_BAD : Fld := ⟨R.OST_STS, 28, 28⟩
def OST_STS_HELD : Fld := ⟨R.OST_STS, 27, 27⟩
def OST_STS_DEBUG : Fld := ⟨R.OST_STS, 26, 26⟩
def OST_STS_FW_SESSION : Fld := ⟨R.OST_STS, 25, 25⟩
def OST_STS_SVN_RUN : Fld := ⟨R.OST_STS, 15, 8⟩
def OST_STS_FUSES : Fld := ⟨R.OST_STS, 7, 0⟩
def OST_SENSOR_SEL_INDEX : Fld := ⟨R.OST_SENSOR_SEL, 7, 0⟩
def OST_MBX_CTL_GO : Fld := ⟨R.OST_MBX_CTL, 31, 31⟩
def OST_MBX_CTL_SOM : Fld := ⟨R.OST_MBX_CTL, 30, 30⟩
def OST_MBX_CTL_EOM : Fld := ⟨R.OST_MBX_CTL, 29, 29⟩
def OST_MBX_CTL_LEN : Fld := ⟨R.OST_MBX_CTL, 11, 0⟩
def OST_MBX_STS_BUSY : Fld := ⟨R.OST_MBX_STS, 31, 31⟩
def OST_MBX_STS_READY : Fld := ⟨R.OST_MBX_STS, 30, 30⟩
def OST_MBX_STS_SOM : Fld := ⟨R.OST_MBX_STS, 29, 29⟩
def OST_MBX_STS_EOM : Fld := ⟨R.OST_MBX_STS, 28, 28⟩
def OST_MBX_STS_OVF : Fld := ⟨R.OST_MBX_STS, 27, 27⟩
def OST_MBX_STS_LEN : Fld := ⟨R.OST_MBX_STS, 11, 0⟩
def SEC_STS_JOB : Fld := ⟨R.SEC_STS, 31, 31⟩
def SEC_STS_DEBUG : Fld := ⟨R.SEC_STS, 30, 30⟩
def SEC_STS_MEAS_OVF : Fld := ⟨R.SEC_STS, 29, 29⟩
def SEC_STS_SLOTS : Fld := ⟨R.SEC_STS, 7, 0⟩
def SEC_SLOT_SEL_SLOT : Fld := ⟨R.SEC_SLOT_SEL, 7, 0⟩
def SEC_SLOT_STS_PURPOSE : Fld := ⟨R.SEC_SLOT_STS, 31, 28⟩
def SEC_SLOT_STS_OWNER : Fld := ⟨R.SEC_SLOT_STS, 27, 22⟩
def SEC_SLOT_STS_PEND : Fld := ⟨R.SEC_SLOT_STS, 21, 21⟩
def PWR_LEVELS_WARN : Fld := ⟨R.PWR_LEVELS, 29, 20⟩
def PWR_LEVELS_SUSPECT : Fld := ⟨R.PWR_LEVELS, 19, 10⟩
def PWR_LEVELS_RESET : Fld := ⟨R.PWR_LEVELS, 9, 0⟩
def PWR_STS_SUPPLY : Fld := ⟨R.PWR_STS, 31, 30⟩
def PWR_STS_SUSPECT_SEEN : Fld := ⟨R.PWR_STS, 29, 29⟩
def PWR_STS_LVL_ERR : Fld := ⟨R.PWR_STS, 28, 28⟩
def PWR_STS_DIPS : Fld := ⟨R.PWR_STS, 15, 0⟩
def PWR_DIP_MIN_MIN : Fld := ⟨R.PWR_DIP_MIN, 15, 0⟩
def PWR_CAP_PCAP : Fld := ⟨R.PWR_CAP, 15, 0⟩
def PWR_THERM_REL_C : Fld := ⟨R.PWR_THERM, 15, 8⟩
def PWR_THERM_THROT_C : Fld := ⟨R.PWR_THERM, 7, 0⟩
def PWR_THROT_STS_THROTTLED : Fld := ⟨R.PWR_THROT_STS, 31, 31⟩
def PWR_THROT_STS_SUPPLY : Fld := ⟨R.PWR_THROT_STS, 30, 30⟩
def PWR_THROT_STS_TEMP : Fld := ⟨R.PWR_THROT_STS, 29, 29⟩
def PWR_THROT_STS_POWER : Fld := ⟨R.PWR_THROT_STS, 28, 28⟩
def PWR_THROT_STS_SOFT : Fld := ⟨R.PWR_THROT_STS, 27, 27⟩
def PWR_THROT_STS_SHARE : Fld := ⟨R.PWR_THROT_STS, 3, 0⟩
def PWR_THROT_CTL_FORCE : Fld := ⟨R.PWR_THROT_CTL, 0, 0⟩
def CLK_CFG_REVERT : Fld := ⟨R.CLK_CFG, 1, 1⟩
def CLK_CFG_PREF : Fld := ⟨R.CLK_CFG, 0, 0⟩
def CLK_STS_SEL : Fld := ⟨R.CLK_STS, 31, 31⟩
def CLK_STS_REF0_OK : Fld := ⟨R.CLK_STS, 30, 30⟩
def CLK_STS_REF1_OK : Fld := ⟨R.CLK_STS, 29, 29⟩
def CLK_STS_ROOT_LOCK : Fld := ⟨R.CLK_STS, 28, 28⟩
def CLK_STS_MCLK_DIV8 : Fld := ⟨R.CLK_STS, 27, 27⟩
def CLK_STS_SWITCHES : Fld := ⟨R.CLK_STS, 15, 0⟩
def UCI_CFG_HOST_MS : Fld := ⟨R.UCI_CFG, 31, 16⟩
def UCI_CFG_VIOL_LIMIT : Fld := ⟨R.UCI_CFG, 15, 8⟩
def UCI_STS_LINK : Fld := ⟨R.UCI_STS, 31, 28⟩
def UCI_STS_MODULES : Fld := ⟨R.UCI_STS, 27, 24⟩
def UCI_STS_RETRAINS : Fld := ⟨R.UCI_STS, 7, 0⟩
def UCI_VIOL_INFO_VALID : Fld := ⟨R.UCI_VIOL_INFO, 31, 31⟩
def UCI_VIOL_INFO_CODE : Fld := ⟨R.UCI_VIOL_INFO, 23, 16⟩
def UCI_VIOL_INFO_TAG : Fld := ⟨R.UCI_VIOL_INFO, 15, 0⟩
def DMP_CFG_OUT_EN : Fld := ⟨R.DMP_CFG, 31, 31⟩
def DMP_CFG_SAMPLE_KIB : Fld := ⟨R.DMP_CFG, 23, 16⟩
def DMP_CFG_HOLD_MS : Fld := ⟨R.DMP_CFG, 15, 0⟩
def DMP_OUT_SIZE_MIB : Fld := ⟨R.DMP_OUT_SIZE, 15, 0⟩
def DMP_STS_STATE : Fld := ⟨R.DMP_STS, 31, 29⟩
def DMP_STS_OUT_ERR : Fld := ⟨R.DMP_STS, 28, 28⟩
def DMP_STS_HELD : Fld := ⟨R.DMP_STS, 27, 25⟩
def DMP_STS_MARKED : Fld := ⟨R.DMP_STS, 15, 0⟩
def DMP_CTL_ACK : Fld := ⟨R.DMP_CTL, 0, 0⟩
def CAR_CORE_MAP_MC0 : Fld := ⟨R.CAR_CORE_MAP, 3, 0⟩
def CAR_CORE_MAP_MC1 : Fld := ⟨R.CAR_CORE_MAP, 7, 4⟩
def CAR_CORE_MAP_MC2 : Fld := ⟨R.CAR_CORE_MAP, 11, 8⟩
def CAR_CORE_MAP_MC3 : Fld := ⟨R.CAR_CORE_MAP, 15, 12⟩
def CAR_CORE_MAP_MC4 : Fld := ⟨R.CAR_CORE_MAP, 19, 16⟩
def CAR_CORE_MAP_MC5 : Fld := ⟨R.CAR_CORE_MAP, 23, 20⟩
def CAR_CORE_MAP_MC6 : Fld := ⟨R.CAR_CORE_MAP, 27, 24⟩
def CAR_CORE_MAP_MC7 : Fld := ⟨R.CAR_CORE_MAP, 31, 28⟩
def CAR_CORE_STS_P0 : Fld := ⟨R.CAR_CORE_STS, 2, 0⟩
def CAR_CORE_STS_P1 : Fld := ⟨R.CAR_CORE_STS, 5, 3⟩
def CAR_CORE_STS_P2 : Fld := ⟨R.CAR_CORE_STS, 8, 6⟩
def CAR_CORE_STS_P3 : Fld := ⟨R.CAR_CORE_STS, 11, 9⟩
def CAR_CORE_STS_P4 : Fld := ⟨R.CAR_CORE_STS, 14, 12⟩
def CAR_CORE_STS_P5 : Fld := ⟨R.CAR_CORE_STS, 17, 15⟩
def CAR_CORE_STS_P6 : Fld := ⟨R.CAR_CORE_STS, 20, 18⟩
def CAR_CORE_STS_P7 : Fld := ⟨R.CAR_CORE_STS, 23, 21⟩
def CAR_CORE_STS_P8 : Fld := ⟨R.CAR_CORE_STS, 26, 24⟩
def CAR_VX_MAP_SPARE : Fld := ⟨R.CAR_VX_MAP, 28, 24⟩
def CAR_VX_MAP_RETIRED : Fld := ⟨R.CAR_VX_MAP, 16, 0⟩
def CAR_REMOUNT_CTL_REQ : Fld := ⟨R.CAR_REMOUNT_CTL, 31, 31⟩
def CAR_REMOUNT_CTL_ACTION : Fld := ⟨R.CAR_REMOUNT_CTL, 30, 29⟩
def CAR_REMOUNT_CTL_UNIT : Fld := ⟨R.CAR_REMOUNT_CTL, 28, 28⟩
def CAR_REMOUNT_CTL_INDEX : Fld := ⟨R.CAR_REMOUNT_CTL, 4, 0⟩
def CAR_REMOUNT_STS_PEND : Fld := ⟨R.CAR_REMOUNT_STS, 31, 31⟩
def CAR_REMOUNT_STS_REFUSED : Fld := ⟨R.CAR_REMOUNT_STS, 30, 30⟩
def CAR_REMOUNT_STS_COUNT : Fld := ⟨R.CAR_REMOUNT_STS, 15, 0⟩
def CAR_SLOW_CFG_SLOW_PCT : Fld := ⟨R.CAR_SLOW_CFG, 15, 8⟩
def CAR_SLOW_CFG_SLOW_STEPS : Fld := ⟨R.CAR_SLOW_CFG, 7, 0⟩
def CAR_SLOW_RATIO_RATIO : Fld := ⟨R.CAR_SLOW_RATIO, 31, 0⟩
def CAR_VX_MAP0_LG0 : Fld := ⟨R.CAR_VX_MAP0, 4, 0⟩
def CAR_VX_MAP0_LG1 : Fld := ⟨R.CAR_VX_MAP0, 12, 8⟩
def CAR_VX_MAP0_LG2 : Fld := ⟨R.CAR_VX_MAP0, 20, 16⟩
def CAR_VX_MAP0_LG3 : Fld := ⟨R.CAR_VX_MAP0, 28, 24⟩
def CAR_VX_MAP1_LG0 : Fld := ⟨R.CAR_VX_MAP1, 4, 0⟩
def CAR_VX_MAP1_LG1 : Fld := ⟨R.CAR_VX_MAP1, 12, 8⟩
def CAR_VX_MAP1_LG2 : Fld := ⟨R.CAR_VX_MAP1, 20, 16⟩
def CAR_VX_MAP1_LG3 : Fld := ⟨R.CAR_VX_MAP1, 28, 24⟩
def CAR_VX_MAP2_LG0 : Fld := ⟨R.CAR_VX_MAP2, 4, 0⟩
def CAR_VX_MAP2_LG1 : Fld := ⟨R.CAR_VX_MAP2, 12, 8⟩
def CAR_VX_MAP2_LG2 : Fld := ⟨R.CAR_VX_MAP2, 20, 16⟩
def CAR_VX_MAP2_LG3 : Fld := ⟨R.CAR_VX_MAP2, 28, 24⟩
def CAR_VX_MAP3_LG0 : Fld := ⟨R.CAR_VX_MAP3, 4, 0⟩
def CAR_VX_MAP3_LG1 : Fld := ⟨R.CAR_VX_MAP3, 12, 8⟩
def CAR_VX_MAP3_LG2 : Fld := ⟨R.CAR_VX_MAP3, 20, 16⟩
def CAR_VX_MAP3_LG3 : Fld := ⟨R.CAR_VX_MAP3, 28, 24⟩
def MXC_CHK_CTL_INJ_BIT : Fld := ⟨R.MXC_CHK_CTL, 20, 16⟩
def MXC_CHK_CTL_INJ_CORE : Fld := ⟨R.MXC_CHK_CTL, 10, 8⟩
def MXC_CHK_CTL_TOL_SCALE : Fld := ⟨R.MXC_CHK_CTL, 7, 4⟩
def MXC_CHK_CTL_INJ_ARM : Fld := ⟨R.MXC_CHK_CTL, 0, 0⟩
def MXC_CHK_STS_MISS : Fld := ⟨R.MXC_CHK_STS, 7, 0⟩
def MXC_CHK_INFO_LAYER : Fld := ⟨R.MXC_CHK_INFO, 31, 20⟩
def MXC_CHK_INFO_CORE : Fld := ⟨R.MXC_CHK_INFO, 19, 17⟩
def MXC_CHK_INFO_AXIS : Fld := ⟨R.MXC_CHK_INFO, 16, 16⟩
def MXC_CHK_INFO_SOURCE : Fld := ⟨R.MXC_CHK_INFO, 15, 15⟩
def MXC_CHK_INFO_INJ : Fld := ⟨R.MXC_CHK_INFO, 14, 14⟩
def MXC_CHK_INFO_INDEX : Fld := ⟨R.MXC_CHK_INFO, 12, 1⟩
def MXC_CHK_INFO_VALID : Fld := ⟨R.MXC_CHK_INFO, 0, 0⟩
def MXC_CHK_POS_PRODUCT : Fld := ⟨R.MXC_CHK_POS, 17, 16⟩
def MXC_CHK_POS_INDEX : Fld := ⟨R.MXC_CHK_POS, 13, 0⟩
def MEM_CFG_SCRUB_HOURS : Fld := ⟨R.MEM_CFG, 31, 24⟩
def MEM_CFG_CE_ROW_LIMIT : Fld := ⟨R.MEM_CFG, 23, 20⟩
def MEM_CFG_ERASE_AUTO : Fld := ⟨R.MEM_CFG, 15, 15⟩
def MEM_CFG_PIN_LIMIT : Fld := ⟨R.MEM_CFG, 7, 0⟩
def MEM_PRIO_C3_CAP : Fld := ⟨R.MEM_PRIO, 31, 24⟩
def MEM_PRIO_W2 : Fld := ⟨R.MEM_PRIO, 23, 16⟩
def MEM_PRIO_W1 : Fld := ⟨R.MEM_PRIO, 15, 8⟩
def MEM_PRIO_W0 : Fld := ⟨R.MEM_PRIO, 7, 0⟩
def MEM_PCH_SEL_PCH : Fld := ⟨R.MEM_PCH_SEL, 4, 0⟩
def MEM_PCH_STS_STATE : Fld := ⟨R.MEM_PCH_STS, 31, 29⟩
def MEM_PCH_STS_SP0_FOR : Fld := ⟨R.MEM_PCH_STS, 28, 22⟩
def MEM_PCH_STS_SP1_FOR : Fld := ⟨R.MEM_PCH_STS, 21, 15⟩
def MEM_PCH_STS_ERASE0 : Fld := ⟨R.MEM_PCH_STS, 14, 8⟩
def MEM_PCH_STS_ERASE1 : Fld := ⟨R.MEM_PCH_STS, 7, 1⟩
def MEM_PCH_STS_RETRAIN_PEND : Fld := ⟨R.MEM_PCH_STS, 0, 0⟩
def MEM_ERR_INFO_VALID : Fld := ⟨R.MEM_ERR_INFO, 31, 31⟩
def MEM_ERR_INFO_UE : Fld := ⟨R.MEM_ERR_INFO, 30, 30⟩
def MEM_ERR_INFO_PCH : Fld := ⟨R.MEM_ERR_INFO, 29, 25⟩
def MEM_ERR_INFO_BANK : Fld := ⟨R.MEM_ERR_INFO, 24, 21⟩
def MEM_ERR_INFO_SYMS : Fld := ⟨R.MEM_ERR_INFO, 20, 18⟩
def MEM_ERR_INFO_PIN : Fld := ⟨R.MEM_ERR_INFO, 17, 11⟩
def MEM_ERR_INFO_SOURCE : Fld := ⟨R.MEM_ERR_INFO, 10, 8⟩
def MEM_REMAP_STS_USED : Fld := ⟨R.MEM_REMAP_STS, 31, 16⟩
def MEM_REMAP_STS_FULL : Fld := ⟨R.MEM_REMAP_STS, 9, 0⟩
def MEM_RETIRE_SEL_INDEX : Fld := ⟨R.MEM_RETIRE_SEL, 9, 0⟩
def MEM_RETIRE_PAGE_VALID : Fld := ⟨R.MEM_RETIRE_PAGE, 31, 31⟩
def MEM_RETIRE_PAGE_PAGE : Fld := ⟨R.MEM_RETIRE_PAGE, 22, 0⟩
def MEM_RETIRE_CNT_COUNT : Fld := ⟨R.MEM_RETIRE_CNT, 10, 0⟩
def MEM_TRAIN_CTL_RETRAIN : Fld := ⟨R.MEM_TRAIN_CTL, 0, 0⟩
def BLK_CTL_EN : Fld := ⟨R.BLK_CTL, 31, 31⟩
def BLK_CTL_FENCE_REQ : Fld := ⟨R.BLK_CTL, 1, 1⟩
def BLK_CTL_RESET_REQ : Fld := ⟨R.BLK_CTL, 0, 0⟩
def BLK_STS_STATE : Fld := ⟨R.BLK_STS, 31, 29⟩
def BLK_ERR_INFO0_UNIT : Fld := ⟨R.BLK_ERR_INFO0, 31, 28⟩
def BLK_ERR_INFO0_SLICE : Fld := ⟨R.BLK_ERR_INFO0, 27, 22⟩
def BLK_ERR_INFO0_WORD : Fld := ⟨R.BLK_ERR_INFO0, 21, 0⟩
def BLK_ERR_INFO1_UE : Fld := ⟨R.BLK_ERR_INFO1, 31, 31⟩
def BLK_ERR_INFO1_SYNDROME : Fld := ⟨R.BLK_ERR_INFO1, 30, 24⟩
def BLK_ERR_INFO1_STEP : Fld := ⟨R.BLK_ERR_INFO1, 23, 0⟩
def BLK_ERR_INFO2_VALID : Fld := ⟨R.BLK_ERR_INFO2, 31, 31⟩
def BLK_ERR_INFO2_KIND : Fld := ⟨R.BLK_ERR_INFO2, 30, 28⟩
def BLK_ERR_INFO2_OFFSET : Fld := ⟨R.BLK_ERR_INFO2, 15, 0⟩

end F

/-! ### The index of R451 -/

def rows_000_0 : List RegRow := [
  ⟨R.HUB_CCORE_STS, 1, 4, 0, 0, 0, 0x8000⟩,
  ⟨R.HUB_STEP_STS, 1, 4, 0, 0, 0, 0x80000000⟩,
  ⟨R.HUB_STEP_NUM, 2, 4, 0, 0, 0, 0⟩,
  ⟨R.HUB_SCHED_CFG, 1, 4, 0xbfff003f, 0, 0, 0x8000000f⟩,
  ⟨R.HUB_SCHED_STS, 1, 4, 0, 0, 0x80000000, 0⟩,
  ⟨R.HUB_SCHED_T_STEP, 1, 4, 0, 0, 0, 0⟩,
  ⟨R.HUB_SCHED_T_FWD, 1, 4, 0, 0, 0, 0⟩,
  ⟨R.HUB_SCHED_T_BIN, 1, 4, 0, 0, 0, 0⟩,
  ⟨R.HUB_SCHED_T_BF, 1, 4, 0, 0, 0, 0⟩,
  ⟨R.HUB_SCHED_T_UPD, 1, 4, 0, 0, 0, 0⟩,
  ⟨R.HUB_SCHED_MX_IDLE, 1, 4, 0, 0, 0, 0⟩,
  ⟨R.HUB_SCHED_MX_BFGAP, 1, 4, 0, 0, 0, 0⟩,
  ⟨R.HUB_SCHED_CTL, 1, 4, 0x80000000, 0, 0, 0⟩,
  ⟨R.HUB_SCHED_FIRST, 2, 4, 0xffffffff, 0, 0, 0⟩,
  ⟨R.HUB_WATCH_CFG, 1, 4, 0xfc0fff00, 0, 0, 0xe4040300⟩,
  ⟨R.HUB_WATCH_WIN, 1, 4, 0xffffffff, 0, 0, 0x3e8⟩,
  ⟨R.HUB_WATCH_GS, 1, 4, 0xffffffff, 0, 0, 0x10f00042⟩,
  ⟨R.HUB_WATCH_RATIO_HI, 1, 4, 0xffffffff, 0, 0, 0⟩,
  ⟨R.HUB_WATCH_SEL, 1, 4, 0x1fff, 0, 0, 0⟩,
  ⟨R.HUB_WATCH_CTL, 1, 4, 0, 0, 0, 0⟩]

def rows_000_1 : List RegRow := [
  ⟨R.HUB_WATCH_STS, 1, 4, 0, 0, 0x60000000, 0⟩,
  ⟨R.HUB_WATCH_LOG, 2, 4, 0xffffffff, 0, 0, 0⟩,
  ⟨R.HUB_WATCH_LOG_CFG, 1, 4, 0x801fffff, 0, 0, 0x60000⟩,
  ⟨R.HUB_WATCH_LOG_TAIL, 1, 4, 0, 0, 0, 0⟩,
  ⟨R.HUB_WATCH_DATA, 1, 4, 0xffffffff, 0, 0, 0⟩,
  ⟨R.HUB_WATCH_DATA + 4, 1, 4, 0xffff0000, 0, 0, 0⟩,
  ⟨R.HUB_WATCH_DATA + 8, 3, 4, 0xffffffff, 0, 0, 0⟩,
  ⟨R.HUB_WATCH_DATA + 20, 1, 4, 0xffff00ff, 0, 0, 0⟩,
  ⟨R.HUB_WATCH_DATA + 24, 10, 4, 0xffffffff, 0, 0, 0⟩,
  ⟨R.HUB_RCV_CFG, 1, 4, 0, 0x8770ffff, 0, 0x110000a⟩,
  ⟨R.HUB_RCV_EPOCH, 1, 4, 0, 0, 0, 0⟩,
  ⟨R.HUB_RCV_SEQ, 1, 4, 0, 0, 0, 0⟩,
  ⟨R.HUB_RCV_STS, 1, 4, 0, 0, 0, 0⟩,
  ⟨R.HUB_JOIN_CFG, 1, 4, 0xffff, 0, 0, 0x308⟩,
  ⟨R.HUB_JOIN_STS, 1, 4, 0, 0, 0, 0⟩,
  ⟨R.HUB_UNIT_CFG, 1, 4, 0, 0xffffffff, 0, 0x3105f10⟩,
  ⟨R.HUB_UNIT_STS, 1, 4, 0, 0, 0xe0000000, 0⟩,
  ⟨R.HUB_PRE_NOTICE, 1, 4, 0, 0, 0, 0⟩,
  ⟨R.HUB_PRE_CFG, 1, 4, 0xfffffff, 0x80000000, 0, 0x80647530⟩,
  ⟨R.HUB_PRE_STS, 1, 4, 0, 0, 0, 0⟩,
  ⟨R.HUB_PRE_STEP, 2, 4, 0, 0, 0, 0⟩,
  ⟨R.HUB_PRE_CTL, 1, 4, 0, 0, 0, 0⟩,
  ⟨R.HUB_WD_LIMIT0, 1, 4, 0xffffffff, 0, 0, 0x7d02710⟩,
  ⟨R.HUB_WD_LIMIT1, 1, 4, 0xffffffff, 0, 0, 0x32001e⟩]

def rows_000_2 : List RegRow := [
  ⟨R.HUB_RST_CFG, 1, 4, 0, 0xffffffff, 0, 0x42583e10⟩,
  ⟨R.HUB_RST_CTL, 1, 4, 0x60000000, 0x80000000, 0, 0xc0000000⟩,
  ⟨R.HUB_RST_REQ, 1, 4, 0, 0, 0, 0⟩,
  ⟨R.HUB_RST_STS, 1, 4, 0, 0, 0, 0⟩,
  ⟨R.HUB_RST_SEL, 1, 4, 0xff, 0, 0, 0⟩,
  ⟨R.HUB_RST_CNT, 1, 4, 0, 0, 0, 0⟩,
  ⟨R.HUB_OOS0, 1, 4, 0, 0, 0, 0⟩,
  ⟨R.HUB_OOS1, 1, 4, 0, 0, 0, 0⟩,
  ⟨R.HUB_ABORT_STS, 1, 4, 0, 0, 0x80000000, 0⟩,
  ⟨R.HUB_ABORT_STEP, 2, 4, 0, 0, 0, 0⟩,
  ⟨R.HUB_ABORT_ORIGIN, 1, 4, 0, 0, 0, 0⟩,
  ⟨R.HUB_ABORT_CTL, 1, 4, 0, 0, 0, 0⟩,
  ⟨R.HUB_WD_INFO, 1, 4, 0, 0, 0, 0⟩,
  ⟨R.HUB_TEST_REQ, 1, 4, 0, 0, 0, 0⟩,
  ⟨R.HUB_TEST_STS, 1, 4, 0, 0, 0x30000000, 0⟩,
  ⟨R.HUB_TEST_CFG, 1, 4, 0xffffffff, 0, 0, 0x2580019⟩,
  ⟨R.HUB_SEAL_CTL, 1, 4, 0, 0, 0, 0⟩,
  ⟨R.HUB_SEAL_STS, 1, 4, 0, 0, 0, 0⟩]

def rows_001_0 : List RegRow := [
  ⟨R.DEP_MODE, 2, 4, 0xffffffff, 0, 0, 0⟩,
  ⟨R.DEP_MODE_CUR, 2, 4, 0, 0, 0, 0⟩,
  ⟨R.DEP_STS, 1, 4, 0, 0, 0, 0x40⟩,
  ⟨R.DEP_CR_BASE, 8, 8, 0x800fffff, 0, 0, 0⟩,
  ⟨R.DEP_CR_LIMIT, 8, 8, 0xfffff, 0, 0, 0⟩,
  ⟨R.DEP_CE_CNT, 1, 4, 0, 0, 0, 0⟩,
  ⟨R.DEP_UE_CNT, 1, 4, 0, 0, 0, 0⟩,
  ⟨R.DEP_REFETCH_CNT, 1, 4, 0, 0, 0, 0⟩,
  ⟨R.DEP_HIT, 2, 4, 0, 0, 0, 0⟩,
  ⟨R.DEP_MISS, 2, 4, 0, 0, 0, 0⟩]

def rows_002_0 : List RegRow := [
  ⟨R.SYN_SEL, 1, 4, 0x3fff, 0, 0, 0⟩,
  ⟨R.SYN_VAL, 2, 4, 0xffffffff, 0, 0, 0⟩,
  ⟨R.SYN_ADD, 1, 4, 0, 0, 0, 0⟩,
  ⟨R.SYN_BOUND, 2, 4, 0, 0, 0, 0⟩,
  ⟨R.SYN_STS, 1, 4, 0, 0, 0, 0⟩]

def rows_003_0 : List RegRow := [
  ⟨R.QUE_SEL, 1, 4, 0x3fff, 0, 0, 0⟩,
  ⟨R.QUE_CFG, 1, 4, 0x801fc03f, 0, 0, 0x44000⟩,
  ⟨R.QUE_BASE, 2, 4, 0xffffffff, 0, 0, 0⟩,
  ⟨R.QUE_PTR, 1, 4, 0, 0, 0, 0⟩,
  ⟨R.QUE_SAFE, 1, 4, 0, 0, 0, 0⟩,
  ⟨R.QUE_STS, 1, 4, 0, 0, 0, 0⟩,
  ⟨R.QUE_CTL, 1, 4, 0, 0, 0, 0⟩,
  ⟨R.QUE_CTX_SEL, 1, 4, 0x3f, 0, 0, 0⟩,
  ⟨R.QUE_CTX_CFG, 1, 4, 0xf83f00ff, 0, 0, 0⟩,
  ⟨R.QUE_CTX_WIN_BASE, 1, 4, 0xfffff, 0, 0, 0⟩,
  ⟨R.QUE_CTX_WIN_LIMIT, 1, 4, 0xfffff, 0, 0, 0x5ffff⟩,
  ⟨R.QUE_CTX_SRKEY, 2, 4, 0xffffffff, 0, 0, 0⟩,
  ⟨R.QUE_CTX_EPOCH, 1, 4, 0xffffffff, 0, 0, 0⟩,
  ⟨R.QUE_CTX_STS, 1, 4, 0, 0, 0x10000, 0⟩,
  ⟨R.QUE_CTX_CR, 2, 4, 0xffffffff, 0, 0, 0⟩,
  ⟨R.QUE_CTX_CR_CFG, 1, 4, 0x1fffff, 0, 0, 0x60000⟩,
  ⟨R.QUE_CTX_CR_TAIL, 1, 4, 0, 0, 0, 0⟩]

def rows_004_0 : List RegRow := [
  ⟨R.CXE_CFG, 1, 4, 0xfff03, 0, 0, 0x3e803⟩,
  ⟨R.CXE_EPOCH, 1, 4, 0, 0, 0, 0⟩,
  ⟨R.CXE_LCOORD, 1, 4, 0, 0, 0, 0⟩,
  ⟨R.CXE_CUT, 4, 4, 0, 0, 0, 0xc081c081⟩,
  ⟨R.CXE_NEXT_EPOCH, 1, 4, 0xffffffff, 0, 0, 0⟩,
  ⟨R.CXE_NEXT_LCOORD, 1, 4, 0x3ffff, 0, 0, 0⟩,
  ⟨R.CXE_NEXT_CUT, 4, 4, 0xffffffff, 0, 0, 0xc081c081⟩,
  ⟨R.CXE_NEXT_STEP, 2, 4, 0xffffffff, 0, 0, 0⟩,
  ⟨R.CXE_NEXT_CTL, 1, 4, 0, 0, 0, 0⟩,
  ⟨R.CXE_NEXT_STS, 1, 4, 0, 0, 0x60000000, 0⟩,
  ⟨R.CXE_REFUSE_CNT, 1, 4, 0, 0, 0, 0⟩,
  ⟨R.CXE_RESEND_CNT, 1, 4, 0, 0, 0, 0⟩,
  ⟨R.CXE_CHECK_CNT, 1, 4, 0, 0, 0, 0⟩]

def rows_005_0 : List RegRow := [
  ⟨R.IXE_CFG, 1, 4, 0xc0000000, 0, 0, 0⟩,
  ⟨R.IXE_STS, 1, 4, 0, 0, 0, 0x8000000⟩,
  ⟨R.IXE_WORK_BASE, 1, 4, 0, 0xfffff, 0, 0⟩,
  ⟨R.IXE_WORK_SIZE, 1, 4, 0, 0xffff, 0, 0x40⟩,
  ⟨R.IXE_SHUF_N, 2, 4, 0xffffffff, 0, 0, 0⟩,
  ⟨R.IXE_SHUF_KEY, 2, 4, 0xffffffff, 0, 0, 0⟩,
  ⟨R.IXE_SHUF_SEED, 1, 4, 0xffffffff, 0, 0, 0⟩,
  ⟨R.IXE_SHUF_STEP0, 2, 4, 0xffffffff, 0, 0, 0⟩,
  ⟨R.IXE_SHUF_MEMBERS, 1, 4, 0x7ffff, 0, 0, 1⟩,
  ⟨R.IXE_SHUF_RANK, 1, 4, 0x3ffff, 0, 0, 0⟩,
  ⟨R.IXE_SHUF_BATCH, 1, 4, 0xffff, 0, 0, 1⟩,
  ⟨R.IXE_PICS, 2, 4, 0, 0, 0, 0⟩,
  ⟨R.IXE_SLOT_BASE, 16, 8, 0x800fffff, 0, 0, 0⟩,
  ⟨R.IXE_SLOT_SIZE, 16, 8, 0xfffff, 0, 0, 0⟩,
  ⟨R.IXE_NORM1_MEAN, 3, 4, 0xffffffff, 0, 0, 0⟩,
  ⟨R.IXE_NORM1_SCALE, 3, 4, 0xffffffff, 0, 0, 0x3f800000⟩,
  ⟨R.IXE_NORM2_MEAN, 3, 4, 0xffffffff, 0, 0, 0⟩,
  ⟨R.IXE_NORM2_SCALE, 3, 4, 0xffffffff, 0, 0, 0x3f800000⟩,
  ⟨R.IXE_NORM3_MEAN, 3, 4, 0xffffffff, 0, 0, 0⟩,
  ⟨R.IXE_NORM3_SCALE, 3, 4, 0xffffffff, 0, 0, 0x3f800000⟩]

def rows_005_1 : List RegRow := [
  ⟨R.IXE_NORM4_MEAN, 3, 4, 0xffffffff, 0, 0, 0⟩,
  ⟨R.IXE_NORM4_SCALE, 3, 4, 0xffffffff, 0, 0, 0x3f800000⟩,
  ⟨R.IXE_NORM5_MEAN, 3, 4, 0xffffffff, 0, 0, 0⟩,
  ⟨R.IXE_NORM5_SCALE, 3, 4, 0xffffffff, 0, 0, 0x3f800000⟩,
  ⟨R.IXE_NORM6_MEAN, 3, 4, 0xffffffff, 0, 0, 0⟩,
  ⟨R.IXE_NORM6_SCALE, 3, 4, 0xffffffff, 0, 0, 0x3f800000⟩,
  ⟨R.IXE_NORM7_MEAN, 3, 4, 0xffffffff, 0, 0, 0⟩,
  ⟨R.IXE_NORM7_SCALE, 3, 4, 0xffffffff, 0, 0, 0x3f800000⟩,
  ⟨R.IXE_ERR_CNT, 1, 4, 0, 0, 0, 0⟩,
  ⟨R.IXE_AUTH_CNT, 1, 4, 0, 0, 0, 0⟩,
  ⟨R.IXE_DUAL_CNT, 1, 4, 0, 0, 0, 0⟩]

def rows_006_0 : List RegRow := [
  ⟨R.LXE_CFG, 1, 4, 0x400f0f0f, 0xaf000000, 0, 0xef020802⟩,
  ⟨R.LXE_LEDGER_BASE, 2, 4, 0, 0xffffffff, 0, 0⟩,
  ⟨R.LXE_LEDGER_SIZE, 1, 4, 0, 0x1ffff, 0, 0x2000⟩,
  ⟨R.LXE_LEDGER_STS, 1, 4, 0, 0, 0, 0⟩,
  ⟨R.LXE_VSTS, 1, 4, 0, 0, 0, 0⟩,
  ⟨R.LXE_VORIGIN, 1, 4, 0, 0, 0, 0x3ffff⟩,
  ⟨R.LXE_VSTEP, 2, 4, 0, 0, 0, 0⟩,
  ⟨R.LXE_SR_BASE, 8, 8, 0x800fffff, 0, 0, 0⟩,
  ⟨R.LXE_SR_LIMIT, 8, 8, 0xfffff, 0, 0, 0⟩,
  ⟨R.LXE_REPLAY_CNT, 1, 4, 0, 0, 0, 0⟩,
  ⟨R.LXE_WIN_REDO_CNT, 1, 4, 0, 0, 0, 0⟩,
  ⟨R.LXE_GUARD_CNT, 1, 4, 0, 0, 0, 0⟩,
  ⟨R.LXE_REREAD_FIX_CNT, 1, 4, 0, 0, 0, 0⟩,
  ⟨R.LXE_RECDIFF_CNT, 1, 4, 0, 0, 0, 0⟩,
  ⟨R.LXE_CKPT_CFG, 1, 4, 0, 0xdf0000ff, 0, 0x4f000000⟩,
  ⟨R.LXE_CKPT_BASE, 2, 4, 0, 0xffffffff, 0, 0⟩,
  ⟨R.LXE_CKPT_SIZE, 1, 4, 0, 0x3ffff, 0, 0⟩,
  ⟨R.LXE_CKPT_SRC_BASE, 4, 8, 0x800fffff, 0, 0, 0⟩,
  ⟨R.LXE_CKPT_SRC_LIMIT, 4, 8, 0xfffff, 0, 0, 0⟩,
  ⟨R.LXE_CKPT_STS, 1, 4, 0, 0, 0, 0⟩]

def rows_006_1 : List RegRow := [
  ⟨R.LXE_CKPT_GEN, 1, 4, 0, 0, 0, 0⟩,
  ⟨R.LXE_CKPT_STEP, 2, 4, 0, 0, 0, 0⟩,
  ⟨R.LXE_CKPT_PROG, 1, 4, 0, 0, 0, 0⟩,
  ⟨R.LXE_CKPT_CTL, 1, 4, 0, 0, 0, 0⟩,
  ⟨R.LXE_CKPT_UNITS, 1, 4, 0, 0, 0, 0⟩,
  ⟨R.LXE_CKPT_STALL_CNT, 1, 4, 0, 0, 0, 0⟩,
  ⟨R.LXE_CKPT_GDIG, 2, 4, 0, 0, 0, 0⟩,
  ⟨R.LXE_CKPT_RATE, 1, 4, 0xffff, 0, 0, 0x10⟩]

def rows_007_0 : List RegRow := [
  ⟨R.FAB_COORD, 1, 4, 0, 0x3ffff, 0, 0⟩,
  ⟨R.FAB_DIMS, 1, 4, 0, 0x3ffff, 0, 0⟩,
  ⟨R.FAB_YOKE, 1, 4, 0, 0x8003ffff, 0, 0⟩,
  ⟨R.FAB_ARB, 1, 4, 0xffff, 0, 0, 0x103⟩,
  ⟨R.FAB_MAP_BASE, 2, 4, 0xffffffff, 0, 0, 0⟩,
  ⟨R.FAB_MAP_CTL, 1, 4, 0, 0, 0x40000000, 0⟩,
  ⟨R.FAB_UNREACH_CNT, 1, 4, 0, 0, 0, 0⟩,
  ⟨R.FAB_PORT_CTL, 1, 4, 0x80000000, 0xffffff, 0, 0x80100100⟩,
  ⟨R.FAB_PORT_STS, 1, 4, 0, 0, 0, 0x10000000⟩,
  ⟨R.FAB_LANE_MAP, 1, 4, 0, 0, 0, 0x3ff03ff⟩,
  ⟨R.FAB_LANE_SEL, 1, 4, 0x1f, 0, 0, 0⟩,
  ⟨R.FAB_LANE_CNT, 1, 4, 0, 0, 0, 0⟩,
  ⟨R.FAB_CW_CORR, 2, 4, 0, 0, 0, 0⟩,
  ⟨R.FAB_CW_UNCORR, 1, 4, 0, 0, 0, 0⟩,
  ⟨R.FAB_RETRY_CNT, 1, 4, 0, 0, 0, 0⟩,
  ⟨R.FAB_VIOL_CNT, 1, 4, 0, 0, 0, 0⟩,
  ⟨R.FAB_VIOL_INFO, 1, 4, 0, 0, 0x80000000, 0⟩,
  ⟨R.FAB_PEER_ERR, 1, 4, 0, 0, 0x80000000, 0⟩,
  ⟨R.FAB_AUTH_CNT, 1, 4, 0, 0, 0, 0⟩,
  ⟨R.FAB_KEY_GEN, 1, 4, 0, 0, 0, 0⟩]

def rows_008_0 : List RegRow := [
  ⟨R.ICU_CFG, 1, 4, 0xe0000000, 0, 0, 0x80000000⟩,
  ⟨R.ICU_SRC_SEL, 1, 4, 0x7ff, 0, 0, 0⟩,
  ⟨R.ICU_SRC_CFG, 1, 4, 0xffff0000, 0, 0, 0⟩,
  ⟨R.ICU_GRP_SEL, 1, 4, 0xff, 0, 0, 0⟩,
  ⟨R.ICU_GRP_CFG0, 1, 4, 0xffffffff, 0, 0, 0x10001⟩,
  ⟨R.ICU_GRP_CFG1, 1, 4, 0xfc070000, 0, 0, 0⟩,
  ⟨R.ICU_GRP_STS, 1, 4, 0, 0, 0, 0⟩,
  ⟨R.ICU_MSI_ADDR, 2, 4, 0xffffffff, 0, 0, 0⟩,
  ⟨R.ICU_MSIX_ADDR, 2, 4, 0xffffffff, 0, 0, 0⟩,
  ⟨R.ICU_MSI_DATA, 1, 4, 0xfffffe00, 0, 0, 0⟩,
  ⟨R.ICU_HMASK, 64, 4, 0xffffffff, 0, 0, 0xffffffff⟩,
  ⟨R.ICU_HPEND, 64, 4, 0xffffffff, 0, 0, 0⟩,
  ⟨R.ICU_HRAW, 64, 4, 0, 0, 0, 0⟩,
  ⟨R.ICU_FMASK, 64, 4, 0xffffffff, 0, 0, 0xffffffff⟩,
  ⟨R.ICU_FPEND, 64, 4, 0xffffffff, 0, 0, 0⟩,
  ⟨R.ICU_FRAW, 64, 4, 0, 0, 0, 0⟩,
  ⟨R.ICU_T_EOI, 8, 16, 0, 0, 0, 0⟩,
  ⟨R.ICU_T_STK, 8, 16, 0, 0, 0, 0⟩,
  ⟨R.ICU_T_CTL, 8, 16, 0, 0, 0, 0⟩,
  ⟨R.ICU_T_VEC, 16, 4, 0, 0, 0, 0⟩]

def rows_009_0 : List RegRow := [
  ⟨R.OST_STS, 1, 4, 0, 0, 0, 0⟩,
  ⟨R.OST_SENSOR_SEL, 1, 4, 0xff, 0, 0, 0⟩,
  ⟨R.OST_SENSOR_VAL, 1, 4, 0, 0, 0, 0⟩,
  ⟨R.OST_MBX_CTL, 1, 4, 0, 0, 0, 0⟩,
  ⟨R.OST_MBX_STS, 1, 4, 0, 0, 0x8000000, 0⟩,
  ⟨R.OST_MAC, 2, 4, 0, 0, 0, 0⟩,
  ⟨R.OST_MBX_REQ, 1008, 4, 0xffffffff, 0, 0, 0⟩,
  ⟨R.OST_MBX_RSP, 1008, 4, 0, 0, 0, 0⟩]

def rows_00A_0 : List RegRow := [
  ⟨R.SEC_STS, 1, 4, 0, 0, 0x20000000, 0⟩,
  ⟨R.SEC_SLOT_SEL, 1, 4, 0xff, 0, 0, 0⟩,
  ⟨R.SEC_SLOT_STS, 1, 4, 0, 0, 0, 0⟩]

def rows_00B_0 : List RegRow := [
  ⟨R.PWR_LEVELS, 1, 4, 0, 0x3fffffff, 0, 0x17c5a154⟩,
  ⟨R.PWR_STS, 1, 4, 0, 0, 0x30000000, 0⟩,
  ⟨R.PWR_DIP_MIN, 1, 4, 0, 0, 0, 0⟩,
  ⟨R.PWR_CAP, 1, 4, 0, 0xffff, 0, 0x960⟩,
  ⟨R.PWR_THERM, 1, 4, 0, 0xffff, 0, 0x35f⟩,
  ⟨R.PWR_THROT_STS, 1, 4, 0, 0, 0, 0⟩,
  ⟨R.PWR_THROT_CTL, 1, 4, 1, 0, 0, 0⟩]

def rows_00C_0 : List RegRow := [
  ⟨R.CLK_CFG, 1, 4, 2, 1, 0, 2⟩,
  ⟨R.CLK_STS, 1, 4, 0, 0, 0, 0⟩]

def rows_00D_0 : List RegRow := [
  ⟨R.UCI_CFG, 1, 4, 0xffff0000, 0xff00, 0, 0x321000⟩,
  ⟨R.UCI_STS, 1, 4, 0, 0, 0, 0⟩,
  ⟨R.UCI_VIOL_CNT, 1, 4, 0, 0, 0, 0⟩,
  ⟨R.UCI_VIOL_INFO, 1, 4, 0, 0, 0x80000000, 0⟩,
  ⟨R.UCI_RETRY_CNT, 1, 4, 0, 0, 0, 0⟩,
  ⟨R.UCI_AUTH_CNT, 1, 4, 0, 0, 0, 0⟩]

def rows_00E_0 : List RegRow := [
  ⟨R.DMP_CFG, 1, 4, 0x80ffffff, 0, 0, 0x400000⟩,
  ⟨R.DMP_OUT_BASE, 2, 4, 0xffffffff, 0, 0, 0⟩,
  ⟨R.DMP_OUT_SIZE, 1, 4, 0xffff, 0, 0, 0⟩,
  ⟨R.DMP_STS, 1, 4, 0, 0, 0x10000000, 0⟩,
  ⟨R.DMP_CTL, 1, 4, 0, 0, 0, 0⟩,
  ⟨R.DMP_SEQ, 1, 4, 0, 0, 0, 0⟩]

def rows_100_0 : List RegRow := [
  ⟨R.CAR_CORE_MAP, 1, 4, 0, 0, 0, 0x76543210⟩,
  ⟨R.CAR_CORE_STS, 1, 4, 0, 0, 0, 0x1000000⟩,
  ⟨R.CAR_VX_MAP, 1, 4, 0, 0, 0, 0x10000000⟩,
  ⟨R.CAR_REMOUNT_CTL, 1, 4, 0, 0, 0, 0⟩,
  ⟨R.CAR_REMOUNT_STS, 1, 4, 0, 0, 0x40000000, 0⟩,
  ⟨R.CAR_SLOW_CFG, 1, 4, 0, 0xffff, 0, 0x5f08⟩,
  ⟨R.CAR_SLOW_RATIO, 8, 4, 0, 0, 0, 0x3f800000⟩,
  ⟨R.CAR_VX_MAP0, 1, 4, 0, 0, 0, 0x3020100⟩,
  ⟨R.CAR_VX_MAP1, 1, 4, 0, 0, 0, 0x7060504⟩,
  ⟨R.CAR_VX_MAP2, 1, 4, 0, 0, 0, 0xb0a0908⟩,
  ⟨R.CAR_VX_MAP3, 1, 4, 0, 0, 0, 0xf0e0d0c⟩]

def rows_101_0 : List RegRow := [
  ⟨R.MXC_CHK_CTL, 1, 4, 0x1f0701, 0xf0, 0, 0⟩,
  ⟨R.MXC_CHK_STS, 1, 4, 0, 0, 0xff, 0⟩,
  ⟨R.MXC_CHK_STEP, 2, 4, 0, 0, 0, 0⟩,
  ⟨R.MXC_CHK_INFO, 1, 4, 0, 0, 1, 0⟩,
  ⟨R.MXC_CHK_EXCESS, 1, 4, 0, 0, 0, 0⟩,
  ⟨R.MXC_CHK_POS, 1, 4, 0, 0, 0, 0⟩,
  ⟨R.MXC_CHK_CNT, 8, 4, 0, 0, 0, 0⟩]

def rows_104_0 : List RegRow := [
  ⟨R.MEM_CFG, 1, 4, 0, 0xfff080ff, 0, 0x18408010⟩,
  ⟨R.MEM_PRIO, 1, 4, 0xffffffff, 0, 0, 0x400c0301⟩,
  ⟨R.MEM_PCH_SEL, 1, 4, 0x1f, 0, 0, 0⟩,
  ⟨R.MEM_PCH_STS, 1, 4, 0, 0, 0, 0x1ffffffe⟩,
  ⟨R.MEM_CE_CNT, 1, 4, 0, 0, 0, 0⟩,
  ⟨R.MEM_UE_CNT, 1, 4, 0, 0, 0, 0⟩,
  ⟨R.MEM_ERR_ADDR, 2, 4, 0, 0, 0, 0⟩,
  ⟨R.MEM_ERR_INFO, 1, 4, 0, 0, 0x80000000, 0x3f800⟩,
  ⟨R.MEM_REMAP_STS, 1, 4, 0, 0, 0, 0⟩,
  ⟨R.MEM_RETIRE_SEL, 1, 4, 0x3ff, 0, 0, 0⟩,
  ⟨R.MEM_RETIRE_PAGE, 1, 4, 0, 0, 0, 0⟩,
  ⟨R.MEM_RETIRE_CNT, 1, 4, 0, 0, 0, 0⟩,
  ⟨R.MEM_TRAIN_CTL, 1, 4, 0, 0, 0, 0⟩]

/-- The rows of a block window (carriage windows by their C0 window). -/
def rowsOfWindow (w : Nat) : List RegRow :=
  match w with
  | 0x0 => rows_000_0 ++ rows_000_1 ++ rows_000_2
  | 0x1 => rows_001_0
  | 0x2 => rows_002_0
  | 0x3 => rows_003_0
  | 0x4 => rows_004_0
  | 0x5 => rows_005_0 ++ rows_005_1
  | 0x6 => rows_006_0 ++ rows_006_1
  | 0x7 => rows_007_0
  | 0x8 => rows_008_0
  | 0x9 => rows_009_0
  | 0xA => rows_00A_0
  | 0xB => rows_00B_0
  | 0xC => rows_00C_0
  | 0xD => rows_00D_0
  | 0xE => rows_00E_0
  | 0x100 => rows_100_0
  | 0x101 => rows_101_0
  | 0x104 => rows_104_0
  | _ => []

end Sys2Proof.Machine
end

