-- ==== Sys2Proof/Machine/Table.lean ====
section
/-! DEFINITION. Sparse tables in one canonical form: keys strictly rising, and no entry equal to what its key reads as when it is not
listed. Equal contents are then equal lists. -/
namespace Sys2Proof.Machine

variable {V : Type}

/-- The value at key k: the listed one, else the default. -/
def tget (dflt : Nat → V) : Tbl V → Nat → V
  | [], k => dflt k
  | (j, v) :: t, k => if k = j then v else tget dflt t k

/-- The table without key k. -/
def tdel : Tbl V → Nat → Tbl V
  | [], _ => []
  | (j, v) :: t, k => if k = j then tdel t k else (j, v) :: tdel t k

/-- The table with v listed at key k, in key order. -/
def tput : Tbl V → Nat → V → Tbl V
  | [], k, v => [(k, v)]
  | (j, w) :: t, k, v =>
    if k < j then (k, v) :: (j, w) :: t
    else if k = j then (k, v) :: t
    else (j, w) :: tput t k v

/-- Writing the default removes the entry. -/
def tset [DecidableEq V] (dflt : Nat → V) (t : Tbl V) (k : Nat) (v : V) : Tbl V :=
  if v = dflt k then tdel t k else tput t k v

/-- Keys strictly rising from above a bound. -/
def trising : Option Nat → Tbl V → Bool
  | _, [] => true
  | none, (k, _) :: t => trising (some k) t
  | some j, (k, _) :: t => j < k && trising (some k) t

/-- The canonical form. -/
def twf [DecidableEq V] (dflt : Nat → V) (t : Tbl V) : Bool :=
  trising none t && t.all fun p => p.2 ≠ dflt p.1

/-- The table without the keys of a range. -/
def tclear (t : Tbl V) (p : Nat → Bool) : Tbl V := t.filter fun x => !p x.1

end Sys2Proof.Machine
end

