-- ==== Sys2Proof/Machine/State.lean ====
section
/-! DEFINITION. The state of the block, as plain data, and the state right after a device reset. Every 32-bit register of the register map
lies in one sparse table under its register-space offset; what is selected by another register (queues, contexts, counters, groups) and
what the spec describes without a register has a field of its own. -/
namespace Sys2Proof.Machine

/-- A refusal of the model. -/
inductive Refusal where
  /-- An arm of the dispatch that has no meaning yet. Safe: the model stops where the device goes on. -/
  | notModelled (mnemonic : String)
  /-- Raised by jtagInstruction for a private instruction while debug is unlocked: the spec gives such instructions no effect (R406). Safe. -/
  | debugInstruction (code : Nat)
deriving DecidableEq, Repr

/-- A fault of the model. No command raises one: the spec's own error answers are all effects on the state. -/
inductive Fault where
  /-- Raised by nothing. Safe. -/
  | none
deriving DecidableEq, Repr

/-! ### Queues, contexts, records (04) -/

/-- What stops a queue (R106, R107): `stop` is STOP taken, `error` state 5, `reset` state 6, `ctxStop` state 7. -/
inductive QMode where
  | run | stop | error | reset | ctxStop
deriving DecidableEq, Repr

/-- One queue. `next` is the first record of the entry at HEAD that has not started, `ended` how many of that entry's records have ended,
`entryOk` says that the entry passed its checks as it became HEAD (R97), `checked` that the first unstarted record passed its checks (R95), `waitMet` that its wait was met (R100);
`failed` are started records that stopped the queue, `redo` those that RESUME starts again; `host` holds what a transport queue has fetched
of its ring and records (R375), `got` counts what has been fetched, the ring entry first and then its records, and `fetching` says that a fetch is
outstanding. -/
structure Queue where
  en       : Bool
  sizeLog2 : Nat
  prio     : Nat
  ctx      : Nat
  base     : Nat
  head     : Nat
  tail     : Nat
  safe     : Nat
  bhead    : Nat
  mode     : QMode
  resp     : Nat
  detail   : Nat
  next     : Nat
  ended    : Nat
  entryOk  : Bool
  checked  : Bool
  waitMet  : Bool
  failed   : List Nat
  redo     : List Nat
  host     : Mem
  got      : Nat
  fetching : Bool
deriving DecidableEq, Repr

/-- A queue after reset (R104 to R106). -/
def Queue.reset : Queue :=
  { en := false, sizeLog2 := 4, prio := 1, ctx := 0, base := 0, head := 0, tail := 0, safe := 0, bhead := 0, mode := .run, resp := 0,
    detail := 0, next := 0, ended := 0, entryOk := false, waitMet := false, checked := false, failed := [], redo := [], host := [],
    got := 0, fetching := false }

/-- What a queue that is not listed reads as: as after reset, and in state 6 where a reset has swept its engine (R123). -/
def Queue.unlisted (swept : List Nat) (q : Nat) : Queue :=
  if swept.contains (q / 1024 % 16) then { Queue.reset with mode := .reset } else Queue.reset

/-- STATE of QUE_CTX_STS beyond EN: stopped by the recovery core, or guilty (R109, R124). -/
inductive CtxMark where
  | none | stopped | guilty
deriving DecidableEq, Repr

/-- One context (R104, R108, R109). `crWait` holds completion records on their way to a ring in host memory, the first of them sent and
not yet answered, each with whether its RESP is an error (R98, R375). -/
structure Ctx where
  en       : Bool
  stepped  : Bool
  remoteEn : Bool
  measure  : Bool
  depotEn  : Bool
  group    : Nat
  keyslot  : Nat
  winBase  : Nat
  winLimit : Nat
  srkey    : Nat
  epoch    : Nat
  mark     : CtxMark
  crOvf    : Bool
  dbRej    : Nat
  crBase   : Nat
  crSize   : Nat
  crHead   : Nat
  crTail   : Nat
  crWait   : List (List Byte × Bool)
deriving DecidableEq, Repr

/-- Context n after reset: GROUP is its own number (R108). -/
def Ctx.reset (n : Nat) : Ctx :=
  { en := false, stepped := false, remoteEn := false, measure := false, depotEn := false, group := n, keyslot := 0, winBase := 0,
    winLimit := 0x5FFFF, srkey := 0, epoch := 0, mark := .none, crOvf := false, dbRej := 0, crBase := 0, crSize := 6, crHead := 0, crTail := 0,
    crWait := [] }

/-- A record that an engine has started and that has not retired: its number, queue, context, ring index, record index, the STEP of its
entry, its 512 bits, the unit it holds, and, once its work is done, its response and detail. `suspect` marks a record of a hang set that the search
of R346 runs again, `loose` one whose queue has been disabled since it started (R105). Read as it starts: the stochastic-rounding key it runs under (R45),
the bit of an armed injection that it takes (R68), the shuffle registers of an ingest record (R212). `cls` is the operand class of a matrix
command, 3 of any other record (R297). -/
structure Flight where
  rid   : Nat
  queue : Nat
  ctx   : Nat
  entry : Nat
  idx   : Nat
  step  : Nat
  word  : RecWord
  unit  : Nat
  resp  : Option (Nat × Nat)
  suspect : Bool
  loose : Bool
  key   : Nat
  inj   : Option Nat
  shuf  : List Nat
  cls   : Nat
deriving DecidableEq, Repr

/-- The QUE block and the engines: queues, contexts, the round-robin pointer of each engine and PRIO (last queue chosen), the records in
flight and the number of the next one. -/
structure Que where
  queues  : Tbl Queue
  swept   : List Nat          -- engines whose every queue a reset has put in state 6 (R123)
  ctxs    : Tbl Ctx
  rr      : Tbl Nat
  flights : List Flight
  nextRid : Nat
deriving DecidableEq, Repr

/-- A remote signal held for a later step (R102). -/
structure Held where
  ctr  : Nat
  add  : Nat
  step : Nat
deriving DecidableEq, Repr

/-- The SYN block: counters, boundary copies, the pending store (R99, R102, R103). -/
structure Syn where
  ctr   : Tbl DWord
  bound : Tbl DWord
  held  : List Held
deriving DecidableEq, Repr

/-! ### Steps (05) -/

/-- The position of schedule core 0: the last sealed step, whether a step has been issued and not sealed, whether F or a restore has set the
last sealed step, the run of the step, and the configuration read at issue (R135, R138, R156). -/
structure StepPos where
  lastSealed : Option Nat
  issued     : Bool
  run        : Nat
  firstSet   : Bool
  cfg        : Word
  enforce    : Bool
  watchCfg   : Word
deriving DecidableEq, Repr

/-! ### Memory (07) -/

/-- A row-remap entry (R182, R183): the row (in the coding of R296, with its pseudo-channel), its spare's number and the poison mask. -/
structure Remap where
  row    : Nat
  spare  : Nat
  poison : Nat
deriving DecidableEq, Repr

/-- One way of a depot set: the line it holds, when the line is dirty the 128 bytes that stacked memory still holds (R161, R162), and bits flipped in its words
(R163). -/
structure Way where
  way  : Nat
  line : Nat
  old  : Option (List Byte)
  errs : List (Nat × Nat)
deriving DecidableEq, Repr

/-- A set of a cache-mode slice: its valid ways and its 15 tree bits (R162). -/
structure CacheSet where
  ways : List Way
  tree : Nat
deriving DecidableEq, Repr

/-- The memory controllers and the depot: blocks whose content is lost, a dirty depot line having been uncorrectable (by address div 128), symbols by which a
block's burst differs from its codeword (R173), flipped bits of on-chip words (by memory key div 4; R177), rows that can no longer be repaired (R185), candidate
rows, remap entries, corrected events of each row and symbol errors of each pin in the scrub pass, retired 64 KiB pages in the order of
retirement, MEM_PCH_STS of each pseudo-channel, depot sets, the cacheable, state and checkpoint source ranges in force, and the number of device resets, each
of which gives the controllers new key pairs (R186). -/
structure MemPart where
  bad       : List Nat
  deadRows  : List Nat
  syms      : Tbl (List (Nat × Nat))
  words     : Tbl Nat
  cands     : List Nat
  remap     : List Remap
  rowEvents : Tbl Nat
  pinErrs   : Tbl Nat
  retired   : List Nat
  pch       : Tbl Word
  cache     : Tbl CacheSet
  crCur     : List (Nat × Nat)
  srCur     : List (Nat × Nat)
  srcCur    : List (Nat × Nat)
  era       : Nat
deriving DecidableEq, Repr

def MemPart.reset : MemPart :=
  { bad := [], deadRows := [], syms := [], words := [], cands := [], remap := [], rowEvents := [], pinErrs := [], retired := [], pch := [], cache := [], crCur := [],
    srCur := [], srcCur := [], era := 0 }

/-! ### Hangs and resets (14) -/

/-- A fence, collect and reset sequence (R336, R340 to R343): domain, whether it holds fenced instead of resetting, reason (R348), and
its stage as SEQ codes it (1 fencing, 2 collecting, 3 resetting). -/
structure Seqn where
  domain : Nat
  hold   : Bool
  reason : Nat
  stage  : Nat
deriving DecidableEq, Repr

/-- The suspect search (R346): its engine, the context whose hang set runs, the hang sets that have not run yet, the contexts found guilty. -/
structure Search where
  engine : Nat
  cur    : Option Nat
  left   : List Flight
  guilty : List Nat
deriving DecidableEq, Repr

/-- The recovery core (R335 to R350): the sequence that runs, those that wait, domains held fenced, resets of each domain, the windows
marked in the collect, the stored dumps newest first, the device reset that waits for ACK, the step aborted and not yet reissued, the run
of a step's last reissue, the aborts forwarded, the mode latches of R338, and the hang set of a search (R346). -/
structure Recov where
  cur        : Option Seqn
  waiting    : List Seqn
  held       : List Nat
  total      : Tbl Nat
  recent     : Tbl Nat
  marked     : List Nat
  dumps      : List (List Byte)
  devReset   : Option Nat
  aborted    : Option Nat
  reissued   : Option (Nat × Nat)
  forwarded  : List (Nat × Nat)
  startup    : Bool
  recovering : Bool
  hangSet    : List Flight
  search     : Option Search
deriving DecidableEq, Repr

def Recov.reset : Recov :=
  { cur := none, waiting := [], held := [], total := [], recent := [], marked := [], dumps := [], devReset := none, aborted := none,
    reissued := none, forwarded := [], startup := true, recovering := false, hangSet := [], search := none }

/-! ### Ledger and verdicts (11) -/

/-- A run header (R262): what a run takes from it under R278. `shuf` is the 64 bytes of the shuffle registers as 16 words, `keys` the
stochastic-rounding key of each context, `layers` RUNG × 256 + GEXP of each layer. -/
structure RunHdr where
  step   : Nat
  run    : Nat
  epoch  : Nat
  own    : Nat
  mirror : Nat
  mbLast : Nat
  shuf   : List Nat
  keys   : List Nat
  layers : Tbl Nat
deriving DecidableEq, Repr

def RunHdr.none : RunHdr := { step := 0, run := 0, epoch := 0, own := 0, mirror := 0, mbLast := 0, shuf := [], keys := [], layers := [] }

/-- A boundary record (R265), with the command that wrote it: queue × 2^32 + ring index × 2^16 + record index. -/
structure BoundRec where
  step   : Nat
  kind   : Nat
  origin : Nat
  mb     : Nat
  cmd    : Nat
  crc    : Nat
  bytes  : List Byte
deriving DecidableEq, Repr

/-- An open update window (R283): the record that opened it, its index and side, base and length, the queue and ring index of its
sub-waybill, its address and record count, the pre-image, this side's digests of the attempts so far (none for an attempt that met an
uncorrected error) and the partner's of those that have been judged, whether this attempt met one, whether it waits for its digest or the counterpart is being fetched, and whether the attempt is to
be discarded after a dip of the supply (R412). -/
structure Window where
  rid      : Nat
  win      : Nat
  side     : Nat
  base     : Nat
  len      : Nat
  vqueue   : Nat
  entry    : Nat
  sub      : Nat
  wrecs    : Nat
  pre      : List Byte
  mine     : List (Option Nat)
  theirs   : List Nat
  unc      : Bool
  digested : Bool
  fetching : Bool
  redo     : Bool
deriving DecidableEq, Repr

/-- A committed digest (R282), with the base that the re-read of R285 reads it from. -/
structure WinDig where
  digest : Nat
  len    : Nat
  base   : Nat
deriving DecidableEq, Repr

/-- A partner's window digest (R266): this device's window that it is the counterpart of (side × 65,536 + WIN), run, attempt, digest. -/
structure PeerDig where
  key     : Nat
  run     : Nat
  attempt : Nat
  digest  : Nat
deriving DecidableEq, Repr

/-- The ledger engine's holdings (R262, R263, R282, R287): headers of this device and of its partner, ingest records by step, boundary
records, open windows, the committed-digest table by side × 65,536 + WIN, whether the yoke partner is lost, the windows whose repair has
been asked for (side × 65,536 + WIN, and whether the re-read of R285 found it), the partner's digests, and pieces of a run header that is
arriving (source × 2^32 + OPID, offset, bytes). -/
structure Ledger where
  headers  : List RunHdr
  partner  : List RunHdr
  ingest   : List (Nat × List Byte)
  bounds   : List BoundRec
  windows  : List Window
  digests  : Tbl (Option WinDig)
  yokeLost : Bool
  repairs  : List (Nat × Bool)
  peer     : List PeerDig
  hdrIn    : List (Nat × Nat × List Byte)
deriving DecidableEq, Repr

def Ledger.reset : Ledger :=
  { headers := [], partner := [], ingest := [], bounds := [], windows := [], digests := [], yokeLost := false, repairs := [], peer := [], hdrIn := [] }

/-- A verdict record (R273): FAIL, EARLY, CAUSE, ORIGIN and the summary bits of R154 as a number of 8,192 bits. -/
structure VRec where
  fail   : Bool
  early  : Bool
  cause  : Nat
  origin : Nat
  sum    : Nat
deriving DecidableEq, Repr

/-- A received verdict record that the reduction has not reached yet: its place and its content. -/
structure VIn where
  step  : Nat
  run   : Nat
  stage : Nat
  cut   : Nat
  part  : Nat
  round : Nat
  dir   : Nat
  body  : VRec
deriving DecidableEq, Repr

/-- A verdict reduction in progress (R272): its stage, the LX_VERDICT record, the record so far, the phases still to run as
(cut, part), the round. -/
structure VRed where
  stage  : Nat
  rid    : Nat
  body   : VRec
  phases : List (Nat × Nat)
  round  : Nat
deriving DecidableEq, Repr

/-- The run of the step (R262, R270, R271, R276, R277): the header in force, the causes of failure so far, those kept for the next run
(R285), whether a FAIL record has been sent, whether the stage-1 record was sent and whether its group result passed, the replays that
count against REPLAY_MAX and WREP_MAX, the reduction, records received for it, whether a window has committed, which windows (side × 65,536 + WIN) have, whether a stage-2 failure
has stopped the step; `damaged` lists the addresses of the blocks that UNCORRECTED responses of the run have named, and `spoiled` says
that one of them belongs to host software and has no repair (R279). Of a run that has
failed and whose replay has not been issued, `failure` is the OR of the failure records sent and received, and `own` the causes that arose on
this device (R144, R145). -/
structure RunPart where
  hdr       : RunHdr
  damaged   : List Nat
  spoiled   : Bool
  causes    : Nat
  carried   : Nat
  failSent  : Bool
  formed    : Bool
  passed    : Bool
  replays   : Nat
  wreplays  : Nat
  red       : Option VRed
  inbox     : List VIn
  committed : Bool
  commits   : List Nat
  dead      : Bool
  failure   : Option VRec
  own       : Nat
deriving DecidableEq, Repr

def RunPart.reset : RunPart :=
  { hdr := RunHdr.none, damaged := [], spoiled := false, causes := 0, carried := 0, failSent := false, formed := false, passed := false, replays := 0, wreplays := 0, red := none,
    inbox := [], committed := false, commits := [], dead := false, failure := none, own := 0 }

/-! ### Fabric and host links (09, 16) -/

/-- What one sequenced flit carries (R224, R369); of a packet or a message its index and, once it has begun, its payload. -/
inductive Flit where
  | data (p : Packet) (i : Nat) (bytes : List Byte)
  | abort (step reason run domain origin : Nat)
  | linkErr (code seq buf : Nat)
  | retrainReq
  | key (gen : Nat)
  | hostData (m : HostMsg) (i : Nat) (bytes : List Byte)
deriving DecidableEq, Repr

/-- What waits at a link to be sent: a packet, a host message or a control flit. Its buffer (CRD_BUF coding, 8 for what needs none), the input it
comes from (a port, 7 for this device), the port and buffer that it still takes while it waits to be forwarded, its size in flits, the flits that
are left, and whether the first has gone (R226, R227). -/
structure Item where
  buf   : Nat
  src   : Nat
  back  : Option (Nat × Nat)
  size  : Nat
  flits : List Flit
  begun : Bool
deriving DecidableEq, Repr

/-- The buffer code of control flits. -/
def ctlBuf : Nat := 8

/-- The link layer of a port (0 to 6) or of the host link (7): R225, R226, R233, R235, R221. -/
structure Link where
  rxExp    : Nat
  txNext   : Nat
  unacked  : List (Nat × Flit)
  resends  : Nat
  nakOut   : Bool
  credits  : Tbl Nat
  waiting  : List Item
  txPctr   : Nat
  rxPctr   : Option Nat
  rxGen    : Nat
  newKey   : Bool
  viol     : Nat
  fails    : Nat
  mgmtOnly : Bool
  owed     : Tbl Nat
  quiet    : Bool          -- no packet begins: a retrain is due (R220)
  retrain  : Bool          -- the training in progress is a retrain: what waits is kept (R220)
  retry    : Bool          -- the training in progress follows 16 resends of one SEQ (R225)
  rxFresh  : Bool          -- the partner may begin with any generation (R233)
  told     : Bool          -- a LINKERR or ERR has been sent (R235, R382)
  gap3     : Nat           -- flits sent since the last one of VC3, up to 64 (R227)
  turn     : Nat           -- VC0 or VC1, whose turn it is, and the flits it has sent in it (R227)
  served   : Nat
  rr       : Tbl Nat       -- the input that each VC took a packet from last, 7 this device (R227)
deriving DecidableEq, Repr

def Link.reset : Link :=
  { rxExp := 0, txNext := 0, unacked := [], resends := 0, nakOut := false, credits := [], waiting := [], txPctr := 0, rxPctr := none,
    rxGen := 0, newKey := true, viol := 0, fails := 0, mgmtOnly := false, owed := [], quiet := false, retrain := false, retry := false, rxFresh := true,
    told := false, gap3 := 64, turn := 0, served := 0, rr := [] }

/-- A key slot of the security engine (R401): purpose, owner context, the key, and the change that waits. -/
structure Slot where
  purpose : Nat
  owner   : Nat
  key     : List Byte
deriving DecidableEq, Repr

/-- Why a DMA request is outstanding (R375, R376): a ring entry or a record of a queue, a piece of a copy, a completion or log record. -/
inductive ReqKind where
  | ring (queue : Nat)
  | copyIn (rid daddr : Nat)
  | copyOut (rid : Nat)
  | compl (ctx : Nat)
deriving DecidableEq, Repr

structure HostReq where
  tag  : Nat
  kind : ReqKind
  ctx  : Nat
  addr : Nat
  len  : Nat
deriving DecidableEq, Repr

/-- A copy in progress (R376): its record, the offset of the next request, whether an uncorrectable block has been met. -/
structure Copy where
  rid  : Nat
  next : Nat
  unc  : Bool
deriving DecidableEq, Repr

/-- The host transport: DMA requests outstanding, the next TAG, the last MCTR accepted from the host and the next one of each context
(R377), copies in progress. -/
structure HostPart where
  reqs    : List HostReq
  nextTag : Nat
  rxCtr   : Tbl (Option Nat)
  txCtr   : Tbl Nat
  copies  : List Copy
deriving DecidableEq, Repr

/-! ### The numeric watch (06) -/

/-- What a run has counted for a layer (R38, R150). -/
structure Cnt where
  gconv  : Nat
  gflush : Nat
  flush  : Nat
  nan    : Nat
  inf    : Nat
  ovf    : Nat
deriving DecidableEq, Repr

def Cnt.zero : Cnt := ⟨0, 0, 0, 0, 0, 0⟩

/-- The exact sum of the finite partials of one field of R151, and whether a partial was a NaN or an infinity. -/
structure SqSum where
  sum : Dy
  nan : Bool
  inf : Bool
deriving DecidableEq, Repr

def SqSum.zero : SqSum := ⟨Dy.zero, false, false⟩

/-- The numeric watch: the table of R148 and R149, the counts of the run in progress and those of unstepped contexts, the layers with OVF_G
in some run of the step, the update sums of the layers that ran an optimizer command, the layers marked to widen, the events logged in this
run (layer × 256 + event), whether the replay limit was logged, the pending commit, and the reduced summary bits that the boundary will use. -/
structure Watch where
  table   : Tbl RecWord
  counts  : Tbl Cnt
  loose   : Tbl Cnt
  ovfG    : List Nat
  sums    : Tbl (Option (SqSum × SqSum))
  marks   : List Nat
  logged  : List Nat
  limited : Bool
  commit  : Option (Nat × RecWord)
  summary : Option Nat
deriving DecidableEq, Repr

def Watch.reset : Watch :=
  { table := [], counts := [], loose := [], ovfG := [], sums := [], marks := [], logged := [], limited := false, commit := none, summary := none }

/-! ### Spare units (12) -/

/-- A physical unit of R296: kind 0 matrix core, 1 lane group, 2 decode core; die 0 to 3 or 0xF. -/
structure UnitId where
  kind  : Nat
  die   : Nat
  index : Nat
deriving DecidableEq, Repr

/-- The carriage controllers' and the recovery core's part in R292 to R301: the requests held for each carriage (ACTION, UNIT, INDEX), the
spares that passed their latest test, the units that claim the spare role by R299 and for good, the conditional units standing aside with the
logical name they gave up, boundaries spent outside a unit's condition, the units that met a counting event in this run and in this step, the origins of this run's and the last
run's failure and the conditional units that met an event inside their condition (R299), corrected SECDED errors of each unit in the step, and for each logical core (8n + i) its busy time, commands and load signatures of the step
and its consecutive slow steps; `due` says that the boundary's remounts wait for a sequence of R336 to end. -/
structure Spares where
  requests : Tbl (Option (Nat × Nat × Nat))
  tested   : List UnitId
  aside    : List UnitId
  retire   : List UnitId
  standin  : List (UnitId × Nat)
  calm     : Tbl Nat
  now      : List UnitId
  hit      : List UnitId
  origin   : List UnitId
  before   : List UnitId
  inside   : List UnitId
  ce       : List (UnitId × Nat)
  busy     : Tbl Nat
  ran      : Tbl Nat
  shown    : Tbl Nat
  slow     : Tbl Nat
  due      : Bool
deriving DecidableEq, Repr

def Spares.reset : Spares :=
  { requests := [], tested := [], aside := [], retire := [], standin := [], calm := [], now := [], hit := [], origin := [], before := [], inside := [], ce := [], busy := [], ran := [],
    shown := [], slow := [], due := false }

/-! ### The collective engine (10) -/

/-- A packet that waits for its end-to-end answer (R254): its operation and number, what is answered with it (a ring step, else 0), its
resends for CHECK_FAIL, whether an answer has asked for a resend, and the packet. -/
structure Pend where
  opid   : Nat
  pseq   : Nat
  group  : Nat
  checks : Nat
  again  : Bool
  pkt    : Packet
deriving DecidableEq, Repr

/-- Data of a ring step that has arrived for a phase: part B or A, gather, down ring, ring step, byte offset, bytes (R253). -/
structure RingIn where
  part   : Nat
  gather : Bool
  down   : Bool
  rstep  : Nat
  off    : Nat
  data   : List Byte
deriving DecidableEq, Repr

/-- A collective record in flight (R245, R248): its record, the key's STEP, its digest, the values of the buffer (F32 encodings during a
reduction, encodings of the format afterwards), the phases still to run as (part, gather), ring steps sent in the phase on the up and the
down ring, the rings of each part whose downstream neighbour is ready (part × 2 + ring), data received, data already used, next PSEQ. -/
structure RingOp where
  rid    : Nat
  word   : RecWord
  ctx    : Nat
  step   : Nat
  digest : Nat
  vals   : List Nat
  phases : List (Nat × Bool)
  sentUp : Nat
  sentDn : Nat
  ready  : List Nat
  inbox  : List RingIn
  used   : List (Nat × Bool × Bool × Nat × Nat × Nat)
  pseq   : Nat
deriving DecidableEq, Repr

/-- A CX_READY that has arrived: sender's physical coordinate and what it says (R252). -/
structure Ready where
  src    : Nat
  step   : Nat
  run    : Nat
  cut    : Nat
  collId : Nat
  part   : Nat
  down   : Bool
  digest : Nat
deriving DecidableEq, Repr

/-- The collective engine: collectives in flight, packets that wait for an answer, CX_READYs received, CX_SIGNAL records that wait for
earlier writes (R102), the signals accepted from each source, newest first (source, OPID, PSEQ; R254), whether a RELOAD is held (R231), and the records whose work has begun, each with whether
a read of it met an uncorrectable block. -/
structure Cx where
  ops     : List RingOp
  pend    : List Pend
  readies : List Ready
  sigWait : List Nat
  signals : List (Nat × Nat × Nat)
  reload  : Bool
  begun   : List (Nat × Bool)
deriving DecidableEq, Repr

def Cx.reset : Cx := { ops := [], pend := [], readies := [], sigWait := [], signals := [], reload := false, begun := [] }

/-! ### Membership (12) -/

/-- A body that waits for its quorum (R308), with the requests of the managers that have voted for it, by signer. -/
structure Vote where
  body   : List Byte
  voters : List (Nat × GMsg)
deriving DecidableEq, Repr

/-- A join (R302 to R305): physical coordinates of target, partner and joiner, the logical coordinate and the epoch of the takeover, whether
the load has begun, the windows (side × 65,536 + WIN) of it still to be sent and those on their way, the joiner's digests of windows that the target has not
committed yet in the step, and for the joiner the range of the window that arrives (first byte and next one), whether the load is a
shadow join's, whether the step has been clean so far, and step N of an armed TAKEOVER. -/
structure Join where
  pt       : Nat
  pp       : Nat
  pj       : Nat
  lcoord   : Nat
  lepoch   : Nat
  begun    : Bool
  unsent   : List Nat
  sending  : List Nat
  early    : List (Nat × Nat)
  got      : Option (Nat × Nat)
  shadow   : Bool
  clean    : Bool
  takeover : Option Nat
deriving DecidableEq, Repr

def Join.none : Join :=
  { pt := 0, pp := 0, pj := 0, lcoord := 0, lepoch := 0, begun := false, unsent := [], sending := [], early := [], got := .none, shadow := false, clean := true, takeover := .none }

/-- The recovery core's membership state (R306 to R310): the last 16 answers (SEQ, SHA-256 of the body, response), newest first, bodies that
wait for votes, expelled coordinates and the packets dropped from them, STANDBY requested and in force, the join, and whether a
command of the recovery epoch has begun recovery mode (R338). -/
structure Rcv where
  answers  : List (Nat × List Byte × Nat)
  votes    : List Vote
  expelled : List Nat
  dropped  : Nat
  standby  : Bool
  stopped  : Bool
  join     : Join
  opened   : Bool
deriving DecidableEq, Repr

def Rcv.reset : Rcv := { answers := [], votes := [], expelled := [], dropped := 0, standby := false, stopped := false, join := Join.none, opened := false }

/-! ### Checkpoints and pre-emption (13) -/

/-- A write that waits at the memory controller for an uncopied page (R315): its record (none for a write that no record makes), address
and bytes, and the packet that brought it, which is answered once the write is performed. -/
structure Stall where
  rid  : Option Nat
  addr : Nat
  data : List Byte
  pkt  : Option Packet
deriving DecidableEq, Repr

/-- A page that the copy has read ahead of a write of the device's own (R315): its number, its bytes, and the response that its read draws. -/
structure Taken where
  page : Nat
  data : List Byte
  resp : Nat
deriving DecidableEq, Repr

/-- The reduced fields of R322, slot A and slot B. -/
structure CkSlot where
  stepMin : Nat
  stepMax : Nat
  gdMin   : Nat
  gdMax   : Nat
  hx      : Nat
  bad     : Bool
deriving DecidableEq, Repr

def CkSlot.zero : CkSlot := ⟨0, 0, 0, 0, 0, false⟩

/-- A checkpoint reduction in progress or a record received for one: GEN, KIND, its slots and its place. -/
structure CkRed where
  gen    : Nat
  kind   : Nat
  a      : CkSlot
  b      : CkSlot
  phases : List (Nat × Nat)
  round  : Nat
deriving DecidableEq, Repr

structure CkIn where
  gen   : Nat
  kind  : Nat
  a     : CkSlot
  b     : CkSlot
  cut   : Nat
  part  : Nat
  round : Nat
  down  : Bool
deriving DecidableEq, Repr

/-- The checkpoint part of the ledger engine: the LX_CKPT records held for a boundary (rid), the record in service, pages not yet copied (in MiB,
ascending), those of them whose bytes the copy holds already, writes stalled on the others, the manifest's content at the snapshot, page digests so far, the shard's length so far in bytes, units
sent, bytes of every parity row received (row × 32 + member), rebuilding members whose fetch waits for the last page, end markers (GEN, member, units), whether this member has failed and whether its
reduction record has been sent, the reduction, records received for it, the group digest once it is held, the slots of an LX_RESTORE, the
STATE that it goes back to, and the epoch and cuts under which the last sealed step ran. -/
structure Ckpt where
  held     : List Nat
  rid      : Option Nat
  uncopied : List Nat
  taken    : List Taken
  stalled  : List Stall
  manifest : List Byte
  digests  : List (Nat × Nat)
  len      : Nat
  sent     : Nat
  rows     : Tbl Nat
  asked    : List Nat
  ends     : List (Nat × Nat × Nat)
  bad      : Bool
  formed   : Bool
  red      : Option CkRed
  inbox    : List CkIn
  group    : Option Nat
  slots    : Nat × Bool
  back     : Nat
  ran      : List Nat
deriving DecidableEq, Repr

def Ckpt.reset : Ckpt :=
  { held := [], rid := none, uncopied := [], taken := [], stalled := [], manifest := [], digests := [], len := 0, sent := 0, rows := [], asked := [], ends := [], bad := false,
    formed := false, red := none, inbox := [], group := none, slots := (0, false), back := 0, ran := [] }

/-- Pre-emption (R325 to R328): the held S. -/
structure Preempt where
  held : Option Nat
deriving DecidableEq, Repr

/-! ### Tests and calibrations (18), measurements (17) -/

/-- A self-test or calibration (R425, R429): 0 unit self-test, 1 pseudo-channel retraining, 2 port retraining, 3 full self-test, 4 periodic
calibration, 5 the return to the preferred reference; what it concerns, and whether it may interrupt a step. -/
structure TestItem where
  kind      : Nat
  target    : Nat
  immediate : Bool
deriving DecidableEq, Repr

/-- The items held for a boundary, in their order, the item that runs, and whether CAL_BUDGET_MS of the boundary is spent (R425). -/
structure TestPart where
  held    : List TestItem
  running : Option TestItem
  spent   : Bool
deriving DecidableEq, Repr

/-- An entry of R404: queue, ring index, STEP [31:0], SHA-256 of the records. -/
structure Meas where
  queue : Nat
  entry : Nat
  step  : Nat
  sha   : List Byte
deriving DecidableEq, Repr

/-- The measurement registers MR0 to MR7 (R403) and the waybills measured in the step (R404). -/
structure Measure where
  mr      : Tbl (List Byte)
  entries : List Meas
deriving DecidableEq, Repr

/-- A measurement register after a device reset (R403). -/
def mrReset (_ : Nat) : List Byte := List.replicate 32 0

/-! ### Power, clocks and start-up (18) -/

/-- What the comparators and the start-up sequence hold (R410 to R421): the input is below SUSPECT, the transient limiter throttles, how far
start-up has come (0 waiting for firmware, 1 firmware verified, 2 control cores released, 3 held under R345, 4 no bank verifies),
SYS_RESET_N is low, why the device stays in reset (0 it does not, 1 supply, 2 temperature, 3 clocks), whether FAULT_N is asserted, and the
carriages whose stacks are initialised, DEV_LIMIT as it was before the device reset (R345). -/
structure Power where
  suspect : Bool
  spike   : Bool
  stage   : Nat
  low     : Bool
  off     : Nat
  fault   : Bool
  init    : List Nat
  limit   : Nat
deriving DecidableEq, Repr

def Power.reset : Power := { suspect := false, spike := false, stage := 0, low := false, off := 0, fault := false, init := [], limit := 3 }

/-! ### Management and security (17) -/

/-- The open job (R399): JOB_ID, the secret JS, the registered managers' keys, the path of its JOB_OPEN. -/
structure Job where
  id       : List Byte
  js       : List Byte
  managers : List (List Byte)
  path     : Nat
  src      : Nat
deriving DecidableEq, Repr

/-- A change of a key slot that waits for the records that use it (R401): what the slot will hold, and the request that is answered then, with
its code. -/
structure Change where
  slot : Nat
  put  : Option Slot
  code : Nat
  msg  : GMsg
deriving DecidableEq, Repr

/-- A message that FORWARD has sent on (R391): its coordinate and REQ_ID, and the FORWARD request itself. -/
structure Fwd where
  dst   : Nat
  reqId : Nat
  msg   : GMsg
deriving DecidableEq, Repr

/-- Module flash and fuses (R385, R394, R396): the bytes of both banks (bank × 2^25 + offset), the running bank and its bundle's SVN, the pending
one, whether the other one is marked bad, the bank last started and its bundle's SVN, the fuse count, consecutive starts of the pending bank
without a seal, whether the running bank has reached the seal, and the summary dumps, newest first. -/
structure Flash where
  bytes   : Mem
  run     : Nat
  runSvn  : Nat
  pend    : Option Nat
  bad     : Bool
  started : Nat
  svn     : Nat
  fuses   : Nat
  starts  : Nat
  reached : Bool
  dumps   : List (List Byte)
deriving DecidableEq, Repr

def Flash.initial : Flash :=
  { bytes := [], run := 0, runSvn := 0, pend := none, bad := false, started := 0, svn := 0, fuses := 0, starts := 0, reached := false, dumps := [] }

/-- The Ostler and the security engine: the open job, the number of the ML-KEM key pair while it is held and how many pairs there have been,
the SEQ last accepted and the next one sent (R393), the live debug challenge and how many there have been, slot changes that wait, the mailbox's
request so far and what is left of its response, the firmware session's path, flash, the requests forwarded and not yet answered, the scope of a debug unlock, and the JTAG instruction in force. -/
structure Mgmt where
  job      : Option Job
  kem      : Option Nat
  pairs    : Nat
  rxSeq    : Nat
  txSeq    : Nat
  chal     : Option Nat
  chals    : Nat
  changes  : List Change
  queue    : List (Nat × GMsg)
  lastPath : Nat
  request  : List Byte
  response : List Byte
  session  : Option Nat
  flash    : Flash
  forwards : List Fwd
  unlocked : Option Nat
  jtag     : Nat
deriving DecidableEq, Repr

def Mgmt.reset : Mgmt :=
  { job := none, kem := some 0, pairs := 1, rxSeq := 0, txSeq := 1, chal := none, chals := 0, changes := [], queue := [], lastPath := 3, request := [], response := [],
    session := none, flash := Flash.initial, forwards := [], unlocked := none, jtag := 0 }

/-! ### Interrupts (15) -/

/-- A coalescing group (R356, R366): its two configuration words, events counted, timer running, ready. -/
structure Group where
  cfg0   : Word
  cfg1   : Word
  count  : Nat
  timing : Bool
  ready  : Bool
deriving DecidableEq, Repr

def Group.reset : Group := { cfg0 := 0x00010001, cfg1 := 0, count := 0, timing := false, ready := false }

/-- A target's nesting stack, bottom entry first (R359, R362). -/
structure Target where
  stack    : List Nat
  frozen   : Bool
  faults   : Nat
  faultVec : Nat
deriving DecidableEq, Repr

def Target.reset : Target := { stack := [], frozen := false, faults := 0, faultVec := 0 }

structure Icu where
  src     : Tbl Word
  groups  : Tbl Group
  targets : Tbl Target
deriving DecidableEq, Repr

/-! ### The Ostler's records (12, 17) -/

/-- A record of the Ostler log (R387): class, the step it names, detail; TIME_MS and the event's number are the firmware's. -/
structure LogRec where
  cls    : Nat
  step   : Nat
  detail : Nat
deriving DecidableEq, Repr

/-- A record of the unit history (R296), with its key first. -/
structure HistRec where
  kind      : Nat
  die       : Nat
  index     : Nat
  event     : Nat
  band      : Nat
  load      : Nat
  cls       : Nat
  detail    : Nat
  count     : Nat
  firstStep : Nat
  lastStep  : Nat
deriving DecidableEq, Repr

/-! ### What the block sends -/

/-- A message, flit, record or notice that the block has sent. -/
inductive OutMsg where
  /-- What a register read returned. -/
  | regValue (off : Nat) (v : Word)
  /-- A host transport message, with its body as it travels (R371, R377). -/
  | host (m : HostMsg) (wire : List Byte)
  /-- A sequenced flit on a port or on the host link, with its 256 bytes (R223, R224). -/
  | flit (port seq : Nat) (f : Flit) (wire : List Byte)
  /-- An IDLE flit that carries NAK or ACK (R225). -/
  | idle (port : Nat) (nak : Bool) (ack : Nat) (wire : List Byte)
  /-- What this end reports in a training's parameter exchange (R219, R230). -/
  | params (port : Nat) (p : Params)
  /-- A handler entry on a control core: target, vector (R358). -/
  | coreEntry (target vector : Nat)
  /-- Entry to a control core's fault handler (R362). -/
  | coreFault (target : Nat)
  /-- A Grielle message on I3C (0) or 1000BASE-KX (1), from its type byte on (R389). -/
  | grielle (path : Nat) (bytes : List Byte)
  /-- A notice that the Ostler sends the job manager: the path and, on the fabric, the coordinate of the last JOB_OPEN; its kind and bytes (R391). -/
  | notice (path dst kind : Nat) (bytes : List Byte)
  /-- What a JTAG instruction puts into the test data register (R406, R441). -/
  | jtag (v : Nat)
  /-- A packet of this device for its own coordinate (R229). -/
  | loopback (p : Packet)
  /-- An IDLE flit that returns 16 credits for a receive buffer of a port (R226). -/
  | credit (port buf : Nat) (wire : List Byte)
deriving DecidableEq, Repr

/-! ### The state -/

/-- The offset of a register's namesake in C0, on port 1's page or on the first stack's page (R444), by which RegTable names it. -/
def baseReg (k : Nat) : Nat :=
  let w := k / 65536
  let n := if 0x100 ≤ w ∧ w < 0x140 then (w - 0x100) / 16 else 0
  let k0 := k - 0x100000 * n
  let page := k0 / 4096 % 16
  if k0 / 65536 = 7 ∧ page ≥ 1 then k0 - 4096 * (page - 1) else if k0 / 65536 = 0x104 ∧ page = 2 then k0 - 4096 else k0

/-- The row of the index that a canonical register offset belongs to: its window's rows, carriage windows by their C0 window (R444). -/
def rowOf (k : Nat) : Option RegRow :=
  let b := baseReg k
  (rowsOfWindow (b / 65536)).find? fun r => r.key ≤ b && b < r.key + r.count * r.stride && (b - r.key) % r.stride = 0

/-- The reset value of a register (R447, R451): EN = 1 in BLK_CTL, 0 in the rest of a header, the row's value otherwise. -/
def regReset (k : Nat) : Word :=
  if k % 4096 < 0x40 then (if k % 65536 = R.BLK_CTL then 0x80000000 else 0)
  else match rowOf k with
    | some r => BitVec.ofNat 32 r.reset
    | none => 0

/-- The captures and the pending low words of register pairs, by the offset of the low register as it is accessed (R8). -/
structure Pairs where
  caps : Tbl (Option Word)
  lows : Tbl (Option Word)
deriving DecidableEq, Repr

/-- The whole block. `mem` holds stacked memory and the depot scratchpad at their device physical addresses and the carriage-local memory of
carriage n from 2^48 × (n + 1). `lanes` counts the corrected symbols of each physical
lane (port × 32 + lane), `slots` are the security engine's key slots,
`fabKey` the job fabric key (R399), `map` the cached coordinate map, none while it is the identity map (R231). `out` is what the block has sent, newest first; `free` is the model's own counter of free values;
`pending` is the queue of commands that wait. -/
structure State where
  regs    : Tbl Word
  pairs   : Pairs
  mem     : Mem
  mpart   : MemPart
  que     : Que
  syn     : Syn
  pos     : StepPos
  ledger  : Ledger
  run     : RunPart
  links   : Tbl Link
  lanes   : Tbl Nat
  host    : HostPart
  slots   : Tbl (Option Slot)
  fabKey  : Option (List Byte)
  map     : Option (Tbl Word)
  icu     : Icu
  watch   : Watch
  cx      : Cx
  ckpt    : Ckpt
  pre     : Preempt
  spares  : Spares
  recov   : Recov
  rcv     : Rcv
  test    : TestPart
  measure : Measure
  power   : Power
  mgmt    : Mgmt
  log     : List LogRec
  history : List HistRec
  out     : List OutMsg
  free    : Nat
  pending : List Instr
deriving DecidableEq, Repr

/-- The state right after a device reset. -/
def State.reset : State :=
  { regs := [], pairs := { caps := [], lows := [] }, mem := [], mpart := MemPart.reset,
    que := { queues := [], swept := [], ctxs := [], rr := [], flights := [], nextRid := 0 },
    syn := { ctr := [], bound := [], held := [] },
    pos := { lastSealed := none, issued := false, run := 0, firstSet := false, cfg := 0x8000000F, enforce := true, watchCfg := 0xE4040300 },
    ledger := Ledger.reset,
    run := RunPart.reset, links := [], lanes := [],
    host := { reqs := [], nextTag := 0, rxCtr := [], txCtr := [], copies := [] }, slots := [], fabKey := none, map := none,
    icu := { src := [], groups := [], targets := [] }, watch := Watch.reset, cx := Cx.reset, ckpt := Ckpt.reset,
    pre := { held := none }, spares := Spares.reset, recov := Recov.reset, rcv := Rcv.reset, test := { held := [], running := none, spent := false },
    measure := { mr := [], entries := [] }, power := Power.reset, mgmt := Mgmt.reset, log := [], history := [],
    out := [], free := 0, pending := [] }

end Sys2Proof.Machine
end

