-- ==== Sys2Proof/Machine/Ops.lean ====
section
/-! DEFINITION. The named operations over the state: registers and their fields, memory bytes, queues, contexts, counters, links, messages
sent, free values, the CRCs. -/
namespace Sys2Proof.Machine

/-! ### Bits and bytes -/

/-- Bits hi down to lo of a number. -/
def bits (n hi lo : Nat) : Nat := n / 2 ^ lo % 2 ^ (hi + 1 - lo)

/-- One bit of a number. -/
def bit (n i : Nat) : Bool := n / 2 ^ i % 2 = 1

/-- n with its bits hi to lo replaced. -/
def setBits (n hi lo v : Nat) : Nat :=
  n - bits n hi lo * 2 ^ lo + (v % 2 ^ (hi + 1 - lo)) * 2 ^ lo

def b2n (b : Bool) : Nat := if b then 1 else 0

/-- The n low bytes of a number, least significant first (R6). -/
def leBytes : Nat → Nat → List Byte
  | 0, _ => []
  | n + 1, v => BitVec.ofNat 8 v :: leBytes n (v / 256)

/-- The number that a byte string holds, least significant byte first (R6). -/
def leNat : List Byte → Nat
  | [] => 0
  | b :: bs => b.toNat + 256 * leNat bs

/-- A byte string cut or zero-padded to n bytes. -/
def padTo (n : Nat) (bs : List Byte) : List Byte :=
  bs.take n ++ List.replicate (n - bs.length) 0

/-- The bytes of an ASCII string. -/
def ascii (t : String) : List Byte := t.toList.map fun c => BitVec.ofNat 8 c.toNat

/-- An n-bit two's-complement number as an integer. -/
def toSigned (n v : Nat) : Int := if v % 2 ^ n ≥ 2 ^ (n - 1) then (v % 2 ^ n : Int) - 2 ^ n else (v % 2 ^ n : Int)

/-- The n-bit two's-complement encoding of an integer. -/
def ofSigned (n : Nat) (i : Int) : Nat := (i % (2 ^ n : Int)).toNat

def ceilDiv (a b : Nat) : Nat := (a + b - 1) / b

/-! ### CRCs -/

/-- One bit step of a reflected CRC. -/
def crcBit (poly c : Nat) : Nat := if c % 2 = 1 then (c / 2) ^^^ poly else c / 2

def crcByte (poly c : Nat) (b : Byte) : Nat :=
  (List.range 8).foldl (fun c _ => crcBit poly c) (c ^^^ b.toNat)

/-- CRC-32C of RFC 3720 (R223, R253). -/
def crc32c (bs : List Byte) : Nat :=
  bs.foldl (crcByte 0x82F63B78) 0xFFFFFFFF ^^^ 0xFFFFFFFF

/-! ### Registers -/

/-- The 32-bit register at a canonical offset. -/
def State.rd (s : State) (k : Nat) : Nat := (tget regReset s.regs k).toNat

/-- Sets the register at a canonical offset. -/
def State.wr (s : State) (k v : Nat) : State := { s with regs := tset regReset s.regs k (BitVec.ofNat 32 v) }

/-- A field of a register. -/
def State.fget (s : State) (f : Fld) : Nat := bits (s.rd f.reg) f.hi f.lo

/-- Sets a field of a register. -/
def State.fset (s : State) (f : Fld) (v : Nat) : State := s.wr f.reg (setBits (s.rd f.reg) f.hi f.lo v)

/-- A one-bit field is 1. -/
def State.flag (s : State) (f : Fld) : Bool := s.fget f = 1

/-- A 64-bit pair, low word first (R8). -/
def State.rd64 (s : State) (k : Nat) : Nat := s.rd k + s.rd (k + 4) * 2 ^ 32

def State.wr64 (s : State) (k v : Nat) : State := (s.wr k (v % 2 ^ 32)).wr (k + 4) (v / 2 ^ 32)

/-- The field of HUB_CCORE_STS of a control core, 0 to 6, or of the Ostler, 7 (R16). -/
def coreField (i : Nat) : Fld := { F.HUB_CCORE_STS_CC0 with hi := 2 * i + 1, lo := 2 * i }

/-- Adds to a field that saturates. -/
def State.fadd (s : State) (f : Fld) (n : Nat := 1) : State := s.fset f (min (s.fget f + n) (2 ^ (f.hi + 1 - f.lo) - 1))

/-- Adds to a 32-bit counter register that saturates. -/
def State.count (s : State) (k : Nat) (n : Nat := 1) : State := s.wr k (min (s.rd k + n) 0xFFFFFFFF)

/-- Resets every register of a predicate. -/
def State.clearRegs (s : State) (p : Nat → Bool) : State := { s with regs := tclear s.regs p }

/-! ### Memory -/

def memDefault (_ : Nat) : Byte := 0

/-- The canonical form of a memory. -/
def Memory.wf (m : Mem) : Bool := twf memDefault m

/-- One byte of the memory. -/
def State.byte (s : State) (a : Nat) : Byte := tget memDefault s.mem a

/-- Stores one byte. -/
def State.setByte (s : State) (a : Nat) (b : Byte) : State := { s with mem := tset memDefault s.mem a b }

/-- n bytes from an address. -/
def State.bytes (s : State) (a n : Nat) : List Byte := (List.range n).map fun i => s.byte (a + i)

/-- Stores a byte string from an address, in rising order. -/
def State.setBytes (s : State) (a : Nat) : List Byte → State
  | [] => s
  | b :: bs => (s.setByte a b).setBytes (a + 1) bs

/-- The little-endian number of n bytes at an address. -/
def State.num (s : State) (a n : Nat) : Nat := leNat (s.bytes a n)

/-- Stores an n-byte little-endian number. -/
def State.setNum (s : State) (a n v : Nat) : State := s.setBytes a (leBytes n v)

/-- Where byte a of carriage n's carriage-local space lies in the memory table (R55). -/
def localAt (n a : Nat) : Nat := 2 ^ 48 * (n + 1) + a

/-! ### Queues, contexts, counters, links -/

def State.getQ (s : State) (q : Nat) : Queue := tget (Queue.unlisted s.que.swept) s.que.queues q

def State.setQ (s : State) (q : Nat) (v : Queue) : State :=
  { s with que := { s.que with queues := tset (Queue.unlisted s.que.swept) s.que.queues q v } }

def State.getC (s : State) (n : Nat) : Ctx := tget Ctx.reset s.que.ctxs n

def State.setC (s : State) (n : Nat) (v : Ctx) : State :=
  { s with que := { s.que with ctxs := tset Ctx.reset s.que.ctxs n v } }

def zero64 (_ : Nat) : DWord := 0

def State.getCtr (s : State) (c : Nat) : Nat := (tget zero64 s.syn.ctr c).toNat

def State.putCtr (s : State) (c v : Nat) : State :=
  { s with syn := { s.syn with ctr := tset zero64 s.syn.ctr c (BitVec.ofNat 64 v) } }

def State.getBound (s : State) (c : Nat) : Nat := (tget zero64 s.syn.bound c).toNat

def State.getLink (s : State) (p : Nat) : Link := tget (fun _ => Link.reset) s.links p

def State.setLink (s : State) (p : Nat) (v : Link) : State := { s with links := tset (fun _ => Link.reset) s.links p v }

/-- The context that owns a counter (R87). -/
def ctrOwner (c : Nat) : Nat := c / 256

/-- The engine of a queue (R18). -/
def queueEngine (q : Nat) : Nat := q / 1024 % 16

/-- Every queue that is not in its reset state. -/
def State.queueNumbers (s : State) : List Nat := s.que.queues.map (·.1)

/-- The record in flight of a number. -/
def State.flight? (s : State) (rid : Nat) : Option Flight := s.que.flights.find? (·.rid = rid)

/-- Replaces the record in flight of the same number. -/
def State.setFlight (s : State) (f : Flight) : State :=
  { s with que := { s.que with flights := s.que.flights.map fun g => if g.rid = f.rid then f else g } }

def State.dropFlight (s : State) (rid : Nat) : State :=
  { s with que := { s.que with flights := s.que.flights.filter (·.rid ≠ rid) } }

/-- Ends the work of a record in flight with a response and detail; RECORD_RETIRE then retires it. -/
def State.finish (s : State) (rid resp detail : Nat) : State :=
  match s.flight? rid with
  | some f => s.setFlight { f with resp := some (resp, detail) }
  | none => s

/-! ### Messages sent, free values -/

def State.emit (s : State) (m : OutMsg) : State := { s with out := m :: s.out }

/-- A value the spec leaves open, and the state that will not use it again. -/
def State.fresh (s : State) : Nat × State := (Config.freeValue s.free, { s with free := s.free + 1 })

/-- The Ostler has stopped on a fault (R16, R17). -/
def State.ostlerStopped (s : State) : Bool := s.fget F.HUB_CCORE_STS_OSTLER = 3

/-- The Ostler runs: it has booted, and has not stopped on a fault. -/
def State.ostlerUp (s : State) : Bool := s.power.stage ≠ 0 && !s.ostlerStopped

/-! ### Messages (R389, R390) -/

/-- The 16-byte Grielle header. -/
def gHeader (len seq reqId status : Nat) (sealed resp : Bool) (code : Nat) : List Byte :=
  leBytes 16 (len % 2 ^ 32 * 2 ^ 96 + seq % 2 ^ 32 * 2 ^ 64 + reqId % 2 ^ 16 * 2 ^ 48 + status % 256 * 2 ^ 40 + b2n sealed * 2 ^ 33 + b2n resp * 2 ^ 32 +
    code % 256 * 2 ^ 8 + 1)

/-- The type byte and the enterprise number, in network order (R389). -/
def gPrefix : List Byte := [0x7F, 0x00, 0x01, 0x2C, 0x1E]

/-- A job key (R400). -/
def Job.derive (j : Job) (info : List Byte) : List Byte := Config.hkdf j.js j.id info

def serialBytes : List Byte := leBytes 8 Config.serial.toNat

/-- The management key MK (R400). -/
def Job.mgmtKey (j : Job) : List Byte := j.derive (ascii "grielle-mk" ++ serialBytes)

/-- A message from this device; a sealed one is encrypted under MK with its SEQ (R393). -/
def State.gMessage (s : State) (reqId status : Nat) (resp : Bool) (code : Nat) (sealed : Bool) (body : List Byte) : List Byte :=
  match s.mgmt.job with
  | some j =>
    if sealed then
      let seq := s.mgmt.txSeq
      let head := gHeader (body.length + 16) seq reqId status true resp code
      gPrefix ++ head ++ Config.gcmSeal j.mgmtKey (BitVec.ofNat 96 (2 * 2 ^ 88 + seq % 2 ^ 32)) head body
    else gPrefix ++ gHeader body.length 0 reqId status false resp code ++ body
  | none => gPrefix ++ gHeader body.length 0 reqId status false resp code ++ body

/-- A notice of the Ostler, while it runs, to the job manager (R391): sealed while a job is open, which takes a SEQ (R393). The spec does not state what
`detail` holds: it is a free value. -/
def State.notify (s : State) (kind step : Nat) : State :=
  if !s.ostlerUp then s
  else
    let (v, s) := s.fresh
    let body := leBytes 2 kind ++ leBytes 6 0 ++ leBytes 8 step ++ leBytes 16 v
    let (path, dst) := match s.mgmt.job with | some j => (j.path, j.src) | none => (0, 0)
    let s := s.emit (.notice path dst kind (s.gMessage 0 0 true 0x11 true body))
    if s.mgmt.job.isSome then { s with mgmt := { s.mgmt with txSeq := s.mgmt.txSeq + 1 } } else s

def State.logRec (s : State) (cls step detail : Nat) : State := { s with log := ⟨cls, step, detail⟩ :: s.log }

/-- The 64-bit step number of R23: the step in progress, or the step just sealed. -/
def State.stepNum (s : State) : Nat := s.rd64 R.HUB_STEP_NUM

/-- The device stands at a step boundary (R21, R23). -/
def State.atBoundary (s : State) : Bool := s.flag F.HUB_STEP_STS_BOUNDARY

/-- Folds an operation over a list of numbers. -/
def State.forAll (s : State) (l : List Nat) (f : Nat → State → State) : State := l.foldl (fun s x => f x s) s

end Sys2Proof.Machine
end

