-- ==== Sys2Proof/Machine/Flags.lean ====
section
/-! DEFINITION. Event bits, interrupt sources and the counting of their events (15_interrupts, R449), access-error captures (R447) and the
reset domain of a register (R335, R444). -/
namespace Sys2Proof.Machine

/-! ### Interrupt sources (R353) -/

/-- The sources whose kind is level. -/
def srcIsLevel (n : Nat) : Bool :=
  n = 0x083 || n = 0x084 || n = 0x085 || n = 0x087 || (0x0A8 ≤ n && n ≤ 0x0AF) || (0x400 ≤ n && n < 0x800)

/-- The sources that R353 names; block events only of windows with a common header of their own (R444). -/
def srcNamed (n : Nat) : Bool :=
  n < 0x08D || (0x090 ≤ n && n < 0x0A4) || (0x0A8 ≤ n && n ≤ 0x0AF) ||
    (0x400 ≤ n && n ≤ 0x40E) || (0x500 ≤ n && n < 0x540 && n % 16 ≤ 4)

def State.getGrp (s : State) (g : Nat) : Group := tget (fun _ => Group.reset) s.icu.groups g

def State.setGrp (s : State) (g : Nat) (v : Group) : State :=
  { s with icu := { s.icu with groups := tset (fun _ => Group.reset) s.icu.groups g v } }

def State.getTarget (s : State) (t : Nat) : Target := tget (fun _ => Target.reset) s.icu.targets t

def State.setTarget (s : State) (t : Nat) (v : Target) : State :=
  { s with icu := { s.icu with targets := tset (fun _ => Target.reset) s.icu.targets t v } }

/-- ICU_SRC_CFG of a source, without KIND. -/
def State.srcCfg (s : State) (n : Nat) : Nat := (tget (fun _ => (0 : Word)) s.icu.src n).toNat

/-- The group a source is routed to in a plane (0 H, 1 F), if it is routed (R367). -/
def State.srcGroup (s : State) (plane n : Nat) : Option Nat :=
  let c := s.srcCfg n
  if plane = 0 then (if bit c 31 then some (bits c 30 24) else none)
  else if bit c 23 then some (128 + bits c 22 16) else none

/-- COUNT and PRIO, CLASS and the rest of a group's words (R366, R367). -/
def Group.limit (g : Group) : Nat := max 1 (bits g.cfg0.toNat 31 16)
def Group.en (g : Group) : Bool := bit g.cfg1.toNat 31
def Group.express (g : Group) : Bool := bit g.cfg1.toNat 30
def Group.autoMask (g : Group) : Bool := bit g.cfg1.toNat 29
def Group.prio (g : Group) : Nat := bits g.cfg1.toNat 28 26

/-- One event counts toward a group (R356): the first event after a delivery starts the timer, the COUNT-th makes it ready. -/
def State.countEvent (s : State) (g : Nat) : State :=
  let x := s.getGrp g
  if x.en then
    let c := min (x.count + 1) 0xFFFF
    s.setGrp g { x with count := c, timing := x.timing || x.count = 0, ready := x.ready || x.limit ≤ c }
  else s

/-- The mask, pending and raw words of a plane (R366). -/
def maskReg (plane i : Nat) : Nat := (if plane = 0 then R.ICU_HMASK else R.ICU_FMASK) + 4 * i
def pendReg (plane i : Nat) : Nat := (if plane = 0 then R.ICU_HPEND else R.ICU_FPEND) + 4 * i
def rawReg (plane i : Nat) : Nat := (if plane = 0 then R.ICU_HRAW else R.ICU_FRAW) + 4 * i

def State.setRegBit (s : State) (k i : Nat) (b : Bool) : State := s.wr k (Machine.setBits (s.rd k) i i (b2n b))

/-- An event of a source in one plane: PEND is set whether or not the source is masked, and an unmasked, routed source counts (R354). -/
def State.planeEvent (s : State) (plane n : Nat) : State :=
  let s := s.setRegBit (pendReg plane (n / 32)) (n % 32) true
  if bit (s.rd (maskReg plane (n / 32))) (n % 32) then s
  else match s.srcGroup plane n with
    | some g => s.countEvent g
    | none => s

/-- One event of a source (R353, R354). -/
def State.raise (s : State) (n : Nat) : State :=
  if srcNamed n then (s.planeEvent 0 n).planeEvent 1 n else s

/-- A level source takes a level: a rise is one event, and a high level keeps PEND set (R353, R354). -/
def State.setLevel (s : State) (n : Nat) (b : Bool) : State :=
  if !srcNamed n then s
  else
    let was := bit (s.rd (rawReg 0 (n / 32))) (n % 32)
    let s := (s.setRegBit (rawReg 0 (n / 32)) (n % 32) b).setRegBit (rawReg 1 (n / 32)) (n % 32) b
    if b && !was then s.raise n else s

/-- A level that is high sets PEND again in the next cycle (R354, R363). -/
def State.repend (s : State) (plane i : Nat) : State :=
  s.wr (pendReg plane i) (s.rd (pendReg plane i) ||| s.rd (rawReg plane i))

/-! ### Block events (R449) -/

/-- The level of a window's block-event source: (BLK_EVT_RAW & BLK_EVT_EN) ≠ 0. -/
def State.evtLevel (s : State) (w : Nat) : State :=
  s.setLevel (0x400 + w) (s.rd (w * 65536 + R.BLK_EVT_RAW) &&& s.rd (w * 65536 + R.BLK_EVT_EN) ≠ 0)

/-- Hardware sets event bits of a window. -/
def State.event (s : State) (w mask : Nat) : State :=
  (s.wr (w * 65536 + R.BLK_EVT_RAW) (s.rd (w * 65536 + R.BLK_EVT_RAW) ||| mask)).evtLevel w

/-- R447: an access error is captured while VALID is 0, and raises bit 3 (R449). -/
def State.accessError (s : State) (w kind off : Nat) : State :=
  let k := w * 65536 + R.BLK_ERR_INFO2
  if bit (s.rd k) 31 then s
  else (s.wr k (2 ^ 31 + kind * 2 ^ 28 + off % 65536)).event w 8

/-! ### Windows and domains (R444, R335) -/

/-- How many pages a window uses; 0 for a window that R444 does not assign. -/
def windowPages (w : Nat) : Nat :=
  if 0x300 ≤ w && w < 0x304 then 16
  else if 0x100 ≤ w && w < 0x140 then (if w % 16 < 4 then 1 else if w % 16 = 4 then 3 else 0)
  else match w with
    | 0 => 7 | 1 => 1 | 2 => 2 | 3 => 2 | 4 => 2 | 5 => 1 | 6 => 2 | 7 => 8 | 8 => 4 | 9 => 3
    | 0xA => 1 | 0xB => 1 | 0xC => 1 | 0xD => 1 | 0xE => 1 | _ => 0

/-- The BLOCK code of a window (R444). -/
def windowBlock (w : Nat) : Nat :=
  if 0x300 ≤ w then 0x15 else if 0x100 ≤ w then 0x10 + w % 16 else w + 1

/-- UNITS of BLK_CAP0 (R444); for HUB the capability word of R3. -/
def windowCap0 (w : Nat) : Nat :=
  if 0x300 ≤ w then 0
  else if 0x100 ≤ w then (match w % 16 with | 1 => 9 | 2 => 17 | 3 => 4 | 4 => 2 | _ => 0)
  else match w with
    | 0 => 0x00070804 | 1 => 64 | 2 => 16384 | 3 => 16384 | 4 => 32 | 5 => 9 | 7 => 7 | 8 => 2048 | 0xA => 255 | 0xC => 2 | 0xD => 4
    | 0xE => 4 | _ => 0

/-- The reset domains that a page's registers belong to (R444, last column), the first named first; none for "—". -/
def pageDomains (w p : Nat) : List Nat :=
  if 0x300 ≤ w then []
  else if 0x100 ≤ w then
    let n := (w - 0x100) / 16
    match w % 16 with
    | 0 => [1 + n] | 1 => [0x10 + 3 * n] | 2 => [0x11 + 3 * n] | 3 => [0x12 + 3 * n]
    | _ => if p = 1 then [0x30 + 2 * n] else if p = 2 then [0x31 + 2 * n] else [0x30 + 2 * n, 0x31 + 2 * n]
  else match w with
    | 0 => [0] | 1 => [0x40] | 2 => [0x41] | 3 => [0x41] | 4 => [0x1C] | 5 => [0x1D] | 6 => [0x1E]
    | 7 => if p = 0 then [] else [0x20 + (p - 1)]
    | 8 => [0x42] | 0xD => [0x43] | 0xE => [0x44] | _ => []

/-- Domain d contains domain e, or is it (R335). -/
def domainContains (d e : Nat) : Bool :=
  d = 0 || d = e ||
    (1 ≤ d && d ≤ 4 && ((0x10 + 3 * (d - 1) ≤ e && e ≤ 0x12 + 3 * (d - 1)) || (0x30 + 2 * (d - 1) ≤ e && e ≤ 0x31 + 2 * (d - 1))))

/-- The window whose BLK_STS shows a domain, with the page's port or stack folded into the one header of the window (R446). -/
def domainWindow (d : Nat) : Option Nat :=
  if d = 0 then some 0
  else if d ≤ 4 then some (0x100 + 16 * (d - 1))
  else if 0x10 ≤ d && d < 0x1C then some (0x101 + 16 * ((d - 0x10) / 3) + (d - 0x10) % 3)
  else if d = 0x1C then some 4 else if d = 0x1D then some 5 else if d = 0x1E then some 6
  else if 0x20 ≤ d && d ≤ 0x26 then some 7
  else if 0x30 ≤ d && d ≤ 0x37 then some (0x104 + 16 * ((d - 0x30) / 2))
  else if d = 0x40 then some 1 else if d = 0x41 then some 3 else if d = 0x42 then some 8
  else if d = 0x43 then some 0xD else if d = 0x44 then some 0xE else none

/-- BLK_STS.STATE of a domain changes, with event bit 4 (R447, R449). -/
def State.setDomState (s : State) (d v : Nat) : State :=
  match domainWindow d with
  | some w =>
    let k := w * 65536 + R.BLK_STS
    if s.rd k / 2 ^ 29 = v then s
    else
      let s := (s.wr k (v * 2 ^ 29)).event w 16
      if d = 0x41 then (s.wr (2 * 65536 + R.BLK_STS) (v * 2 ^ 29)).event 2 16 else s
  | none => s

end Sys2Proof.Machine
end

