-- ==== Sys2Proof/Machine/History.lean ====
section
/-! DEFINITION. The unit history: its records, the class of a unit, and the events that enter it (R296 to R298). -/
namespace Sys2Proof.Machine

/-- Codes of units. -/
def coreUnit (n p : Nat) : UnitId := ⟨0, n, p⟩
def groupUnit (n g : Nat) : UnitId := ⟨1, n, g⟩
def decodeUnit (p : Nat) : UnitId := ⟨2, 0xF, p⟩

/-- The physical core behind a logical one. -/
def State.coreOf (s : State) (n i : Nat) : Nat := bits (s.rd (carReg R.CAR_CORE_MAP n)) (4 * i + 3) (4 * i)

/-- Events that count under R297. -/
def eventCounts (e : Nat) : Bool := 1 ≤ e && e ≤ 7

/-- The record is the unit's. -/
def HistRec.isOf (x : HistRec) (u : UnitId) : Bool := x.kind = u.kind && x.die = u.die && x.index = u.index

/-- Two records have the same key. -/
def HistRec.sameKey (x y : HistRec) : Bool := x.isOf ⟨y.kind, y.die, y.index⟩ && x.event = y.event && x.band = y.band && x.load = y.load

/-- Adds an event to the history: to the record with its key, or as a new record, which in a full region takes the place of the oldest
record of class 0 or is dropped with HIST_OVF. -/
def State.putHistory (s : State) (r : HistRec) : State :=
  if s.history.any r.sameKey then
    { s with history := s.history.map fun x =>
        if r.sameKey x then { x with count := min (x.count + r.count) 0xFFFFFFFF, lastStep := r.lastStep, cls := r.cls, detail := r.detail } else x }
  else if s.history.length < 131072 then { s with history := s.history ++ [r] }
  else
    match s.history.findIdx? (·.cls = 0) with
    | some i => { s with history := s.history.eraseIdx i ++ [r] }
    | none => s.fset F.HUB_UNIT_STS_HIST_OVF 1

/-- The unit's latest record. -/
def State.latest (s : State) (u : UnitId) : Option HistRec :=
  s.history.foldl (fun best x =>
    if x.isOf u && (match best with | some b => b.lastStep ≤ x.lastStep | none => true) then some x else best) none

/-- The class of a unit: that after its latest record. -/
def State.unitClass (s : State) (u : UnitId) : Nat :=
  match s.latest u with
  | some x => x.cls
  | none => 0

/-- The unit's latest record takes the class. -/
def State.setClass (s : State) (u : UnitId) (c : Nat) : State :=
  match s.latest u with
  | some r => { s with history := s.history.map fun x => if x = r then { x with cls := c } else x }
  | none => s

/-- The counting records of a unit within the window of R298. -/
def State.unitRecords (s : State) (u : UnitId) : List HistRec :=
  let win := max 1 (s.fget F.HUB_UNIT_CFG_HIST_WIN) * 4096
  s.history.filter fun x => x.isOf u && eventCounts x.event && s.stepNum < x.lastStep + win

/-- A band and a load signature meet the condition of a unit of class 1 or 2 (R298). -/
def predicted (cls : Nat) (rs : List HistRec) (band sig : Nat) : Bool :=
  if cls = 1 then rs.any (·.band = band) else if cls = 2 then rs.any (fun x => x.load / 8 = sig / 8) else false

/-- LOAD [7:6] of a unit (R297): the operand class of the matrix command that runs on it, 3 for none and for other units. -/
def State.loadClass (s : State) (u : UnitId) : Nat :=
  if u.kind ≠ 0 then 3
  else ((s.que.flights.find? fun f => queueEngine f.queue = 3 * u.die && f.cls ≠ 3 && s.coreOf u.die f.unit = u.index).map (·.cls)).getD 3

/-- LOAD of R297 with a duty quartile, which is measured. -/
def State.loadSig (s : State) (cls duty : Nat) : Nat := cls * 64 + duty % 4 * 16 + b2n (s.flag F.PWR_THROT_STS_THROTTLED) * 8

/-- A counting event's part in R298 and R299: the units that met one in the run and in the step, the origin of the run's failure on each carriage, which is
the first core or lane group that met one, and the conditional units that met one inside their condition. -/
def Spares.meets (x : Spares) (u : UnitId) (inside : Bool) : Spares :=
  { x with
    now := u :: x.now, hit := if x.hit.contains u then x.hit else u :: x.hit,
    origin := if u.kind ≤ 1 && x.origin.all (fun o => o.kind ≠ u.kind || o.die ≠ u.die) then u :: x.origin else x.origin,
    inside := if inside then u :: x.inside else x.inside }

/-- An event of a unit. BAND is the die sensor's and the duty quartile of LOAD the unit's own (both measured). A unit records at most one counting event
per run (R297); a self-test failure makes it permanent at once. -/
def State.unitEvent (s : State) (u : UnitId) (event detail : Nat) : State :=
  if eventCounts event && s.spares.now.contains u then s
  else
    let (band, s) := s.fresh
    let (duty, s) := s.fresh
    let load := s.loadSig (s.loadClass u) duty
    let cls := s.unitClass u
    let s := if eventCounts event then { s with spares := s.spares.meets u (predicted cls (s.unitRecords u) (band % 32) load) } else s
    s.putHistory { kind := u.kind, die := u.die, index := u.index, event := event, band := band % 32, load := load,
                   cls := if event = 6 then 3 else if event = 0x0C then 0 else cls, detail := detail, count := b2n (eventCounts event),
                   firstStep := s.stepNum % 2 ^ 32, lastStep := s.stepNum }

/-- A record that is recorded only, of a pin, lane, row or control core. -/
def State.noteUnit (s : State) (kind die index event detail : Nat) : State := s.unitEvent ⟨kind, die, index⟩ event detail

/-- An on-chip error in a unit's history: an uncorrected one, or the 64th corrected one of the step (R296). -/
def State.unitEcc (s : State) (u : UnitId) (ue : Bool) (syndrome : Nat) : State :=
  if ue then s.unitEvent u 4 syndrome
  else
    let n := ((s.spares.ce.find? (·.1 = u)).map (·.2)).getD 0 + 1
    let s := { s with spares := { s.spares with ce := (u, n) :: s.spares.ce.filter (·.1 ≠ u) } }
    if n = 64 then s.unitEvent u 3 syndrome else s

end Sys2Proof.Machine
end

