-- ==== Sys2Proof/Machine/PinCode.lean ====
section
/-! DEFINITION. The codes that protect the memories: the pin-symbol Reed-Solomon code of stacked memory over GF(2^16) and its decoder (R173, R174), the
encryption under it (R186), and the SECDED code of on-chip words (R177). -/
namespace Sys2Proof.Machine

/-! ### GF(2^16) (R173) -/

/-- Multiplication by α, a root of x^16 + x^12 + x^3 + x + 1. -/
def gfTwice (a : Nat) : Nat := if a < 0x8000 then 2 * a else (2 * a) ^^^ 0x1100B

def gfMul (a b : Nat) : Nat := (List.range 16).foldr (fun i x => gfTwice x ^^^ if bit b i then a else 0) 0

def gfPow (a n : Nat) : Nat := (List.range 16).foldr (fun i x => let y := gfMul x x; if bit n i then gfMul y a else y) 1

/-- Division by α. -/
def gfHalf (a : Nat) : Nat := if a % 2 = 0 then a / 2 else (a ^^^ 0x1100B) / 2

/-- α^n and α^(−n). -/
def gfExp (n : Nat) : Nat := Nat.repeat gfTwice n 1

def gfExpNeg (n : Nat) : Nat := Nat.repeat gfHalf n 1

def gfInv (a : Nat) : Nat := gfPow a 65534

/-! ### Polynomials, lowest coefficient first -/

def polyAdd : List Nat → List Nat → List Nat
  | [], q => q
  | p, [] => p
  | a :: p, b :: q => (a ^^^ b) :: polyAdd p q

def polyScale (c : Nat) (p : List Nat) : List Nat := p.map (gfMul c)

def polyMul (p q : List Nat) : List Nat := p.foldr (fun a r => polyAdd (polyScale a q) (0 :: r)) []

def polyEval (p : List Nat) (x : Nat) : Nat := p.foldr (fun a r => a ^^^ gfMul x r) 0

/-- The formal derivative in characteristic 2: the odd coefficients, one place lower. -/
def polyDeriv (p : List Nat) : List Nat := (p.drop 1).zipIdx.map fun a => if a.2 % 2 = 0 then a.1 else 0

/-! ### The code of length 72 (R173) -/

/-- The generator (x − α^0) … (x − α^7). -/
def pinGen : List Nat := (List.range 8).foldl (fun g i => polyMul g [gfExp i, 1]) [1]

/-- A pin's power of x in the codeword polynomial: DQi at 8 + i, CBj (pin 64 + j) at 7 − j. -/
def pinPower (p : Nat) : Nat := if p < 64 then 8 + p else 71 - p

/-- Symbol d_i of a block held as a number: bit t is bit 64t + i. -/
def dataSymbol (block i : Nat) : Nat := (List.range 16).foldr (fun t x => 2 * x + b2n (bit block (64 * t + i))) 0

/-- The block whose data symbols are these, pin by pin. -/
def ofSymbols (syms : List (Nat × Nat)) : Nat :=
  syms.foldl (fun n s => if s.1 < 64 then (List.range 16).foldl (fun n t => n ^^^ b2n (bit s.2 t) * 2 ^ (64 * t + s.1)) n else n) 0

/-- One step of the division by the generator g: the remainder, lowest coefficient first, takes in the next lower data symbol. -/
def pinStep (g r : List Nat) (d : Nat) : List Nat := (polyAdd (0 :: r.dropLast) (polyScale (d ^^^ r.getLastD 0) g)).take 8

/-- The check symbols c_0 to c_7 of a block. -/
def checkSymbols (block : Nat) : List Nat :=
  let g := pinGen
  ((List.range 64).foldr (fun i r => pinStep g r (dataSymbol block i)) (List.replicate 8 0)).reverse

/-- The 72 symbols of a burst, DQ0 to DQ63 and CB0 to CB7. -/
def burst (block : Nat) : List Nat := (List.range 64).map (dataSymbol block) ++ checkSymbols block

/-- Symbols as a list of (pin, value), the zeros left out. -/
def nonzero (syms : List Nat) : List (Nat × Nat) := (syms.zipIdx.filter (·.1 ≠ 0)).map fun s => (s.2, s.1)

/-- The sum of two lists of (pin, value). -/
def addSyms (a b : List (Nat × Nat)) : List (Nat × Nat) :=
  let at' (l : List (Nat × Nat)) (p : Nat) : Nat := l.foldl (fun v s => if s.1 = p then v ^^^ s.2 else v) 0
  nonzero ((List.range 72).map fun p => at' a p ^^^ at' b p)

/-- The eight syndromes of what a burst differs by from a codeword; a codeword's own are 0. -/
def syndromes (err : List (Nat × Nat)) : List Nat :=
  (List.range 8).map fun j => err.foldl (fun x s => x ^^^ gfMul s.2 (gfExp (j * pinPower s.1))) 0

/-- The state of the search for the error locator: the locator, its copy before the last change of length, the length, the steps since then, and the
discrepancy at it. -/
structure Locator where
  now  : List Nat
  old  : List Nat
  len  : Nat
  gap  : Nat
  base : Nat

/-- One step of the Berlekamp-Massey algorithm over the syndromes t. -/
def Locator.step (t : List Nat) (l : Locator) (n : Nat) : Locator :=
  let d := (List.range (l.len + 1)).foldl (fun d i => d ^^^ gfMul (l.now.getD i 0) (t.getD (n - i) 0)) 0
  let next := polyAdd l.now (List.replicate l.gap 0 ++ polyScale (gfMul d (gfInv l.base)) l.old)
  if d = 0 then { l with gap := l.gap + 1 }
  else if 2 * l.len ≤ n then { now := next, old := l.now, len := n + 1 - l.len, gap := 1, base := d }
  else { l with now := next, gap := l.gap + 1 }

/-- What the decoder corrects (R174): with e erasures and up to t further symbol errors, e + 2t ≤ 8, the symbols to be changed; none when no such pattern has
the burst's syndromes. -/
def pinDecode (erased : List Nat) (err : List (Nat × Nat)) : Option (List (Nat × Nat)) :=
  let s := syndromes err
  if s.all (· = 0) then some []
  else
    let e := erased.length
    let gamma := erased.foldl (fun g p => polyMul g [1, gfExp (pinPower p)]) [1]
    let t := ((polyMul s gamma).take 8).drop e
    let l := (List.range (8 - e)).foldl (Locator.step t) { now := [1], old := [1], len := 0, gap := 1, base := 1 }
    let found := (List.range 72).filter fun p => !erased.contains p && polyEval l.now (gfExpNeg (pinPower p)) = 0
    let psi := polyMul l.now gamma
    let omega := (polyMul s psi).take 8
    let value (p : Nat) : Nat :=
      let x := gfExpNeg (pinPower p)
      gfMul (gfExp (pinPower p)) (gfMul (polyEval omega x) (gfInv (polyEval (polyDeriv psi) x)))
    let fix := addSyms ((found ++ erased).map fun p => (p, value p)) []
    if e + 2 * l.len ≤ 8 && found.length = l.len && syndromes fix = s then some fix else none

/-! ### Encryption (R186) -/

/-- The block as the pins carry it: AES-256-XTS under the key pair of the carriage since device reset `era`, with the block number as tweak. -/
def sealBlock (era carriage block : Nat) (bs : List Byte) : List Byte :=
  Config.xtsSeal (Config.memoryKeys era carriage) (BitVec.ofNat 128 block) bs

def openBlock (era carriage block : Nat) (bs : List Byte) : List Byte :=
  Config.xtsOpen (Config.memoryKeys era carriage) (BitVec.ofNat 128 block) bs

/-! ### SECDED words (R177) -/

/-- The syndrome of flipped bits of a word, 0 to 31 its data and 32 to 38 its check bits. -/
def wordSyndrome (err : Nat) : Nat := (List.range 39).foldl (fun x i => if bit err i then x ^^^ (Config.hsiao i).toNat else x) 0

/-- What the code corrects in a word: a single flipped bit, or what another syndrome makes it take for one; none for a double-bit error and every other syndrome. -/
def wordFix (err : Nat) : Option Nat :=
  match (List.range 39).filter (bit err) with
  | [] => some 0
  | [i] => some (2 ^ i)
  | [_, _] => none
  | _ =>
    let s := wordSyndrome err
    if s = 0 then some 0 else ((List.range 39).find? fun i => (Config.hsiao i).toNat = s).map (2 ^ ·)

end Sys2Proof.Machine
end

