-- ==== Sys2Proof/Machine/Access.lean ====
section
/-! DEFINITION. How an engine reaches memory: the regions of R4, the window checks, the reserved region, retired pages (R97, R169, R185),
the decoding of blocks and words and what uncorrectable and poisoned ones do (R174 to R180, R183, R191, R453), the depot cache (R161 to R163) and fenced
domains. -/
namespace Sys2Proof.Machine

/-! ### Regions -/

def stackedEnd : Nat := 0x006000000000
def depotBase : Nat := 0x100000000000
def depotEnd : Nat := 0x100020000000
def mib : Nat := 0x100000

def isStacked (a : Nat) : Bool := a < stackedEnd
def isDepot (a : Nat) : Bool := depotBase ≤ a && a < depotEnd

/-- Bytes of a carriage's range (R166). -/
def carSpan : Nat := 0x001800000000

/-- Firmware's reserved region (R169): the last 256 MiB of a carriage's range. -/
def isReserved (a : Nat) : Bool := isStacked a && a % carSpan ≥ 0x0017F0000000

/-- The carriage whose stacks hold a stacked-memory address (R166). -/
def addrCarriage (a : Nat) : Nat := a / carSpan

/-- R167, R168: stack, pseudo-channel, bank, row and column of an address. -/
structure Loc where
  stack : Nat
  pch   : Nat
  bank  : Nat
  row   : Nat
  col   : Nat
deriving DecidableEq, Repr

def addrLoc (a : Nat) : Loc :=
  let b := a % carSpan / 128
  let ch := (b % 64) ^^^ (b / 4096 % 64)
  let w := b / 64
  { stack := 2 * addrCarriage a + ch / 32, pch := ch % 32, bank := w / 8 % 16, row := w / 128, col := w % 8 }

/-- A row's number in the coding of R296, with the pseudo-channel above it. -/
def Loc.rowId (l : Loc) : Nat := l.pch * 2 ^ 24 + l.stack * 2 ^ 21 + l.bank * 2 ^ 17 + l.row

/-- Mode in force of the depot slice that holds a scratchpad-window address: true for scratchpad (R160). -/
def State.sliceScratch (s : State) (slice : Nat) : Bool :=
  bit (s.rd (R.DEP_MODE_CUR + 4 * (slice / 32))) (slice % 32)

def State.depotScratch (s : State) (a : Nat) : Bool := s.sliceScratch ((a - depotBase) / 0x800000)

/-! ### Address checks of R97 -/

/-- The blocks of 128 bytes that n bytes from an address touch. -/
def blocksOf (a n : Nat) : List Nat :=
  if n = 0 then [] else (List.range ((a + n - 1) / 128 - a / 128 + 1)).map (a / 128 + ·)

def State.pageRetired (s : State) (a : Nat) : Bool := s.mpart.retired.contains (a / 65536)

/-- The lowest address-error detail that one byte draws from a context, 0 when it may be accessed (R97, R169, R185). -/
def State.addrDetail (s : State) (c : Ctx) (a : Nat) : Nat :=
  if isStacked a then
    if c.winLimit < c.winBase || a / mib < c.winBase || c.winLimit < a / mib || isReserved a then 3
    else if s.pageRetired a then 5 else 0
  else if isDepot a then
    if !s.depotScratch a then 2 else if !c.depotEn then 4 else 0
  else 1

/-- Representative bytes of a range for the checks: its first and last byte and the first byte of every 64 KiB page between. -/
def probes (a n : Nat) : List Nat :=
  if n = 0 then [] else
    a :: (a + n - 1) :: ((List.range ((a + n - 1) / 65536 - a / 65536)).map fun i => (a / 65536 + i + 1) * 65536)

/-- The lowest address-error detail of a range, 0 for none. -/
def State.rangeDetail (s : State) (c : Ctx) (a n : Nat) : Nat :=
  (probes a n).foldl (fun d x =>
    let e := s.addrDetail c x
    if e = 0 then d else if d = 0 then e else min d e) 0

/-! ### Fenced domains (R123, R340) -/

/-- The domain is out of service in HUB_OOS0 or HUB_OOS1 (R345, R351). -/
def State.domOos (s : State) (d : Nat) : Bool :=
  if d = 0 then false
  else if d ≤ 4 then bit (s.fget F.HUB_OOS1_CARRIAGE) (d - 1)
  else if 0x10 ≤ d && d < 0x20 then bit (s.fget F.HUB_OOS0_ENGINE) (d - 0x10)
  else if 0x20 ≤ d && d ≤ 0x26 then bit (s.fget F.HUB_OOS0_PORT) (d - 0x20)
  else if 0x30 ≤ d && d ≤ 0x37 then bit (s.fget F.HUB_OOS0_MEM) (d - 0x30)
  else if 0x40 ≤ d && d ≤ 0x44 then bit (s.fget F.HUB_OOS1_HUBF) (d - 0x40)
  else false

/-- Domains that are fenced by a sequence: running, waiting or held. -/
def State.fencedDomains (s : State) : List Nat :=
  (match s.recov.cur with | some q => [q.domain] | none => []) ++ s.recov.waiting.map (·.domain) ++ s.recov.held

/-- The domain refuses new requests: it, or a domain that contains it, is fenced or out of service. -/
def State.fenced (s : State) (d : Nat) : Bool :=
  (s.fencedDomains.any fun f => domainContains f d) || s.domOos d ||
    ([1, 2, 3, 4].any fun c => domainContains c d && s.domOos c)

/-! ### Blocks that cannot be read -/

/-- The remap entry that serves an address, if its row is remapped. -/
def State.remapOf (s : State) (a : Nat) : Option Remap := s.mpart.remap.find? (·.row = (addrLoc a).rowId)

def State.poisoned (s : State) (a : Nat) : Bool :=
  match s.remapOf a with
  | some r => bit r.poison (addrLoc a).col
  | none => false

/-- A carriage with a pseudo-channel out of service fails every access (R181). -/
def State.carriageDead (s : State) (n : Nat) : Bool :=
  s.mpart.pch.any fun p => p.1 / 64 = n && bits p.2.toNat 31 29 = 4

/-- A row that could be neither remapped nor retired (R185). -/
def State.rowDead (s : State) (a : Nat) : Bool := !s.mpart.deadRows.isEmpty && s.mpart.deadRows.contains (addrLoc a).rowId

/-- The row of an address becomes a remap candidate (R182). -/
def State.candidate (s : State) (a : Nat) : State :=
  let r := (addrLoc a).rowId
  if s.mpart.cands.contains r then s else { s with mpart := { s.mpart with cands := s.mpart.cands ++ [r] } }

/-! ### Fences that an access meets -/

/-- A memory-channel domain that is out of service for a pseudo-channel or a row: its accesses are uncorrected, and are not answered FENCED (R181, R185). -/
def State.channelLost (s : State) (n : Nat) : Bool := s.carriageDead n || s.mpart.deadRows.any fun r => r / 2 ^ 22 % 4 = n

/-- An access to a memory address meets a fenced domain. -/
def State.addrFenced (s : State) (a : Nat) : Bool :=
  if isStacked a then
    let d := 0x30 + (addrLoc a).stack
    s.fencedDomains.any (fun f => domainContains f d) || (s.domOos d && !s.channelLost (addrCarriage a)) || s.domOos (1 + addrCarriage a)
  else if isDepot a then s.fenced 0x40
  else false

/-- The addresses of a range at which each channel of each carriage that it reaches is met first: 64 blocks hold all channels of a carriage. -/
def fenceProbes (a n : Nat) : List Nat :=
  (a :: ((List.range 4).map (carSpan * ·)).filter fun b => a < b && b < a + n).flatMap fun b =>
    (List.range (min 64 (blocksOf b (a + n - b)).length)).map (b + 128 * ·)

def State.rangeFenced (s : State) (a n : Nat) : Bool := n ≠ 0 && (fenceProbes a n).any s.addrFenced

/-- A range of stacked memory touches a retired page (R185). -/
def State.rangeRetired (s : State) (a n : Nat) : Bool := isStacked a && !s.mpart.retired.isEmpty && (probes a n).any s.pageRetired

/-- The response and detail of an access to ranges that the device does not perform: a retired page's ADDRESS_ERROR, a fenced domain's FENCED. -/
def State.barred (s : State) (rs : List (Nat × Nat)) : Option (Nat × Nat) :=
  if rs.any fun r => s.rangeRetired r.1 r.2 then some (0x11, 5)
  else if rs.any fun r => s.rangeFenced r.1 r.2 then some (0x19, 0)
  else none

/-! ### Captures (R178, R191) -/

/-- R191: an error captured for a stack. SOURCE is the requester's code, SYMS and PIN what the decoder corrected. -/
def State.captureErr (s : State) (a : Nat) (ue : Bool) (syms pin source : Nat) : State :=
  let l := addrLoc a
  let f (x : Fld) := x.stack l.stack
  let s := s.count (stackReg (if ue then R.MEM_UE_CNT else R.MEM_CE_CNT) l.stack)
  let held := s.flag (f F.MEM_ERR_INFO_VALID)
  let s :=
    if held && !(ue && s.fget (f F.MEM_ERR_INFO_UE) = 0) then s
    else
      let s := s.wr64 (stackReg R.MEM_ERR_ADDR l.stack) (a / 128 * 128)
      s.wr (stackReg R.MEM_ERR_INFO l.stack)
        (2 ^ 31 + b2n ue * 2 ^ 30 + l.pch * 2 ^ 25 + l.bank * 2 ^ 21 + syms % 8 * 2 ^ 18 + pin % 128 * 2 ^ 11 + source * 2 ^ 8)
  let s := s.event (0x104 + 16 * addrCarriage a) (if ue then 4 else 2)
  s.raise ((if ue then 0x098 else 0x090) + l.stack)

/-- A block is met that cannot be read: its capture, and its row becomes a candidate (R175, R182, R191). -/
def State.lostBlock (s : State) (b source : Nat) : State :=
  (s.captureErr (b * 128) true 0 0x7F (if s.poisoned (b * 128) then 4 else source)).candidate (b * 128)

/-- R178: the window of the block that owns an on-chip memory key, its UNIT and SLICE, and the key's WORD within the unit's memory: a core's scratchpad, the carriage's
buffer, the depot slice that SLICE names (DEDUCED: the slice group's own words are not told apart otherwise). -/
def chipOwner (s : State) (k : Nat) : Nat × Nat × Nat × Nat :=
  if k ≥ 2 ^ 48 then
    let n := k / 2 ^ 48 - 1
    let a := k % 2 ^ 48
    if a < 0x4000000 then (0x101 + 16 * n, s.coreOf n (a / 0x800000), 0, a % 0x800000 / 4)
    else (0x100 + 16 * n, 0xE, 0, (a - 0x4000000) / 4)
  else (1, 0xF, (k - depotBase) / 0x800000, (k - depotBase) % 0x800000 / 4)

/-- The unit of the history that owns an on-chip memory key (R178, R296): a matrix core, a carriage buffer or a depot slice. -/
def State.chipUnit (s : State) (k : Nat) : UnitId :=
  let (w, unit, slice, _) := chipOwner s k
  if w = 1 then ⟨4, 0xF, slice⟩ else if unit = 0xE then ⟨3, (w - 0x100) / 16, 0⟩ else ⟨0, (w - 0x101) / 16, unit⟩

/-- R178: an on-chip SECDED error is reported, captured, and recorded against its unit. -/
def State.chipError (s : State) (k : Nat) (ue : Bool) (syndrome : Nat) : State :=
  let (w, unit, slice, word) := chipOwner s k
  let b := w * 65536
  let heldUe := bit (s.rd (b + R.BLK_EVT_RAW)) 2
  let s :=
    if heldUe then s
    else
      let s := s.wr (b + R.BLK_ERR_INFO0) (unit * 2 ^ 28 + slice * 2 ^ 22 + word % 2 ^ 22)
      s.wr (b + R.BLK_ERR_INFO1) (b2n ue * 2 ^ 31 + syndrome % 128 * 2 ^ 24 + s.stepNum % 2 ^ 24)
  let s := if w = 1 then s.count (if ue then R.DEP_UE_CNT else R.DEP_CE_CNT) else s
  (s.event w (if ue then 4 else 2)).unitEcc (s.chipUnit k) ue syndrome

/-! ### Pseudo-channels (R179, R180, R190) -/

/-- MEM_PCH_STS of a pseudo-channel before it is trained: no pin steered or erased. -/
def pchReset (_ : Nat) : Word := 0x1FFFFFFE

/-- A pseudo-channel's number in the tables: 32 × stack + pseudo-channel. -/
def pchKey (stack pch : Nat) : Nat := 32 * stack + pch

def State.pchSts (s : State) (k : Nat) : Nat := (tget pchReset s.mpart.pch k).toNat

def State.setPch (s : State) (k v : Nat) : State := { s with mpart := { s.mpart with pch := tset pchReset s.mpart.pch k (BitVec.ofNat 32 v) } }

/-- The pins that a pseudo-channel decodes as erasures. -/
def State.erasures (s : State) (k : Nat) : List Nat := [bits (s.pchSts k) 14 8, bits (s.pchSts k) 7 1].filter (· ≠ 0x7F)

/-- A retraining is held for the next boundary (R180, R425). -/
def State.holdTest (s : State) (x : TestItem) : State :=
  if s.test.held.contains x then s else { s with test := { s.test with held := s.test.held ++ [x] } }

/-- R180: a pin that reaches PIN_LIMIT becomes an erasure, if fewer than two are held, and a retraining is requested. -/
def State.erasePin (s : State) (stack pch pin : Nat) : State :=
  let k := pchKey stack pch
  let v := s.pchSts k
  let es := s.erasures k
  let v := if es.contains pin || 2 ≤ es.length then v
    else setBits (if bits v 14 8 = 0x7F then setBits v 14 8 pin else setBits v 7 1 pin) 31 29 3
  ((s.setPch k (setBits v 0 0 1)).noteUnit 5 (stack / 2) (stack * 65536 + pch * 256 + pin) 0x09 pin).holdTest
    { kind := 1, target := stack * 256 + pch, immediate := false }

/-- Which pin is counted in the table of symbol errors. -/
def pinKey (stack pch pin : Nat) : Nat := pchKey stack pch * 128 + pin

/-- A symbol error of a pin in the scrub pass (R180). -/
def State.countPin (s : State) (l : Loc) (pin : Nat) : State :=
  let zero (_ : Nat) : Nat := 0
  let m := tget zero s.mpart.pinErrs (pinKey l.stack l.pch pin) + 1
  let s := { s with mpart := { s.mpart with pinErrs := tset zero s.mpart.pinErrs (pinKey l.stack l.pch pin) m } }
  if s.flag (F.MEM_CFG_ERASE_AUTO.stack l.stack) && m = max 1 (s.fget (F.MEM_CFG_PIN_LIMIT.stack l.stack)) then s.erasePin l.stack l.pch pin else s

/-- The decoder has corrected symbols of a block beyond its erasures: the capture, the events of its row and the symbol errors of its pins in the scrub pass (R180,
R182, R191). -/
def State.stackCorrected (s : State) (a : Nat) (pins : List Nat) (source : Nat) : State :=
  match pins with
  | [] => s
  | p :: _ =>
    let l := addrLoc a
    let zero (_ : Nat) : Nat := 0
    let s := s.captureErr a false pins.length p source
    let n := tget zero s.mpart.rowEvents l.rowId + 1
    let s := { s with mpart := { s.mpart with rowEvents := tset zero s.mpart.rowEvents l.rowId n } }
    let s := if n ≥ max 1 (s.fget (F.MEM_CFG_CE_ROW_LIMIT.stack l.stack)) then s.candidate a else s
    s.forAll pins fun p s => s.countPin l p

/-! ### Reading blocks and words (R174, R175, R177) -/

def noSyms (_ : Nat) : List (Nat × Nat) := []

/-- The symbols by which a block's burst differs from the codeword of what the memory holds. -/
def State.symsAt (s : State) (b : Nat) : List (Nat × Nat) := tget noSyms s.mpart.syms b

def State.setSyms (s : State) (b : Nat) (v : List (Nat × Nat)) : State := { s with mpart := { s.mpart with syms := tset noSyms s.mpart.syms b v } }

def State.wordAt (s : State) (w : Nat) : Nat := tget (fun _ => 0) s.mpart.words w

def State.setWord (s : State) (w v : Nat) : State := { s with mpart := { s.mpart with words := tset (fun _ => 0) s.mpart.words w v } }

/-- What the decoder of a block's pseudo-channel corrects in it; none for an uncorrected block. -/
def State.blockFix (s : State) (b : Nat) : Option (List (Nat × Nat)) :=
  let l := addrLoc (b * 128)
  pinDecode (s.erasures (pchKey l.stack l.pch)) (s.symsAt b)

/-- The decoder takes a burst for another codeword than was written: the memory holds that one from then on (R174's miscorrection), decrypted. -/
def State.recode (s : State) (b : Nat) (fix : List (Nat × Nat)) : State :=
  let rest := addSyms (s.symsAt b) fix
  if rest = [] then s
  else
    let n := addrCarriage (b * 128)
    let cipher := List.zipWith (· ^^^ ·) (sealBlock s.mpart.era n b (s.bytes (b * 128) 128)) (leBytes 128 (ofSymbols rest))
    (s.setSyms b fix).setBytes (b * 128) (padTo 128 (openBlock s.mpart.era n b cipher))

/-- A block that no read corrects, whatever its burst holds: its content is lost, poisoned, or its row or carriage cannot be read (R181, R183, R185). -/
def State.blockDead (s : State) (b : Nat) : Bool :=
  s.mpart.bad.contains b || s.poisoned (b * 128) || s.rowDead (b * 128) || s.carriageDead (addrCarriage (b * 128))

/-- A block is read from its stack; the flag says that it is uncorrected. -/
def State.meetBlock (s : State) (b source : Nat) : State × Bool :=
  if s.blockDead b then (s.lostBlock b source, true)
  else if s.symsAt b = [] then (s, false)
  else
    match s.blockFix b with
    | none => (s.lostBlock b source, true)
    | some fix =>
      let l := addrLoc (b * 128)
      let pins := (fix.map (·.1)).filter fun p => !(s.erasures (pchKey l.stack l.pch)).contains p
      ((s.recode b fix).stackCorrected (b * 128) pins source, false)

/-- An on-chip word is read; the flag says that it is uncorrected. What the code takes for another word is that word from then on. -/
def State.meetWord (s : State) (w : Nat) : State × Bool :=
  let x := s.wordAt w
  match wordFix x with
  | none => (s.chipError (4 * w) true (wordSyndrome x), true)
  | some fix =>
    let s := if fix = x then s else (s.setWord w fix).setNum (4 * w) 4 (s.num (4 * w) 4 ^^^ (x ^^^ fix) % 2 ^ 32)
    (if fix = 0 then s else s.chipError (4 * w) false (wordSyndrome x), false)

/-- The on-chip words with flipped bits that a range touches. -/
def State.wordsIn (s : State) (a n : Nat) : List Nat := (s.mpart.words.map (·.1)).filter fun w => a / 4 ≤ w && w ≤ (a + n - 1) / 4

/-- Words of a list are read. -/
def State.meetWords (s : State) (ws : List Nat) : State × Bool :=
  ws.foldl (fun (s, e) w => let (s, e') := s.meetWord w; (s, e || e')) (s, false)

/-- A block or word that a read would not correct. -/
def State.unreadable (s : State) (a : Nat) : Bool :=
  if isStacked a then s.blockDead (a / 128) || (s.symsAt (a / 128) ≠ [] && (s.blockFix (a / 128)).isNone)
  else (wordFix (s.wordAt (a / 4))).isNone

/-! ### The depot cache (R161 to R163) -/

/-- An address lies in an enabled cacheable range in force. -/
def State.cacheable (s : State) (a : Nat) : Bool :=
  isStacked a && s.mpart.crCur.any fun r => bit r.1 31 && bits r.1 19 0 ≤ a / mib && a / mib ≤ bits r.2 19 0

/-- The cache-mode slices in force, in ascending number (R162). -/
def State.cacheSlices (s : State) : List Nat := (List.range 64).filter fun i => !s.sliceScratch i

/-- The way that the tree bits of a set choose, and the tree bits after a use of a way: node i's bit 1 sends the choice right. -/
def treeVictim (t : Nat) : Nat :=
  let n1 := b2n (bit t 0)
  let n2 := b2n (bit t (1 + n1))
  let n3 := b2n (bit t (3 + 2 * n1 + n2))
  let n4 := b2n (bit t (7 + 4 * n1 + 2 * n2 + n3))
  8 * n1 + 4 * n2 + 2 * n3 + n4

def treeTouch (t w : Nat) : Nat :=
  let put (t i : Nat) (right : Bool) := Machine.setBits t i i (b2n (!right))
  let t := put t 0 (bit w 3)
  let t := put t (1 + w / 8) (bit w 2)
  let t := put t (3 + w / 4) (bit w 1)
  put t (7 + w / 2) (bit w 0)

/-- The bytes of a line's word in its slice: a set of 16 ways of 128 bytes. -/
def lineKey (set : Nat) (w : Way) (word : Nat) : Nat := depotBase + set / 4096 * 0x800000 + set % 4096 * 2048 + w.way * 128 + 4 * word

def noSet (_ : Nat) : CacheSet := ⟨[], 0⟩

def State.getSet (s : State) (k : Nat) : CacheSet := tget noSet s.mpart.cache k

def State.setSet (s : State) (k : Nat) (x : CacheSet) : State := { s with mpart := { s.mpart with cache := tset noSet s.mpart.cache k x } }

/-- A whole-block write clears an uncorrectable or poisoned block (R453, R183). -/
def State.cleanBlock (s : State) (b : Nat) : State :=
  let l := addrLoc (b * 128)
  { s with mpart := { s.mpart with
      bad := s.mpart.bad.filter (· ≠ b), syms := tdel s.mpart.syms b,
      remap := s.mpart.remap.map fun r => if r.row = l.rowId then { r with poison := Machine.setBits r.poison l.col l.col 0 } else r } }

/-- The words of a way that a read meets are corrected and written back (R177); the way that is left, and whether a word of it is uncorrected. -/
def State.meetWay (s : State) (set : Nat) (w : Way) : State × Way × Bool :=
  w.errs.foldl (fun (s, v, e) x =>
    match wordFix x.2 with
    | none => (s, { v with errs := v.errs ++ [x] }, true)
    | some fix =>
      let at' := w.line * 128 + 4 * x.1
      let s := if fix = x.2 then s else s.setNum at' 4 (s.num at' 4 ^^^ (x.2 ^^^ fix) % 2 ^ 32)
      (if fix = 0 then s else s.chipError (lineKey set w x.1) false (wordSyndrome x.2), v, e)) (s, { w with errs := [] }, false)

/-- The uncorrectable words of a dirty line are reported (R163). -/
def State.lineLost (s : State) (set : Nat) (w : Way) : State :=
  w.errs.foldl (fun s x => s.chipError (lineKey set w x.1) true (wordSyndrome x.2)) s

/-- A way's line is written back, if it is dirty: stacked memory holds a fresh codeword, or, where the line is uncorrectable, a block without content. -/
def State.writeBack (s : State) (set : Nat) (w : Way) : State × Way :=
  if w.old.isNone then (s, w)
  else
    let (s, w, e) := s.meetWay set w
    let s := s.cleanBlock w.line
    (if e then (let s := s.lineLost set w; { s with mpart := { s.mpart with bad := w.line :: s.mpart.bad } }) else s, { w with old := none })

/-- The set of a line, with C cache-mode slices (R162). -/
def lineSet (slices : List Nat) (line : Nat) : Nat := slices.getD (line % slices.length) 0 * 4096 + line / slices.length % 4096

/-- A line enters a set, whose victim is written back. -/
def State.placeLine (s : State) (k : Nat) (line : Nat) (old : Option (List Byte)) : State :=
  let set := s.getSet k
  let way := ((List.range 16).find? fun i => set.ways.all (·.way ≠ i)).getD (treeVictim set.tree)
  let s := match set.ways.find? (·.way = way) with | some v => (s.writeBack k v).1 | none => s
  s.setSet k { ways := ⟨way, line, old, []⟩ :: set.ways.filter (·.way ≠ way), tree := treeTouch set.tree way }

/-- A way takes the place of the one that holds its line. -/
def State.putWay (s : State) (k : Nat) (v : Way) : State :=
  let set := s.getSet k
  s.setSet k { ways := set.ways.map fun x => if x.line = v.line then v else x, tree := treeTouch set.tree v.way }

/-- Bytes from to before to' of a cacheable block are used through the depot, read or, before the write that follows, written. The flag says that the access meets an
uncorrected error: of stacked memory on a miss, of a dirty line; a clean line that is uncorrectable is read again from stacked memory (R161 to R163). A
write meets the words that it covers in part. -/
def State.lineUse (s : State) (b from' to' : Nat) (write : Bool) (source : Nat) : State × Bool :=
  let slices := s.cacheSlices
  let whole := write && from' = b * 128 && to' = b * 128 + 128
  if slices.isEmpty then s.meetBlock b source
  else
    let k := lineSet slices b
    let old := if write then some (s.bytes (b * 128) 128) else none
    let fetch (s : State) : State × Bool :=
      let (s, e) := if whole then (s, false) else s.meetBlock b source
      if e then (s, true) else (s.placeLine k b old, false)
    match (s.getSet k).ways.find? (·.line = b) with
    | some w =>
      let s := s.wr64 R.DEP_HIT ((s.rd64 R.DEP_HIT + 1) % 2 ^ 64)
      let covered (x : Nat × Nat) : Bool := write && from' ≤ b * 128 + 4 * x.1 && b * 128 + 4 * x.1 + 4 ≤ to'
      let spared (x : Nat × Nat) : Bool := write && (to' ≤ b * 128 + 4 * x.1 || b * 128 + 4 * x.1 + 4 ≤ from')
      let (s, v, e) := s.meetWay k { w with errs := w.errs.filter fun x => !covered x && !spared x }
      if !e then (s.putWay k { v with old := if write then v.old.orElse fun _ => old else v.old, errs := w.errs.filter spared }, false)
      else if w.old.isSome then ((s.lineLost k v).putWay k { v with errs := v.errs ++ w.errs.filter fun x => covered x || spared x }, true)
      else
        let set := s.getSet k
        fetch ((s.count R.DEP_REFETCH_CNT).setSet k { set with ways := set.ways.filter (·.line ≠ b) })
    | none => fetch (s.wr64 R.DEP_MISS ((s.rd64 R.DEP_MISS + 1) % 2 ^ 64))

/-- Every dirty line is written back (R21, R162). -/
def State.cleanDepot (s : State) : State :=
  s.mpart.cache.foldl (fun s p =>
    let (s, ws) := p.2.ways.foldl (fun (s, ws) w => let (s, w) := s.writeBack p.1 w; (s, ws ++ [w])) (s, ([] : List Way))
    s.setSet p.1 { p.2 with ways := ws }) s

/-- Every line is written back and given up. -/
def State.flushDepot (s : State) : State :=
  let s := s.cleanDepot
  { s with mpart := { s.mpart with cache := [] } }

/-- A depot reset loses dirty lines: stacked memory keeps what it held before them (R343). -/
def State.loseDepot (s : State) : State :=
  let dirty := s.mpart.cache.flatMap fun p => p.2.ways.filterMap fun w => w.old.map fun o => (w.line, o)
  let s := dirty.foldl (fun s x => s.setBytes (x.1 * 128) x.2) s
  { s with mpart := { s.mpart with cache := [] } }

/-! ### Reads and writes -/

/-- No block is known to differ from what was written, no row is remapped, every channel serves, and no address is cacheable. -/
def MemPart.plain (p : MemPart) : Bool :=
  p.bad.isEmpty && p.syms.isEmpty && p.remap.isEmpty && p.deadRows.isEmpty && p.crCur.isEmpty && p.pch.all fun x => bits x.2.toNat 31 29 ≠ 4

/-- One block of stacked memory is read, from the depot where it is cacheable. -/
def State.readBlock (s : State) (b source : Nat) : State × Bool :=
  if s.cacheable (b * 128) then s.lineUse b (b * 128) (b * 128 + 128) false source else s.meetBlock b source

/-- n bytes are read for a requester of R191: the depot and the decoders do their work. The flag says that some block or word is uncorrected; the bytes are then those
that the state holds. -/
def State.meet (s : State) (a n source : Nat) : State × Bool :=
  if n = 0 then (s, false)
  else if isStacked a then
    if s.mpart.plain then (s, false)
    else (blocksOf a n).foldl (fun (s, e) b => let (s, e') := s.readBlock b source; (s, e || e')) (s, false)
  else s.meetWords (s.wordsIn a n)

/-- The way that holds a line. -/
def State.wayOf (s : State) (b : Nat) : Option Way := s.mpart.cache.findSome? fun p => p.2.ways.find? (·.line = b)

/-- A block that a read would not correct, wherever it lies. -/
def State.blockLost (s : State) (b : Nat) : Bool :=
  match s.wayOf b with
  | some w => w.errs.any (fun x => (wordFix x.2).isNone) && (w.old.isSome || s.unreadable (b * 128))
  | none => s.unreadable (b * 128)

/-- Some byte of the range would not be corrected. -/
def State.rangeUnreadable (s : State) (a n : Nat) : Bool :=
  if n = 0 then false
  else if isStacked a then !s.mpart.plain && (blocksOf a n).any s.blockLost
  else (s.wordsIn a n).any fun w => s.unreadable (4 * w)

/-- A part of one block of stacked memory is written (R453, R183); the flag says that the write was not performed. -/
def State.writeBlock (s : State) (b lo : Nat) (part : List Byte) (source : Nat) : State × Bool :=
  if s.cacheable (b * 128) && !s.cacheSlices.isEmpty then
    let (s, e) := s.lineUse b lo (lo + part.length) true source
    (if e then s else s.setBytes lo part, e)
  else if s.rowDead (b * 128) || s.carriageDead (addrCarriage (b * 128)) then (s.lostBlock b source, true)
  else if part.length = 128 then ((s.cleanBlock b).setBytes lo part, false)
  else
    let (s, e) := s.meetBlock b source
    (if e then s else (s.setSyms b []).setBytes lo part, e)

/-- Bytes written to memory block by block, or, on chip, word by word: a word that is written in part is read first (R177). The flag says that some part was not
performed. -/
def State.writeMem (s : State) (a : Nat) (bs : List Byte) (source : Nat) : State × Bool :=
  let n := bs.length
  if bs.isEmpty then (s, false)
  else if isStacked a then
    if s.mpart.plain then (s.setBytes a bs, false)
    else
      (blocksOf a n).foldl (fun (s, e) b =>
        let lo := max a (b * 128)
        let (s, e') := s.writeBlock b lo ((bs.drop (lo - a)).take (min (a + n) (b * 128 + 128) - lo)) source
        (s, e || e')) (s, false)
  else if s.mpart.words.isEmpty then (s.setBytes a bs, false)
  else
    let (s, e) := s.meetWords ((s.wordsIn a n).filter fun w => w * 4 < a || a + n < w * 4 + 4)
    let lost := (s.wordsIn a n).filter fun w => (w * 4 < a || a + n < w * 4 + 4) && s.unreadable (4 * w)
    let s := (s.wordsIn a n).foldl (fun s w => if lost.contains w then s else s.setWord w 0) s
    ((List.range n).foldl (fun s i => if lost.contains ((a + i) / 4) then s else s.setByte (a + i) (bs.getD i 0)) s, e)

/-! ### Writes while a checkpoint copies (R315) -/

/-- The pages (in MiB) of a range of stacked memory that a checkpoint has not read yet. -/
def State.unread (s : State) (a n : Nat) : List Nat :=
  if n = 0 || !isStacked a then []
  else s.ckpt.uncopied.filter fun p => a / mib ≤ p && p ≤ (a + n - 1) / mib && s.ckpt.taken.all (·.page ≠ p)

/-- The page of some byte of the range has not been read by a checkpoint yet, or a write to the range waits already. -/
def State.stallsAt (s : State) (a n : Nat) : Bool :=
  n ≠ 0 && isStacked a && (!(s.unread a n).isEmpty || s.ckpt.stalled.any fun w => a < w.addr + w.data.length && w.addr < a + n)

/-- A read of the device's own: its bytes, and the response of a read that fails. -/
def State.readOwn (s : State) (a n : Nat) : State × List Byte × Nat :=
  match s.barred [(a, n)] with
  | some r => (s, [], r.1)
  | none =>
    let (s, e) := s.meet a n 0
    (s, s.bytes a n, if e then 0x15 else 0)

/-- The copy's read of a page. -/
def State.readPage (s : State) (page : Nat) : State × List Byte × Nat := s.readOwn (page * mib) mib

/-- A write of the device's own finds uncopied pages: the copy reads each of them first. -/
def State.takePages (s : State) (ps : List Nat) : State :=
  s.forAll ps fun p s =>
    let (s, bs, resp) := s.readPage p
    { s with ckpt := { s.ckpt with taken := s.ckpt.taken ++ [⟨p, bs, resp⟩] } }

/-- A write of the device's own, after the copy's read of the pages that it finds uncopied. -/
def State.putMem (s : State) (a : Nat) (bs : List Byte) (source : Nat) : State × Bool :=
  let ps := s.unread a bs.length
  if ps.isEmpty then s.writeMem a bs source else ((s.count R.LXE_CKPT_STALL_CNT).takePages ps).writeMem a bs source

end Sys2Proof.Machine
end

