-- ==== Sys2Proof/Machine/LinkOps.lean ====
section
/-! DEFINITION. The link layer that the ports and the host link share: flits, sequence numbers, credits, replay (R223 to R226, R369), packets
and their routes (R228 to R234), violations (R235, R382), and host messages (R371, R377). -/
namespace Sys2Proof.Machine

/-- The link number of the host link; 0 to 6 are the ports (R214). -/
def hostLink : Nat := 7

/-- STATE of a port (R239): 0 disabled, 1 training, 2 active, 3 management-only, 4 fenced, 5 out of service. -/
def State.portState (s : State) (p : Nat) : Nat := s.fget (F.FAB_PORT_STS_STATE.page p)

def State.setPort (s : State) (p state cause : Nat) : State :=
  (s.fset (F.FAB_PORT_STS_STATE.page p) state).fset (F.FAB_PORT_STS_CAUSE.page p) cause

/-- The link carries flits: a port that is active or management-only, the host link when it is active (R239, R384). -/
def State.linkUp (s : State) (p : Nat) : Bool :=
  if p = hostLink then s.fget F.UCI_STS_LINK = 1 else s.portState p = 2 || s.portState p = 3

/-! ### Flits on the wire (R223, R224, R369) -/

/-- TYPE of a sequenced flit (R224). -/
def Flit.code : Flit → Nat
  | .data _ _ _ => 1
  | .hostData _ _ _ => 1
  | .abort _ _ _ _ _ => 2
  | .linkErr _ _ _ => 3
  | .retrainReq => 4
  | .key _ => 5

/-- Flits of a host message (R371). -/
def hostFlits (m : HostMsg) : Nat := ceilDiv (32 + (if m.body.isEmpty then 0 else m.len + 16)) 248

/-- VC, DL and LAST of a flit; on the host link VC is the class. -/
def Flit.place : Flit → Nat × Nat × Bool
  | .data p i _ => (p.vc, p.dl, i + 1 = p.flits)
  | .hostData m i _ => (m.cls, 0, i + 1 = hostFlits m)
  | _ => (0, 0, false)

/-- The payload of a flit, before it is filled up to 248 bytes (R224, R349). -/
def Flit.payload : Flit → List Byte
  | .data _ _ bs => bs
  | .hostData _ _ bs => bs
  | .abort step reason run domain origin => leBytes 8 step ++ leBytes 1 reason ++ leBytes 1 (run % 16) ++ leBytes 1 domain ++ leBytes 1 0 ++ leBytes 4 (origin % 2 ^ 18)
  | .linkErr code seq buf => leBytes 1 code ++ leBytes 2 seq ++ leBytes 1 buf
  | .retrainReq => []
  | .key gen => leBytes 4 gen

/-- A flit's 256 bytes: link header, payload, CRC-32C (R223). -/
def flitBytes (nak : Bool) (credit : Option Nat) (ack seq : Nat) (place : Nat × Nat × Bool) (code : Nat) (payload : List Byte) : List Byte :=
  let h := b2n nak * 2 ^ 31 + credit.getD 0 % 8 * 2 ^ 28 + ack % 1024 * 2 ^ 18 + seq % 1024 * 2 ^ 8 + b2n credit.isSome * 2 ^ 7 + b2n place.2.2 * 2 ^ 6 +
    place.2.1 % 2 * 2 ^ 5 + place.1 % 4 * 2 ^ 3 + code
  let bs := leBytes 4 h ++ padTo 248 payload
  bs ++ leBytes 4 (crc32c bs)

/-- The last sequence number accepted on a link. -/
def State.lastSeq (s : State) (p : Nat) : Nat := ((s.getLink p).rxExp + 1023) % 1024

/-- A held flit goes out. It acknowledges what has been accepted; NAK and credits go in IDLE flits (DESIGN CHOICE: R223 lets every flit carry them). -/
def State.emitFlit (s : State) (p : Nat) (x : Nat × Flit) : State :=
  s.emit (.flit p x.1 x.2 (flitBytes false none (s.lastSeq p) x.1 x.2.place x.2.code x.2.payload))

/-- An IDLE flit with an acknowledgement or a NAK. -/
def State.emitIdle (s : State) (p : Nat) (nak : Bool) (ack : Nat) : State := s.emit (.idle p nak ack (flitBytes nak none ack 0 (0, 0, false) 0 []))

/-- Buffer space that has been freed is returned 16 credits at a time, each 16 in an IDLE flit (R226). -/
def State.freeBuffer (s : State) (port buf n : Nat) : State :=
  let l := s.getLink port
  let c := tget (fun _ => 0) l.owed buf + n
  let s := s.setLink port { l with owed := tset (fun _ => 0) l.owed buf (c % 16) }
  (List.range (c / 16)).foldl (fun s _ => s.emit (.credit port buf (flitBytes false (some buf) (s.lastSeq port) 0 (0, 0, false) 0 []))) s

/-! ### Arbitration (R227) -/

/-- An item may send its next flit: the replay buffer of 512 flits has room, and, where it has not begun, the sender holds a credit for each
of its flits and does not stop for a retrain (R220, R225, R226). -/
def Link.mayGo (l : Link) (x : Item) : Bool :=
  l.unacked.length < 512 && (x.begun || x.buf = ctlBuf || (!l.quiet && x.flits.length ≤ tget (fun _ => 0) l.credits x.buf))

/-- No earlier item waits for the same buffer from the same input. -/
def Link.isHead (l : Link) (i : Nat) (x : Item) : Bool := (l.waiting.take i).all fun y => y.buf ≠ x.buf || y.src ≠ x.src

/-- The item of a VC that may send: the packet that has begun, else, in round robin among the inputs, a packet that may begin. -/
def Link.pick (l : Link) (vc : Nat) : Option Nat :=
  let xs := l.waiting.zipIdx.filter fun p => p.1.buf / 2 = vc
  match xs.find? (·.1.begun) with
  | some p => if l.mayGo p.1 then some p.2 else none
  | none =>
    let turn (x : Item) : Nat := (x.src + 8 - (tget (fun _ => 7) l.rr vc + 1) % 8) % 8
    ((xs.filter fun p => l.isHead p.2 p.1 && l.mayGo p.1).foldl (fun best p =>
      match best with
      | some b => if turn p.1 < turn b.1 then some p else some b
      | none => some p) (none : Option (Item × Nat))).map (·.2)

/-- VC0 and VC1 in weighted round robin: W0 flits of the one, then W1 of the other (DESIGN CHOICE: R227 names the weights and not the order in which the
turns begin). -/
def Link.pickData (l : Link) (w0 w1 : Nat) : Option Nat :=
  match l.pick 0, l.pick 1 with
  | some i, some j =>
    let stay := l.served < (if l.turn = 0 then w0 else w1) || (if l.turn = 0 then w1 else w0) = 0
    some (if stay = (l.turn = 0) then i else j)
  | some i, none => some i
  | none, j => j

/-- The source of an express interrupt. -/
def expressSrc : Nat := 8

/-- A REG_RESP stays behind the DMA_WR and normal INT that were queued before it (R380). -/
def Link.respWaits (l : Link) (i : Nat) (x : Item) : Bool :=
  (match x.flits with | .hostData m _ _ :: _ => m.mtype = 0x03 | _ => false) && (l.waiting.take i).any fun y => y.buf = 0 && y.src ≠ expressSrc

/-- The item whose flit takes the next slot. While nothing else qualifies IDLE flits pass, until VC3 may send again. The host link knows no order
among its classes, and takes what has waited longest (DESIGN CHOICE: R369 leaves R227 out). -/
def Link.nextItem (l : Link) (host : Bool) (w0 w1 : Nat) : Option Nat :=
  if host then
    match l.waiting.zipIdx.find? (·.1.begun) with
    | some p => if l.mayGo p.1 then some p.2 else none
    | none => (l.waiting.zipIdx.find? fun p => l.isHead p.2 p.1 && l.mayGo p.1 && !l.respWaits p.2 p.1).map (·.2)
  else
    (l.pick 4).orElse fun _ => (l.pick 2).orElse fun _ => (if 64 ≤ l.gap3 then l.pick 3 else none).orElse fun _ => (l.pickData w0 w1).orElse fun _ => l.pick 3

/-- The arbiter's memory after a flit of a VC from an input. -/
def Link.after (l : Link) (x : Item) : Link :=
  let vc := x.buf / 2
  let l := { l with gap3 := if vc = 3 then 0 else min (l.gap3 + 1) 64 }
  let l := if vc ≤ 3 && !x.begun then { l with rr := tset (fun _ => 7) l.rr vc x.src } else l
  if vc ≤ 1 then { l with turn := vc, served := if l.turn = vc then l.served + 1 else 1 } else l

/-! ### Packets on a link (R228, R233) -/

/-- FLITS of a packet (R228). -/
def flitsOf (vc bodyLen : Nat) : Nat := ceilDiv (32 + bodyLen + (if vc = 3 then 0 else 16)) 248

/-- The packet header's 32 bytes (R228). -/
def packetHeader (p : Packet) : List Byte :=
  leBytes 32 (p.pctr * 2 ^ 192 + p.step % 2 ^ 64 * 2 ^ 128 + p.epoch % 2 ^ 32 * 2 ^ 96 + p.bodyLen * 2 ^ 72 + p.ptype * 2 ^ 64 +
    p.src * 2 ^ 32 + p.flits * 2 ^ 24 + b2n p.y * 2 ^ 18 + p.dst)

/-- The key of a direction of a port: HKDF-SHA-256 of the job fabric key (R233). -/
def linkKey (fab : List Byte) (sender receiver port gen : Nat) : List Byte :=
  Config.hkdf fab [] (ascii "floval-link" ++ leBytes 4 sender ++ leBytes 4 receiver ++ leBytes 1 port ++ leBytes 4 gen)

/-- A packet's bytes on a port: its header, its body, sealed with the header as additional data except on VC3, and the tag. -/
def State.packetBytes (s : State) (port : Nat) (p : Packet) : List Byte :=
  let h := packetHeader p
  if p.vc = 3 then h ++ p.body
  else
    let key := linkKey (s.fabKey.getD []) (s.fget F.FAB_COORD_COORD) (s.fget (F.FAB_PORT_STS_PEER.page port)) port p.gen
    h ++ Config.gcmSeal key (BitVec.ofNat 96 (p.gen % 2 ^ 32 * 2 ^ 64 + p.pctr % 2 ^ 64)) h p.body

/-- The payloads of consecutive flits. -/
def payloads (n : Nat) (bs : List Byte) : List (List Byte) := (List.range n).map fun i => (bs.drop (248 * i)).take 248

/-- An item whose first flit goes out takes its credits; a packet gets its LINK_PCTR and generation, and is sealed (R226, R233). -/
def State.beginItem (s : State) (p : Nat) (x : Item) : State × Item :=
  let l := s.getLink p
  let paid := { l with credits := tset (fun _ => 0) l.credits x.buf (tget (fun _ => 0) l.credits x.buf - x.flits.length) }
  match x.flits with
  | .data k _ _ :: _ =>
    let k := if k.vc = 3 then { k with pctr := 0 } else { k with pctr := l.txPctr, gen := s.rd (pageReg R.FAB_KEY_GEN p) }
    (s.setLink p (if k.vc = 3 then paid else { paid with txPctr := l.txPctr + 1 }),
     { x with flits := (payloads k.flits (s.packetBytes p k)).zipIdx.map fun b => .data k b.2 b.1 })
  | _ => (if x.buf = ctlBuf then s else s.setLink p paid, x)

/-- A KEY flit is due before the item: a packet of VC0 to VC2 that begins a generation, or that LINK_PCTR's end makes begin one (R233). -/
def Link.keyDue (l : Link) (x : Item) : Bool :=
  !x.begun && (l.newKey || 2 ^ 48 ≤ l.txPctr) && (match x.flits with | .data k _ _ :: _ => k.vc ≠ 3 | _ => false)

/-- A flit takes its sequence number, is held for replay and goes out (R223, R225). -/
def State.sendFlit (s : State) (p : Nat) (f : Flit) : State :=
  let l := s.getLink p
  (s.setLink p { l with txNext := (l.txNext + 1) % 1024, unacked := l.unacked ++ [(l.txNext, f)] }).emitFlit p (l.txNext, f)

/-- The KEY flit that announces the generation. -/
def State.sendKey (s : State) (p : Nat) : State :=
  let l := s.getLink p
  let s := if 2 ^ 48 ≤ l.txPctr then (s.wr (pageReg R.FAB_KEY_GEN p) (s.rd (pageReg R.FAB_KEY_GEN p) + 1)).setLink p { l with txPctr := 0, newKey := false }
    else s.setLink p { l with newKey := false }
  s.sendFlit p (.key (s.rd (pageReg R.FAB_KEY_GEN p)))

/-- The next flit of waiting item i goes out. The buffer that a forwarded packet took is free once its last flit has gone. -/
def State.sendHead (s : State) (p i : Nat) (x : Item) : State :=
  let (s, y) := if x.begun then (s, x) else s.beginItem p x
  match y.flits with
  | [] => s.setLink p { s.getLink p with waiting := (s.getLink p).waiting.eraseIdx i }
  | f :: rest =>
    let l := (s.getLink p).after x
    let s := s.setLink p { l with waiting := if rest.isEmpty then l.waiting.eraseIdx i else l.waiting.set i { y with flits := rest, begun := true } }
    let s := s.sendFlit p f
    if rest.isEmpty then (match x.back with | some b => s.freeBuffer b.1 b.2 x.size | none => s) else s

/-- One flit slot of a link, none when nothing can be sent. -/
def State.sendSlot (s : State) (p : Nat) : Option State :=
  let l := s.getLink p
  (l.nextItem (p = hostLink) (s.fget F.FAB_ARB_W0) (s.fget F.FAB_ARB_W1)).bind fun i =>
    l.waiting[i]?.map fun x => if l.keyDue x then s.sendKey p else s.sendHead p i x

def State.sendSlots : Nat → State → Nat → State
  | 0, s, _ => s
  | n + 1, s, p => match s.sendSlot p with | some s => State.sendSlots n s p | none => s

/-- Sends what waits, flit by flit, as far as credits and the replay buffer allow. -/
def State.drainLink (s : State) (p : Nat) : State :=
  if s.linkUp p then State.sendSlots ((s.getLink p).waiting.foldl (fun n x => n + x.flits.length + 1) 0) s p else s

/-- Queues an item and sends what can be sent; an express interrupt goes ahead of what waits, behind those that are express (R380). -/
def State.queueItem (s : State) (p : Nat) (x : Item) : State :=
  let l := s.getLink p
  let express (y : Item) : Bool := y.src = expressSrc
  (s.setLink p { l with waiting := if express x then l.waiting.takeWhile express ++ x :: l.waiting.dropWhile express else l.waiting ++ [x] }).drainLink p

/-- A sequenced flit that is not DATA needs no credit, and comes before packets (R224, R227). -/
def State.sendControl (s : State) (p : Nat) (f : Flit) : State :=
  s.queueItem p { buf := ctlBuf, src := 7, back := none, size := 1, flits := [f], begun := false }

/-- A packet enters a port: from this device, or from the port `src`, whose buffer it takes until it has gone. -/
def State.sendOn (s : State) (port : Nat) (p : Packet) (src : Nat := 7) (back : Option (Nat × Nat) := none) : State :=
  s.queueItem port { buf := p.vc * 2 + p.dl, src := src, back := back, size := p.flits, flits := (List.range p.flits).map fun i => .data p i [], begun := false }

/-! ### Retrains (R220) -/

/-- A retrain: the port stops starting packets, and once every flit is acknowledged RETRAIN_REQ is sent and the port trains. -/
def State.retrainPort (s : State) (p : Nat) : State :=
  if s.linkUp p && p < 7 then
    let l := s.getLink p
    if l.unacked.isEmpty && l.waiting.all fun x => !x.begun then
      let s := (s.setLink p { l with quiet := true }).sendControl p .retrainReq
      (s.setPort p 1 0).setLink p { s.getLink p with retrain := true }
    else s.setLink p { l with quiet := true }
  else s

/-- What a link does when acknowledgements or credits have arrived: it sends what it can, and a retrain that waits for the last acknowledgement begins. -/
def State.serveLink (s : State) (p : Nat) : State :=
  let s := s.drainLink p
  if (s.getLink p).quiet then s.retrainPort p else s

/-! ### Received flits -/

/-- One of the modulo-1,024 sequence numbers held for replay. -/
def Link.holds (l : Link) (q : Nat) : Bool := l.unacked.any (·.1 = q)

/-- Everything up to a sequence number is acknowledged. -/
def Link.ackTo (l : Link) (q : Nat) : Link :=
  if l.holds q then { l with unacked := (l.unacked.dropWhile (·.1 ≠ q)).drop 1, resends := 0 } else l

/-- The buffers of R226 and R370 in flits, by CRD_BUF coding. -/
def bufSize (p buf : Nat) : Nat :=
  if p = hostLink then (if buf = 0 then 256 else if buf = 2 then 64 else if buf = 4 then 256 else 0)
  else if p = 6 && buf % 2 = 1 then 0
  else match buf / 2 with | 0 => 768 | 1 => 384 | 2 => 64 | _ => 32

/-- A violation by the partner or the host (R235, R382): counted, captured while VALID is 0, answered with LINKERR where it is the link's;
at VIOL_LIMIT the caller fences. How many of the host's earlier
violations lie within the second is a free value; a port's second ends with LANE_ERROR_WINDOW. buf is the flit's CRD_BUF coding. -/
def State.countViolation (s : State) (p code seq buf : Nat) : State :=
  let l := s.getLink p
  let (v, s) := if p = hostLink then s.fresh else (l.viol, s)
  let s := s.setLink p { l with viol := v % (l.viol + 1) + 1 }
  if p = hostLink then
    let s := s.count R.UCI_VIOL_CNT
    if s.flag F.UCI_VIOL_INFO_VALID then s else s.wr R.UCI_VIOL_INFO (2 ^ 31 + code * 2 ^ 16 + seq % 65536)
  else
    let s := s.count (pageReg R.FAB_VIOL_CNT p)
    if s.flag (F.FAB_VIOL_INFO_VALID.page p) then s
    else (s.wr (pageReg R.FAB_VIOL_INFO p) (2 ^ 31 + code * 2 ^ 16 + buf * 2 ^ 13 + seq % 1024)).event 7 1

/-- The limit of violations in one second (R235, R238, R382). -/
def State.violLimit (s : State) (p : Nat) : Nat :=
  max 1 (if p = hostLink then s.fget F.UCI_CFG_VIOL_LIMIT else s.fget (F.FAB_PORT_CTL_VIOL_LIMIT.page p))

/-! ### Packets (R228 to R231) -/

/-- A coordinate's part on an axis (R228). -/
def axisOf (c axis : Nat) : Nat := bits c (6 * axis + 5) (6 * axis)

/-- The torus size of an axis (R237). -/
def State.dimOf (s : State) (axis : Nat) : Nat :=
  1 + (match axis with | 0 => s.fget F.FAB_DIMS_SXM1 | 1 => s.fget F.FAB_DIMS_SYM1 | _ => s.fget F.FAB_DIMS_SZM1)

/-- The port by which coordinate c sends towards d (R229), none when they are equal. -/
def State.routeFrom (s : State) (c d : Nat) : Option Nat :=
  (List.range 3).findSome? fun axis =>
    let a := axisOf c axis
    let b := axisOf d axis
    if a = b then none
    else
      let n := s.dimOf axis
      let k := (b + n - a % n) % n
      some (if 2 * k ≤ n then 2 * axis else 2 * axis + 1)

/-- The hop by a torus port crosses the wrap link of its axis (R229). -/
def State.wraps (s : State) (c port : Nat) : Bool :=
  let a := axisOf c (port / 2)
  if port % 2 = 0 then a + 1 = s.dimOf (port / 2) else a = 0

/-- The logical-to-physical translation of R231; none for an invalid entry. -/
def State.mapCoord (s : State) (x : Nat) : Option Nat :=
  match s.map with
  | none => if (List.range 3).all fun axis => axisOf x axis < s.dimOf axis then some x else none
  | some t =>
    let e := (tget (fun _ => (0 : Word)) t (axisOf x 2 * 4096 + axisOf x 1 * 64 + axisOf x 0)).toNat
    if bit e 31 then some (bits e 17 0) else none

/-- A packet whose route needs a port that is not active is dropped (R234): on VC0 and VC1 its source is told, which
may be this device itself. -/
def unreachable (s : State) (me : Nat) (p : Packet) : Packet :=
  { vc := 2, dl := 0, pctr := 0, step := 0, epoch := s.rd R.CXE_EPOCH, bodyLen := 32, ptype := 0x01, src := me, flits := flitsOf 2 32, y := false,
    dst := p.src, body := packetHeader p, gen := 0, resv := false, lastOk := true, credit := true, tagOk := true, hdrs := [] }

/-- The port carries a VC: active for all, management-only for VC3 alone (R230). While it retrains its packets wait, since a retrain loses nothing (R220). -/
def State.carries (s : State) (port vc : Nat) : Bool :=
  let l := s.getLink port
  s.portState port = 2 || (s.portState port = 3 && vc = 3) || (s.portState port = 1 && l.retrain && (vc = 3 || !l.mgmtOnly))

/-- Injection and forwarding of a packet (R229, R234). `from'` is the port it arrived on, none at its source. -/
def State.launch (s : State) (from' : Option Nat) (p : Packet) : State :=
  let me := s.fget F.FAB_COORD_COORD
  let out : Option Nat := if p.y && from'.isNone then some 6 else s.routeFrom me p.dst
  let back := from'.map fun f => (f, p.vc * 2 + p.dl)
  match out with
  | none => s.emit (.loopback p)
  | some port =>
    if s.carries port p.vc then
      let cont := match from' with | some f => f / 2 = port / 2 && f ≠ 6 | none => false
      let dl := if port = 6 then 0 else if s.wraps me port then 1 else if cont then p.dl else 0
      s.sendOn port { p with dl := dl, hdrs := [] } (from'.getD 7) back
    else
      let s := s.count R.FAB_UNREACH_CNT
      let s := match back with | some b => s.freeBuffer b.1 b.2 p.flits | none => s
      if p.vc ≤ 1 then
        let u := unreachable s me p
        match s.routeFrom me u.dst with
        | some q => if s.carries q 2 then s.sendOn q { u with dl := b2n (s.wraps me q) } else s.count R.FAB_UNREACH_CNT
        | none => s.emit (.loopback u)
      else s

/-- A packet made by this device for a physical coordinate. -/
def State.mkPacket (s : State) (vc ptype dst : Nat) (y : Bool) (step epoch : Nat) (body : List Byte) : Packet :=
  { vc := vc, dl := 0, pctr := 0, step := step, epoch := epoch, bodyLen := body.length, ptype := ptype, src := s.fget F.FAB_COORD_COORD,
    flits := flitsOf vc body.length, y := y, dst := dst, body := body, gen := 0, resv := false, lastOk := true, credit := true, tagOk := true, hdrs := [] }

/-! ### Host messages (R371, R377) -/

def hostHeader (m : HostMsg) : List Byte :=
  leBytes 32 (m.addr % 2 ^ 64 * 2 ^ 192 + m.data % 2 ^ 32 * 2 ^ 160 + m.tag % 2 ^ 16 * 2 ^ 144 + m.queue % 2 ^ 14 * 2 ^ 130 +
    m.ctx % 64 * 2 ^ 124 + m.len % 2 ^ 13 * 2 ^ 111 + m.status % 256 * 2 ^ 96 + m.mctr % 2 ^ 64 * 2 ^ 32 + m.mtype % 256)

/-- The checkpoint key in a slot (R401); empty where the slot holds none. -/
def State.slotKey (s : State) (n : Nat) : List Byte :=
  match tget (fun _ => (none : Option Slot)) s.slots n with
  | some k => if k.purpose = 3 then k.key else []
  | none => []

/-- The DMA key of a context: that of the slot its KEYSLOT names, if the slot is for DMA and the context owns it (R377, R401). -/
def State.dmaKey (s : State) (ctx : Nat) : Option (List Byte) :=
  match tget (fun _ => (none : Option Slot)) s.slots (s.getC ctx).keyslot with
  | some k => if (s.getC ctx).keyslot ≠ 0 && k.purpose = 1 && k.owner = ctx then some k.key else none
  | none => none

/-- A message of the host transport: its body sealed under the context's key where it has one, its flits queued in its class. -/
def State.sendHost (s : State) (m : HostMsg) (front : Bool := false) : State :=
  let key := (s.dmaKey m.ctx).getD []
  let nonce : BitVec 96 := BitVec.ofNat 96 (0x01 * 2 ^ 88 + m.ctx * 2 ^ 80 + m.mctr)
  let wire := if m.body.isEmpty then [] else Config.gcmSeal key nonce (hostHeader m) m.body
  let fs := (payloads (hostFlits m) (hostHeader m ++ wire)).zipIdx.map fun b => Flit.hostData m b.2 b.1
  (s.emit (.host m wire)).queueItem hostLink { buf := m.cls * 2, src := if front then expressSrc else 7, back := none, size := fs.length, flits := fs, begun := false }

/-- A host message without a body. -/
def mkHost (mtype cls addr data tag status : Nat) : HostMsg :=
  { mtype := mtype, cls := cls, addr := addr, data := data, tag := tag, queue := 0, ctx := 0, len := 0, status := status, mctr := 0, body := [],
    resv := false, tagOk := true, lastOk := true, credit := true, hdrs := [] }

/-- A DMA_WR of a context's bytes to host memory: MCTR counts per context and direction (R377). -/
def State.dmaWrite (s : State) (ctx queue addr : Nat) (bs : List Byte) (kind : ReqKind) : State :=
  let ctr := tget (fun _ => 0) s.host.txCtr ctx
  let tag := s.host.nextTag
  let s := { s with host := { s.host with
    txCtr := tset (fun _ => 0) s.host.txCtr ctx (ctr + 1), nextTag := (tag + 1) % 65536,
    reqs := s.host.reqs ++ [({ tag := tag, kind := kind, ctx := ctx, addr := addr, len := bs.length } : HostReq)] } }
  s.sendHost { mkHost 0x10 0 addr 0 tag 0 with queue := queue, ctx := ctx, len := bs.length, mctr := ctr, body := bs }

/-- A DMA_RD request. -/
def State.dmaRead (s : State) (ctx queue addr len : Nat) (kind : ReqKind) : State :=
  let tag := s.host.nextTag
  let s := { s with host := { s.host with nextTag := (tag + 1) % 65536, reqs := s.host.reqs ++ [({ tag := tag, kind := kind, ctx := ctx, addr := addr, len := len } : HostReq)] } }
  s.sendHost { mkHost 0x11 1 addr 0 tag 0 with queue := queue, ctx := ctx, len := len }

end Sys2Proof.Machine
end

