-- ==== Sys2Proof/Machine/QueueOps.lean ====
section
/-! DEFINITION. What queues, records and sync counters do (04_engines_and_command_lists): ring entries and record headers, waits and signals,
completion records, the ends of records, rewinding. -/
namespace Sys2Proof.Machine

/-! ### Record headers (R93) -/

/-- Bits hi to lo of a command record. -/
def fieldOf (w : RecWord) (hi lo : Nat) : Nat := bits w.toNat hi lo

def recOpcode (w : RecWord) : Nat := fieldOf w 7 0
def recWaitEn (w : RecWord) : Bool := bit w.toNat 8
def recSigEn (w : RecWord) : Bool := bit w.toNat 9
def recSerial (w : RecWord) : Bool := bit w.toNat 10
def recCmpl (w : RecWord) : Bool := bit w.toNat 11
def recWaitCtr (w : RecWord) : Nat := fieldOf w 29 16
def recSigCtr (w : RecWord) : Nat := fieldOf w 45 32
def recSigAdd (w : RecWord) : Nat := fieldOf w 63 48
def recWaitValue (w : RecWord) : Nat := fieldOf w 95 64
def recTag (w : RecWord) : Nat := fieldOf w 127 96

/-- The header's reserved bits are zero (R93). -/
def recHeaderOk (w : RecWord) : Bool := fieldOf w 15 12 = 0 && fieldOf w 31 30 = 0 && fieldOf w 47 46 = 0

/-! ### Ring entries (R90) -/

structure Entry where
  step  : Nat
  count : Nat
  addr  : Nat
  resv  : Nat
deriving DecidableEq, Repr

def entryOfNat (n : Nat) : Entry := { step := bits n 127 64, count := bits n 63 48, addr := bits n 32 0 * 64, resv := bits n 47 33 }

/-- Whether a queue belongs to the host transport, whose ring and records lie in host memory (R375). -/
def isHostQueue (q : Nat) : Bool := queueEngine q = 15

/-- A fetch of 16 or 64 bytes of ring or waybill: the number they hold, or the response and detail of the refusal (R97, R169, R175, R340);
for the host transport, what has been fetched from host memory. -/
def State.fetchMem (s : State) (q a n : Nat) : Except (Nat × Nat) Nat :=
  if isHostQueue q then .ok (leNat ((List.range n).map fun i => tget memDefault (s.getQ q).host (a + i)))
  else if !isStacked a then .error (0x11, 1)
  else if isReserved a then .error (0x11, 3)
  else if s.pageRetired a then .error (0x11, 5)
  else if s.addrFenced a then .error (0x19, 0)
  else if s.rangeUnreadable a n then .error (0x15, 1)
  else .ok (s.num a n)

/-- The fetch as the depot and the decoders see it (R161, R175, R191). -/
def State.fetchSeen (s : State) (q a n : Nat) : State :=
  if isHostQueue q || !isStacked a || isReserved a || s.pageRetired a || s.addrFenced a then s else (s.meet a n 0).1

/-- The ring entry at HEAD. -/
def State.headEntry (s : State) (q : Nat) : Except (Nat × Nat) Entry :=
  match s.fetchMem q ((s.getQ q).base + 16 * (s.getQ q).head) 16 with
  | .ok n => .ok (entryOfNat n)
  | .error e => .error e

/-- The entry at HEAD, with zeros where it cannot be fetched. -/
def State.entryD (s : State) (q : Nat) : Entry :=
  match s.headEntry q with
  | .ok e => e
  | .error _ => entryOfNat 0

/-- Record i of the entry at HEAD. -/
def State.recordAt (s : State) (q i : Nat) : Except (Nat × Nat) RecWord :=
  match s.fetchMem q ((s.entryD q).addr + 64 * i) 64 with
  | .ok n => .ok (BitVec.ofNat 512 n)
  | .error e => .error e

/-- The index of the queue's first unstarted record: one that RESUME retries first, else the next of the entry. -/
def Queue.first (q : Queue) : Nat := q.redo.headD q.next

/-- The entry at HEAD has a record that has not started. -/
def State.hasUnstarted (s : State) (q : Nat) : Bool :=
  let x := s.getQ q
  x.head ≠ x.tail && (!x.redo.isEmpty || x.next < (s.entryD q).count)

/-- The context of a queue. -/
def State.ctxOf (s : State) (q : Nat) : Ctx := s.getC (s.getQ q).ctx

/-- Step P is in progress: issued, or between a rewind and the next issue of a run, or sealed and not yet at its boundary. -/
def State.inProgress (s : State) : Bool := !s.atBoundary

/-- A step that has sealed and whose boundary has not been reached yet. -/
def State.sealing (s : State) : Bool := s.inProgress && s.pos.lastSealed = some s.stepNum

/-- R92: an entry of a stepped context starts only in its own step, once that step has been issued; the records of an entry that has passed its
checks still start after the seal, since the boundary waits for them (R21). -/
def State.stepPermits (s : State) (q : Nat) : Bool :=
  !(s.ctxOf q).stepped || ((s.pos.issued || s.sealing) && (s.entryD q).step = s.stepNum)

/-- R92: an entry of a stepped context for a step before the one in progress or for a sealed one. -/
def State.staleStep (s : State) (q : Nat) : Bool :=
  (s.ctxOf q).stepped &&
    ((match s.pos.lastSealed with | some n => (s.entryD q).step ≤ n | none => false) || (s.pos.issued && (s.entryD q).step < s.stepNum))

/-- R89, R97: COUNT 0, a reserved bit, or a waybill outside the stacked-memory window of its context (for the host transport no window
applies, R375). -/
def State.badEntry (s : State) (q : Nat) : Bool :=
  let e := s.entryD q
  let c := s.ctxOf q
  e.count = 0 || e.resv ≠ 0 ||
    (!isHostQueue q && (c.winLimit < c.winBase || !isStacked e.addr || e.addr / mib < c.winBase || c.winLimit < (e.addr + 64 * e.count - 1) / mib ||
      !isStacked (e.addr + 64 * e.count - 1)))

/-! ### Waits and signals (R99 to R101, R128, R130) -/

/-- R100: the wait on a counter value is met. -/
def waitReached (ctr value : Nat) : Bool := (ctr % 2 ^ 32 + 2 ^ 32 - value % 2 ^ 32) % 2 ^ 32 < 2 ^ 31

/-- R100: after a change of counter c, every first unstarted record that waits on it and is met now keeps its wait met. -/
def State.noteWaits (s : State) (c : Nat) : State :=
  s.forAll s.queueNumbers fun q s =>
    let x := s.getQ q
    if x.en && x.entryOk && !x.waitMet && s.hasUnstarted q then
      match s.recordAt q x.first with
      | .ok w =>
        if recWaitEn w && recWaitCtr w = c && waitReached (s.getCtr c) (recWaitValue w) then s.setQ q { x with waitMet := true } else s
      | .error _ => s
    else s

/-- R128: how far a phase counter has moved since the boundary. -/
def State.phaseDelta (s : State) (c : Nat) : Nat := (s.getCtr c + 2 ^ 64 - s.getBound c) % 2 ^ 64

/-- R128: carriage n's phase P, 0 to 3, from the configuration read at issue. -/
def State.phaseOf (s : State) (n : Nat) : Nat := min (s.phaseDelta ((bits s.pos.cfg.toNat 29 16 + n) % 16384)) 3

def State.setPhase (s : State) (p : Nat) : State := s.fset F.HUB_STEP_STS_PHASE p

/-- R130: schedule core 0 moves PHASE from 0b001 upwards as the conditions hold; nothing moves it in other phases. -/
def State.syncPhase (s : State) : State :=
  if !s.pos.issued then s
  else
    let least := min (min (s.phaseOf 0) (s.phaseOf 1)) (min (s.phaseOf 2) (s.phaseOf 3))
    let upd := s.phaseDelta ((bits s.pos.cfg.toNat 29 16 + 4) % 16384) ≥ 1
    let adv (s : State) : State :=
      match s.fget F.HUB_STEP_STS_PHASE with
      | 1 => if least ≥ 1 then s.setPhase 2 else s
      | 2 => if least ≥ 2 then s.setPhase 3 else s
      | 3 => if least ≥ 3 then s.setPhase 4 else s
      | 4 => if upd then s.setPhase 5 else s
      | _ => s
    adv (adv (adv (adv s)))

/-- A change of a counter: its value, the waits on it, the phase (R99, R100, R130). -/
def State.changeCtr (s : State) (c v : Nat) : State := ((s.putCtr c v).noteWaits c).syncPhase

/-- A signal: an atomic add modulo 2^64 (R99, R101). -/
def State.signal (s : State) (c n : Nat) : State := s.changeCtr c ((s.getCtr c + n) % 2 ^ 64)

/-! ### State ranges and the guard (R267, R288) -/

/-- An enabled range (its two register words) holds some byte of n from an address, or all of them. -/
def rangeTouches (r : Nat × Nat) (a n : Nat) : Bool :=
  bit r.1 31 && n ≠ 0 && isStacked a && bits r.1 19 0 ≤ (a + n - 1) / mib && a / mib ≤ bits r.2 19 0 && bits r.1 19 0 ≤ bits r.2 19 0

def rangeHolds (r : Nat × Nat) (a n : Nat) : Bool :=
  bit r.1 31 && isStacked a && bits r.1 19 0 ≤ a / mib && (a + n - 1) / mib ≤ bits r.2 19 0

def State.inStateRange (s : State) (a n : Nat) : Bool := s.mpart.srCur.any fun r => rangeTouches r a n

/-- R267: the guard refuses a write of n bytes for a context that no record of a window makes. -/
def State.guardedCtx (s : State) (ctx a n : Nat) : Bool :=
  s.flag F.LXE_CFG_GUARD_EN && s.inStateRange a n && !(!(s.getC ctx).stepped && s.atBoundary)

/-! ### Completion records (R98) -/

/-- The 16 bytes of a completion record. -/
def complBytes (step entry idx detail resp queue tag : Nat) : List Byte :=
  leBytes 16 (step % 2 ^ 32 * 2 ^ 96 + entry % 2 ^ 16 * 2 ^ 80 + idx % 2 ^ 16 * 2 ^ 64 + detail % 256 * 2 ^ 56 + resp % 256 * 2 ^ 48 +
    queue % 2 ^ 14 * 2 ^ 32 + tag % 2 ^ 32)

/-- The interrupts of a completion record that has been written (R98, R353). -/
def State.complRaise (s : State) (ctx : Nat) (err : Bool) : State :=
  let s := s.raise ctx
  if err then s.raise (0x040 + ctx) else s

/-- Sends the first completion record that waits for a ring in host memory (R375). -/
def State.sendCompl (s : State) (ctx queue : Nat) : State :=
  let c := s.getC ctx
  match c.crWait with
  | [] => s
  | (bs, _) :: _ => s.dmaWrite ctx queue (c.crBase % 2 ^ 63 + 16 * c.crTail) bs (.compl ctx)

/-- A write of the device to a ring may be performed at an address (R98): inside the regions of R4, not reserved, not retired. -/
def State.ringWritable (s : State) (a : Nat) : Bool :=
  (isStacked a && !isReserved a && !s.pageRetired a) || (isDepot a && s.depotScratch a)

/-- R98: the completion record of a record of a context, written, dropped with CR_OVF (so is one that the guard of R267 refuses, or one for host memory
from a context without a DMA key, DEDUCED), or sent to host memory. -/
def State.complete (s : State) (ctx step entry idx queue tag resp detail : Nat) (cmpl : Bool) : State :=
  if !cmpl && resp = 0 then s
  else
    let c := s.getC ctx
    let size := 2 ^ c.crSize
    let bs := complBytes step entry idx detail resp queue tag
    let ovf (s : State) : State := s.setC ctx { (s.getC ctx) with crOvf := true }
    if (c.crTail + c.crWait.length + 1) % size = c.crHead % size then ovf s
    else if bit c.crBase 63 then
      if (s.dmaKey ctx).isNone then ovf s
      else
      let s := s.setC ctx { c with crWait := c.crWait ++ [(bs, resp != 0)] }
      if c.crWait.isEmpty then s.sendCompl ctx queue else s
    else
      let a := c.crBase + 16 * c.crTail
      if !s.ringWritable a then ovf s
      else if s.guardedCtx ctx a 16 then ovf (s.count R.LXE_GUARD_CNT)
      else
        let (s, bad) := s.putMem a bs 0
        if bad then ovf s
        else (s.setC ctx { (s.getC ctx) with crTail := (c.crTail + 1) % size }).complRaise ctx (resp != 0)

/-! ### How records end -/

/-- Does the response stop the queue on error (R97, R255, R291, R331, R378)? Every non-OK response does except DATA_EXCEPTION,
UNCORRECTED of a record that ran, and ABORTED. -/
def respStops (resp : Nat) (started : Bool) : Bool :=
  !(resp = 0 || resp = 1 || resp = 0x16 || resp = 0x2A || (resp = 0x15 && started))

/-- Does a record with this response signal (R97)? -/
def respSignals (resp : Nat) (started : Bool) : Bool := resp = 0 || resp = 1 || resp = 0x2A || (resp = 0x15 && started)

/-- The entry's record count has ended: HEAD moves to the next entry (R90), whose checks are still to come; SAFE follows HEAD in an
unstepped context (R120). -/
def State.advanceHead (s : State) (q : Nat) : State :=
  let x := s.getQ q
  if x.head ≠ x.tail && x.entryOk && x.ended ≥ (s.entryD q).count then
    let h := (x.head + 1) % 2 ^ x.sizeLog2
    s.setQ q { x with
      head := h, next := 0, ended := 0, entryOk := false, waitMet := false, checked := false, failed := [], redo := [], host := [],
      got := 0, safe := if (s.ctxOf q).stepped then x.safe else h }
  else s

/-- A queue keeps a non-OK response in QUE_STS (R106). -/
def State.noteResp (s : State) (q resp detail : Nat) : State :=
  if resp = 0 then s else s.setQ q { (s.getQ q) with resp := resp, detail := detail }

/-- The queue stops on error (R97). -/
def State.stopOnError (s : State) (q : Nat) : State := s.setQ q { (s.getQ q) with mode := .error }

/-- Takes every record in flight of a predicate away without completing it (R121, R123, R343). -/
def State.discardFlights (s : State) (p : Flight → Bool) : State :=
  { s with que := { s.que with flights := s.que.flights.filter fun f => !p f } }

/-- The queue's STATE in QUE_STS (R106): a guilty context's queues read 7 (R124), a disabled or stopped one's once their records in flight have
retired (R108), whatever else they have stopped on. -/
def State.queueState (s : State) (q : Nat) : Nat :=
  let x := s.getQ q
  let c := s.ctxOf q
  let running := s.que.flights.any (·.queue = q)
  let held := c.mark = .guilty || (!running && (!c.en || c.mark ≠ .none || x.mode = .ctxStop))
  if x.mode = .reset then 6
  else if x.en && held then 7
  else if x.mode = .error then 5
  else if running then 2
  else if !x.en then 0
  else if x.mode = .stop then 4
  else if x.head = x.tail then 1
  else 3

/-- The fence of a domain is complete, or the domain is out of service: it changes nothing outside itself (R340, R345). -/
def State.fenceDone (s : State) (d : Nat) : Bool :=
  ((s.recov.cur.toList ++ s.recov.waiting).any fun q => 2 ≤ q.stage && domainContains q.domain d) || (s.recov.held.any fun x => domainContains x d) ||
    s.domOos d || ([1, 2, 3, 4].any fun c => domainContains c d && s.domOos c)

def State.halted (s : State) (e : Nat) : Bool := s.fenceDone (0x10 + e)

/-! ### Doorbells (R91) -/

/-- A domain out of service stops stepped work (R345). -/
def State.stepsBarred (s : State) : Bool :=
  s.fget F.HUB_OOS0_ENGINE ≠ 0 || s.fget F.HUB_OOS0_MEM ≠ 0 || s.fget F.HUB_OOS1_CARRIAGE ≠ 0 || s.domOos 0x40 || s.domOos 0x41

/-- What R91 asks of a doorbell for a context and a queue. A device that has stopped under STANDBY (R306) or that a domain out of service keeps
from stepped work (R345) refuses those of stepped contexts; a guilty context's are rejected (R124), and those of a fenced engine (R340). -/
def State.bellFits (s : State) (ctx q tail : Nat) : Bool :=
  let x := s.getQ q
  let c := s.getC ctx
  queueEngine q ≤ 15 && x.ctx = ctx && x.en && x.mode ≠ .reset && c.en && c.mark ≠ .guilty && tail < 2 ^ x.sizeLog2 &&
    !(c.stepped && (s.rcv.stopped || s.stepsBarred)) && !s.fenced (0x10 + queueEngine q)

/-- A doorbell on a context's page is accepted. Doorbells are refused once the Ostler has stopped (R17). -/
def State.doorbellOk (s : State) (ctx q tail : Nat) : Bool := !s.ostlerStopped && s.bellFits ctx q tail

/-- A record of a context may ring a doorbell. Those that a step's own records ring (LX_WINDOW, HT_RING) are accepted though the Ostler has stopped,
so that the device finishes its current step (R17). -/
def State.innerBellOk (s : State) (own ctx q tail : Nat) : Bool := ((s.getC own).stepped || !s.ostlerStopped) && s.bellFits ctx q tail

/-- TAIL is set. -/
def State.setTail (s : State) (q tail : Nat) : State := s.setQ q { s.getQ q with tail := tail }

/-- A doorbell: TAIL is set, or the doorbell is counted as rejected. -/
def State.ring (s : State) (ctx q tail : Nat) : State :=
  if s.doorbellOk ctx q tail then s.setTail q tail
  else s.setC ctx { s.getC ctx with dbRej := min ((s.getC ctx).dbRej + 1) 0xFFFF }

/-- The bytes of a ring entry (R90). -/
def entryBytes (step count addr : Nat) : List Byte := leBytes 16 (step % 2 ^ 64 * 2 ^ 64 + count % 2 ^ 16 * 2 ^ 48 + addr / 64 % 2 ^ 33)

/-- The entry of ring index e has left the ring. -/
def Queue.passed (x : Queue) (e : Nat) : Bool :=
  let n := 2 ^ x.sizeLog2
  (x.tail + n - x.head % n) % n ≤ (e + n - x.head % n) % n

/-! ### Rewinding (R121, R122) -/

/-- The queue of a stepped context, enabled or not, goes back to the boundary; RESP and DETAIL stay. -/
def State.rewindQueue (s : State) (q : Nat) : State :=
  let x := s.getQ q
  if (s.ctxOf q).stepped && x.mode ≠ .reset then
    s.setQ q { x with
      head := x.bhead, next := 0, ended := 0, entryOk := false, waitMet := false, checked := false, failed := [], redo := [], host := [], got := 0, fetching := false,
      mode := if x.mode = .error then .run else x.mode }
  else s

/-- Every counter of a stepped context goes back to its boundary copy; the pending store stays. A wait on a counter that changes so is tested
afresh (R100). -/
def State.restoreCounters (s : State) : State :=
  let keep (k : Nat) : Bool := !(s.getC (ctrOwner k)).stepped
  let t : State := { s with syn := { s.syn with
      ctr := (s.syn.bound.filter fun p => !keep p.1).foldl (fun t p => tset zero64 t p.1 p.2) (s.syn.ctr.filter fun p => keep p.1) } }
  t.forAll (((s.syn.ctr ++ s.syn.bound).map (·.1)).filter fun k => !keep k && t.getCtr k ≠ s.getCtr k) fun k t => t.noteWaits k

/-- R121: engines discard the records of stepped contexts in flight without completion records, and queues and counters rewind. -/
def State.rewind (s : State) : State :=
  let s := s.discardFlights fun f => (s.getC f.ctx).stepped
  (s.forAll s.queueNumbers fun q s => s.rewindQueue q).restoreCounters

/-- R103, R120: at the seal, every stepped queue's BHEAD and SAFE take HEAD, and the counters of stepped contexts are copied. -/
def State.sealQueues (s : State) : State :=
  let s := s.forAll s.queueNumbers fun q s =>
    if (s.ctxOf q).stepped then let x := s.getQ q; s.setQ q { x with bhead := x.head, safe := x.head } else s
  let keep (k : Nat) : Bool := !(s.getC (ctrOwner k)).stepped
  { s with syn := { s.syn with
      bound := (s.syn.ctr.filter fun p => !keep p.1).foldl (fun t p => tset zero64 t p.1 p.2) (s.syn.bound.filter fun p => keep p.1) } }

end Sys2Proof.Machine
end

