-- ==== Sys2Proof/Machine/Units.lean ====
section
/-! DEFINITION. Units that wear and fail: the unit history (R296, R297), row remapping and page retirement (R182 to R185), and the moves of
logical names between physical units at the moments of R293. -/
namespace Sys2Proof.Machine

/-! ### Row remaps (R182 to R185) -/

/-- The parts of a row's number (R296): pseudo-channel, stack, bank, row. -/
def rowPch (r : Nat) : Nat := r / 2 ^ 24
def rowStack (r : Nat) : Nat := r / 2 ^ 21 % 8
def rowBank (r : Nat) : Nat := r / 2 ^ 17 % 16
def rowRow (r : Nat) : Nat := r % 2 ^ 17

/-- Two rows lie in one bank of one pseudo-channel. -/
def sameBank (a b : Nat) : Bool := a / 2 ^ 17 = b / 2 ^ 17

/-- Spare rows of a row's bank that have been used, failed ones among them (R184). -/
def State.sparesUsed (s : State) (r : Nat) : Nat :=
  (s.mpart.remap.filter fun x => sameBank x.row r).foldl (fun n x => max n (x.spare + 1)) 0

/-- The block (address div 128) of column c of a row: the inverse of R167. -/
def rowBlock (r c : Nat) : Nat :=
  let n := rowStack r / 2
  let ch := rowStack r % 2 * 32 + rowPch r
  let w := rowRow r * 128 + rowBank r * 8 + c
  let lo := ch ^^^ (w / 64 % 64)
  n * (carSpan / 128) + w * 64 + lo

/-- The 64 KiB page of a row (R168, R185): address div 65,536. -/
def rowPage (r : Nat) : Nat := rowStack r / 2 * (carSpan / 65536) + rowRow r * 16 + rowBank r

/-- A memory-channel domain goes out of service in HUB_OOS0 (R181, R185). -/
def State.memOut (s : State) (stack : Nat) : State :=
  (s.wr R.HUB_OOS0 (setBits (s.rd R.HUB_OOS0) (24 + stack) (24 + stack) 1)).setDomState (0x30 + stack) 5

/-- One column of a row is copied to its spare (R182, R183): the flag says that the block is uncorrected, and is poisoned, with zeros where no depot line
holds it. -/
def State.copyColumn (s : State) (b : Nat) : State × Bool :=
  let (s, e) := s.meetBlock b 2
  let s := s.setSyms b []
  if e then
    let s := if (s.wayOf b).isSome then s else s.setBytes (b * 128) (List.replicate 128 0)
    ({ s with mpart := { s.mpart with bad := s.mpart.bad.filter (· ≠ b) } }, true)
  else (s, false)

/-- One candidate row is remapped to the next spare of its bank, its uncorrectable blocks poisoned; with no spare left its page is retired,
or, beyond 1,024 pages of a carriage, the row stays uncorrected and both domains of the carriage go out of service. -/
def State.repairRow (s : State) (r : Nat) : State :=
  let n := rowStack r / 2
  let used := s.sparesUsed r
  let s := s.noteUnit 7 n (r % 2 ^ 24) 0x0A (rowPch r)
  if used < 8 then
    let (s, mask) := (List.range 8).foldl (fun (s, m) c => let (s, e) := s.copyColumn (rowBlock r c); (s, m + b2n e * 2 ^ c)) (s, 0)
    { s with mpart := { s.mpart with remap := s.mpart.remap.filter (·.row ≠ r) ++ [⟨r, used, mask⟩], cands := s.mpart.cands.filter (· ≠ r) } }
  else if (s.mpart.retired.filter fun p => p / (carSpan / 65536) = n).length < 1024 then
    if s.mpart.retired.contains (rowPage r) then s
    else (({ s with mpart := { s.mpart with retired := s.mpart.retired ++ [rowPage r] } }).raise (0x0A0 + n)).notify 7 s.stepNum
  else ((({ s with mpart := { s.mpart with deadRows := r :: s.mpart.deadRows } }).memOut (2 * n)).memOut (2 * n + 1))

/-- R182: every candidate is repaired, at a boundary or in a rewind. -/
def State.applyRemaps (s : State) : State :=
  let rows := s.mpart.cands
  ({ s with mpart := { s.mpart with cands := [] } }).forAll rows fun r s => s.repairRow r

/-! ### The spare role (R292 to R299) -/

/-- State of physical core p of carriage n (R295). -/
def State.coreState (s : State) (n p : Nat) : Nat := bits (s.rd (carReg R.CAR_CORE_STS n)) (3 * p + 2) (3 * p)

def State.setCoreState (s : State) (n p v : Nat) : State :=
  s.wr (carReg R.CAR_CORE_STS n) (setBits (s.rd (carReg R.CAR_CORE_STS n)) (3 * p + 2) (3 * p) v)

/-- The logical name of a physical core. -/
def State.coreName (s : State) (n p : Nat) : Option Nat := (List.range 8).find? fun i => s.coreOf n i = p

def State.setCoreOf (s : State) (n i p : Nat) : State :=
  s.wr (carReg R.CAR_CORE_MAP n) (setBits (s.rd (carReg R.CAR_CORE_MAP n)) (4 * i + 3) (4 * i) p)

/-- The physical lane group behind logical lane group i of carriage n. -/
def State.groupOf (s : State) (n i : Nat) : Nat := bits (s.rd (carReg (R.CAR_VX_MAP0 + 4 * (i / 4)) n)) (8 * (i % 4) + 4) (8 * (i % 4))

def State.setGroupOf (s : State) (n i g : Nat) : State :=
  let k := carReg (R.CAR_VX_MAP0 + 4 * (i / 4)) n
  s.wr k (setBits (s.rd k) (8 * (i % 4) + 4) (8 * (i % 4)) g)

def State.vxSpare (s : State) (n : Nat) : Nat := bits (s.rd (carReg R.CAR_VX_MAP n)) 28 24

def State.setVxSpare (s : State) (n g : Nat) : State :=
  s.wr (carReg R.CAR_VX_MAP n) (setBits (s.rd (carReg R.CAR_VX_MAP n)) 28 24 g)

def State.setVxRetired (s : State) (n g : Nat) (b : Bool) : State :=
  s.wr (carReg R.CAR_VX_MAP n) (setBits (s.rd (carReg R.CAR_VX_MAP n)) g g (b2n b))

/-- The idle spare of a unit's kind and die that passed its latest test (R294). -/
def State.freeSpare (s : State) (kind die : Nat) : Option Nat :=
  let p : Option Nat :=
    if kind = 0 then (List.range 9).find? fun p => s.coreState die p = 1
    else if kind = 1 then (if s.vxSpare die = 0x1F then none else some (s.vxSpare die))
    else (if s.fget F.IXE_STS_SPARE = 0xF then none else some (s.fget F.IXE_STS_SPARE))
  match p with
  | some p => if s.spares.tested.contains ⟨kind, die, p⟩ then some p else none
  | none => none

/-- The logical name of a physical unit that has one. Decode cores have no logical names of their own: 0 stands for being in service. -/
def State.unitName (s : State) (u : UnitId) : Option Nat :=
  if u.kind = 0 then s.coreName u.die u.index
  else if u.kind = 1 then (List.range 16).find? fun i => s.groupOf u.die i = u.index
  else if s.fget F.IXE_STS_SPARE = u.index || bit (s.fget F.IXE_STS_RETIRED) u.index then none else some 0

/-- How a unit leaves its logical name (R295, R299). -/
inductive Leave where
  | retire | aside | conditional
deriving DecidableEq, Repr

def State.countRemount (s : State) (die : Nat) : State := if die = 0xF then s else s.fadd (F.CAR_REMOUNT_STS_COUNT.car die)

/-- A core's consecutive slow steps are forgotten: another physical core takes its logical name (R300). -/
def State.clearSlow (s : State) (die name : Nat) : State :=
  { s with spares := { s.spares with slow := tset (fun _ => 0) s.spares.slow (8 * die + name) 0 } }

/-- A unit gives its logical name to the free spare. A unit that stands aside takes the spare role itself, still to be tested; a retired one
leaves the role empty; a conditional one waits with its old name noted, or, of the decode cores, with its stand-in. The scratchpad bytes of a logical name stay as they were (DESIGN CHOICE: R55 leaves
the new core's contents unspecified, and R293 copies nothing). -/
def State.remount (s : State) (u : UnitId) (name spare : Nat) (how : Leave) : State :=
  let s := s.countRemount u.die
  let s := { s with spares := { s.spares with tested := s.spares.tested.filter fun x => x ≠ (⟨u.kind, u.die, spare⟩ : UnitId) } }
  let s := if how = .conditional then { s with spares := { s.spares with standin := (u, if u.kind = 2 then spare else name) :: s.spares.standin } } else s
  if u.kind = 0 then
    let s := ((s.setCoreOf u.die name spare).setCoreState u.die spare 0).clearSlow u.die name
    s.setCoreState u.die u.index (match how with | .retire => 5 | .aside => 2 | .conditional => 3)
  else if u.kind = 1 then
    let s := s.setGroupOf u.die name spare
    match how with
    | .retire => (s.setVxSpare u.die 0x1F).setVxRetired u.die u.index true
    | .aside => s.setVxSpare u.die u.index
    | .conditional => s.setVxSpare u.die 0x1F
  else
    match how with
    | .retire => (s.fset F.IXE_STS_SPARE 0xF).fset F.IXE_STS_RETIRED (s.fget F.IXE_STS_RETIRED ||| 2 ^ u.index)
    | .aside => s.fset F.IXE_STS_SPARE u.index
    | .conditional => s.fset F.IXE_STS_SPARE 0xF

/-- R299: a claim that finds no spare: the unit serves on, in state 7 or 4, and the shortage is shown. -/
def State.spareShort (s : State) (u : UnitId) (how : Leave) : State :=
  let s := if u.kind = 0 then s.setCoreState u.die u.index (if how = .conditional then 4 else 7) else s
  ((s.fset F.HUB_UNIT_STS_SPARE_SHORT 1).setLevel 0x083 true).notify 2 s.stepNum

def State.claim (s : State) (u : UnitId) (how : Leave) : State :=
  match s.unitName u with
  | none => s
  | some name =>
    match s.freeSpare u.kind u.die with
    | some p => s.remount u name p how
    | none => s.spareShort u how

/-- Units in ascending physical index (R299). -/
def orderUnits (us : List UnitId) : List UnitId :=
  (List.range 17).flatMap fun i => us.filter (·.index = i)

/-- The request of CAR_REMOUNT_CTL that a carriage holds is taken (R295). -/
def State.takeRequest (s : State) (n : Nat) : State :=
  ({ s with spares := { s.spares with requests := tset (fun _ => none) s.spares.requests n none } } : State).fset (F.CAR_REMOUNT_STS_PEND.car n) 0

def State.refuseRemount (s : State) (n : Nat) : State := s.fset (F.CAR_REMOUNT_STS_REFUSED.car n) 1

/-- The physical unit that a held retirement names, none where there is no such logical unit. -/
def State.requested (s : State) (n : Nat) : Option UnitId :=
  match tget (fun _ => none) s.spares.requests n with
  | some (0, unit, index) =>
    if unit = 0 then (if index < 8 then some (coreUnit n (s.coreOf n index)) else none)
    else if index < 16 then some (groupUnit n (s.groupOf n index)) else none
  | _ => none

/-- A retirement for good: by request, which is refused without a free tested spare, or of a permanent unit. -/
def State.retireUnit (s : State) (u : UnitId) : State :=
  if u.die < 4 && s.requested u.die = some u then
    let s := s.takeRequest u.die
    match s.unitName u, s.freeSpare u.kind u.die with
    | some name, some p => s.remount u name p .retire
    | _, _ => s.refuseRemount u.die
  else s.claim u .retire

/-- The held requests that retire nothing: returns, the reserved actions, and retirements of a unit that does not exist or has just given its name up. -/
def State.otherRequest (s : State) (n : Nat) : State :=
  match tget (fun _ => none) s.spares.requests n with
  | none => s
  | some (action, unit, index) =>
    let s := s.takeRequest n
    if action = 0 then s.refuseRemount n
    else if action = 1 then
      if unit = 0 then
        if index < 9 && s.coreState n index = 5 then (s.setCoreState n index 1).unitEvent (coreUnit n index) 0x0C 0
        else s.refuseRemount n
      else if index < 17 && bit (s.rd (carReg R.CAR_VX_MAP n)) index then
        ((s.setVxRetired n index false).setVxSpare n index).unitEvent (groupUnit n index) 0x0C 0
      else s.refuseRemount n
    else s

/-- Every remount due at one moment of R293, in the order of R299: the stand-asides, the retirements for good, the conditional stand-asides. -/
def State.remountMoment (s : State) (conditional : List UnitId) : State :=
  let aside := s.spares.aside
  let retire := s.spares.retire
  let s := { s with spares := { s.spares with aside := [], retire := [] } }
  let s := (orderUnits aside).foldl (fun s u => s.claim u .aside) s
  let asked := (List.range 4).filterMap s.requested
  let s := (orderUnits (asked ++ retire).eraseDups).foldl (fun s u => s.retireUnit u) s
  let s := (orderUnits conditional).foldl (fun s u => s.claim u .conditional) s
  s.forAll [0, 1, 2, 3] fun n s => s.otherRequest n

/-! ### Classification (R298) -/

/-- The class of R298 from a unit's records. -/
def classify (repeatN : Nat) (rs : List HistRec) : Nat :=
  let n : Nat := rs.foldl (fun n x => n + x.count) 0
  let lo : Nat := rs.foldl (fun m x => min m x.band) 31
  let hi : Nat := rs.foldl (fun m x => max m x.band) 0
  if rs.any (·.event = 6) then 3
  else if n < max 1 repeatN then 0
  else if hi ≤ lo + 1 then 1
  else if rs.all (fun x => x.load / 8 = (rs.headD ⟨0, 0, 0, 0, 0, 0, 0, 0, 0, 0, 0⟩).load / 8) then 2
  else 3

/-- A permanent unit that stands aside is retired where it is: it is no spare, and does not serve again. -/
def State.retireIdle (s : State) (u : UnitId) : State :=
  let s := { s with spares := { s.spares with tested := s.spares.tested.filter (· ≠ u), standin := s.spares.standin.filter (·.1 ≠ u) } }
  if u.kind = 0 then s.setCoreState u.die u.index 5
  else if u.kind = 1 then
    let s := s.setVxRetired u.die u.index true
    if s.vxSpare u.die = u.index then s.setVxSpare u.die 0x1F else s
  else
    let s := s.fset F.IXE_STS_RETIRED (s.fget F.IXE_STS_RETIRED ||| 2 ^ u.index)
    if s.fget F.IXE_STS_SPARE = u.index then s.fset F.IXE_STS_SPARE 0xF else s

/-- CORE_STS of a core in service shows its class: 4 while it is conditional, 0 otherwise. -/
def State.showServing (s : State) (u : UnitId) (c : Nat) : State :=
  if u.kind = 0 && (s.coreName u.die u.index).isSome then s.setCoreState u.die u.index (if c = 1 || c = 2 then 4 else 0) else s

/-- R298: the units that met a counting event in the sealed step are classified; a permanent one is due for retirement. -/
def State.classifyUnits (s : State) : State :=
  (s.spares.hit.filter (·.kind ≤ 2)).foldl (fun s u =>
    let c := classify (s.fget F.HUB_UNIT_CFG_REPEAT_N) (s.unitRecords u)
    let s := (s.setClass u c).showServing u c
    if c ≠ 3 then s
    else if (s.unitName u).isNone then s.retireIdle u
    else if s.spares.retire.contains u then s
    else { s with spares := { s.spares with retire := s.spares.retire ++ [u] } }) s

/-- The conditional units: those whose latest record has class 1 or 2. -/
def State.conditionalUnits (s : State) : List UnitId :=
  (s.history.map fun x => (⟨x.kind, x.die, x.index⟩ : UnitId)).eraseDups.filter fun u => u.kind ≤ 2 && (s.unitClass u = 1 || s.unitClass u = 2)

def calmKey (u : UnitId) : Nat := u.kind * 65536 + u.die * 256 + u.index

/-- The load signature [7:3] that a core's commands showed most often in the step (R298); what other units showed is measured, as is that of a core without a
command, in class 3. -/
def State.shownSig (s : State) (u : UnitId) : Nat × State :=
  let (v, s) := s.fresh
  let free := 24 + v % 8
  let count (i k : Nat) : Nat := tget (fun _ => 0) s.spares.shown ((8 * u.die + i) * 32 + k)
  match (if u.kind = 0 then s.coreName u.die u.index else none) with
  | none => (free, s)
  | some i =>
    let best := (List.range 32).foldl (fun b k => if count i b < count i k then k else b) 0
    (if count i best = 0 then free else best, s)

/-- A conditional unit that stood aside serves again under its old name, and its stand-in is the spare again. -/
def State.serveAgain (s : State) (u : UnitId) : State :=
  match s.spares.standin.find? (·.1 = u) with
  | none => s
  | some (_, name) =>
    let s := { s with spares := { s.spares with standin := s.spares.standin.filter (·.1 ≠ u) } }
    let s := s.countRemount u.die
    if u.kind = 0 then
      let p := s.coreOf u.die name
      let s := { s with spares := { s.spares with tested := coreUnit u.die p :: s.spares.tested } }
      (((s.setCoreOf u.die name u.index).setCoreState u.die p 1).setCoreState u.die u.index 4).clearSlow u.die name
    else if u.kind = 1 then
      let g := s.groupOf u.die name
      let s := { s with spares := { s.spares with tested := groupUnit u.die g :: s.spares.tested } }
      (s.setGroupOf u.die name u.index).setVxSpare u.die g
    else ({ s with spares := { s.spares with tested := decodeUnit name :: s.spares.tested } }).fset F.IXE_STS_SPARE name

/-- R298: the conditional units whose condition is predicted stand aside; those away from it for HYST boundaries serve again. -/
def State.predictUnits (s : State) : State × List UnitId :=
  s.conditionalUnits.foldl (fun (s, due) u =>
    let (band, s) := s.fresh
    let (sig, s) := s.shownSig u
    let hit := predicted (s.unitClass u) (s.unitRecords u) (band % 32) (sig * 8)
    let aside := s.spares.standin.any (·.1 = u)
    let n := if hit then 0 else tget (fun _ => 0) s.spares.calm (calmKey u) + 1
    let s := { s with spares := { s.spares with calm := tset (fun _ => 0) s.spares.calm (calmKey u) n } }
    if aside then (if !hit && s.fget F.HUB_UNIT_CFG_HYST ≤ n then s.serveAgain u else s, due)
    else if hit && (s.unitName u).isSome then (s, due ++ [u])
    else (s, due)) (s, [])

/-- The boundary's part of R293 and R298. -/
def State.unitsAtBoundary (s : State) : State :=
  let s := s.classifyUnits
  let (s, due) := s.predictUnits
  let s := s.remountMoment due
  { s with spares := { s.spares with now := [], hit := [], origin := [], before := [], inside := [], ce := [], busy := [], ran := [], shown := [] } }

/-- R299: at a rewind, a unit that was the origin of the failed verdicts of this run and of the run before stands aside, and so does a
conditional unit that faulted while it served inside its condition. -/
def State.unitsAtRewind (s : State) : State :=
  let x := s.spares
  let due := (x.origin.filter x.before.contains ++ x.inside.filter (·.kind ≤ 1)).eraseDups.filter fun u => (s.unitName u).isSome && !x.aside.contains u
  let s := ({ s with spares := { x with aside := x.aside ++ due } } : State).remountMoment []
  { s with spares := { s.spares with before := x.origin, now := [], origin := [], inside := [] } }

end Sys2Proof.Machine
end

