-- ==== Sys2Proof/Machine/WatchOps.lean ====
section
/-! DEFINITION. The numeric watch (06_numeric_watch): the watch table, the counts of a run, widening marks, the updates at a seal and at a
boundary, and the watch log. -/
namespace Sys2Proof.Machine

/-! ### The table (R148, R149) -/

/-- An entry at reset: LADDER 0b10 and ZLIMIT 0x40. -/
def watchReset (_ : Nat) : RecWord := BitVec.ofNat 512 (2 * 2 ^ 166 + 0x40 * 2 ^ 192)

/-- The index of the device-wide entry. -/
def deviceEntry : Nat := 0x1000

def State.watchEntry (s : State) (l : Nat) : Nat := (tget watchReset s.watch.table l).toNat

def State.putEntry (s : State) (l v : Nat) : State :=
  { s with watch := { s.watch with table := tset watchReset s.watch.table l (BitVec.ofNat 512 v) } }

def State.wget (s : State) (l hi lo : Nat) : Nat := bits (s.watchEntry l) hi lo

def State.wset (s : State) (l hi lo v : Nat) : State := s.putEntry l (setBits (s.watchEntry l) hi lo v)

/-- Adds to a count field that saturates (R149). -/
def State.wadd (s : State) (l hi lo n : Nat) : State := s.wset l hi lo (min (s.wget l hi lo + n) (2 ^ (hi + 1 - lo) - 1))

def State.rungOf (s : State) (l : Nat) : Nat := s.wget l 163 162
def State.ladderOf (s : State) (l : Nat) : Nat := s.wget l 167 166

/-- The signed gradient exponent g (R153). -/
def State.gexpOf (s : State) (l : Nat) : Int := toSigned 8 (s.wget l 183 176)

/-- RUNG × 256 + GEXP of a layer for the commands of a step: from the run's own header in a replayed run (R278), else from the table. -/
def State.headerLayer (s : State) (l : Nat) : Nat :=
  if s.pos.issued && s.pos.run ≠ 0 && l < deviceEntry then tget (fun _ => 0) s.run.hdr.layers l else s.rungOf l * 256 + s.wget l 183 176

def State.gexpNow (s : State) (l : Nat) : Int := toSigned 8 (s.headerLayer l % 256)

/-- GS_EN of the layer and GS_ON as read at issue (R153, R156). -/
def State.scaledLayer (s : State) (l : Nat) : Bool := s.wget l 160 160 = 1 && bit s.pos.watchCfg.toNat 30

/-- A binary32 value times 2^k, as one binary32 operation (R153). -/
def Val.scaleF32 (v : Val) (k : Int) : Val :=
  match v with
  | .fin n m e => roundF32 n m (e + k)
  | v => v

/-- The next rung of a ladder; the rung itself at its top (R139). -/
def nextRung (ladder rung : Nat) : Nat :=
  match ladder with
  | 1 => 1
  | 2 => min (rung + 1) 2
  | 3 => 2
  | _ => rung

def topRung (ladder : Nat) : Nat :=
  match ladder with
  | 0 => 0 | 1 => 1 | _ => 2

/-! ### The watch log (R158) -/

/-- The 16 bytes of a record of the watch log. -/
def watchBytes (step event fmt rung layer stream value : Nat) : List Byte :=
  leBytes 16 (step % 2 ^ 64 * 2 ^ 64 + event * 2 ^ 56 + fmt % 16 * 2 ^ 52 + rung * 2 ^ 50 + layer * 2 ^ 36 + stream % 16 * 2 ^ 32 + value % 2 ^ 32)

/-- A record of the watch log: written to the ring with the watch interrupt source raised, or dropped with LOG_OVF. -/
def State.watchLog (s : State) (step event fmt layer stream value : Nat) : State :=
  if !s.flag F.HUB_WATCH_LOG_CFG_EN then s
  else
    let size := 2 ^ s.fget F.HUB_WATCH_LOG_CFG_SIZE_LOG2
    let tail := s.fget F.HUB_WATCH_LOG_TAIL_TAIL
    let a := s.rd64 R.HUB_WATCH_LOG + 16 * tail
    let bs := watchBytes step event fmt (s.rungOf layer) layer stream value
    if (tail + 1) % size = s.fget F.HUB_WATCH_LOG_CFG_HEAD % size || !s.ringWritable a then s.fset F.HUB_WATCH_STS_LOG_OVF 1
    else if s.flag F.LXE_CFG_GUARD_EN && s.inStateRange a 16 then (s.count R.LXE_GUARD_CNT).fset F.HUB_WATCH_STS_LOG_OVF 1
    else
      let (s, bad) := s.putMem a bs 0
      if bad then s.fset F.HUB_WATCH_STS_LOG_OVF 1
      else (s.fset F.HUB_WATCH_LOG_TAIL_TAIL ((tail + 1) % size)).raise 0x082

/-- An event that is logged at most once per layer per run. -/
def State.watchOnce (s : State) (event fmt layer stream value : Nat) : State :=
  if s.watch.logged.contains (layer * 256 + event) then s
  else ({ s with watch := { s.watch with logged := (layer * 256 + event) :: s.watch.logged } }).watchLog s.stepNum event fmt layer stream value

/-! ### Counting (R36 to R38, R143 to R145) -/

/-- What the conversions of one command count for one layer and STREAM. -/
structure Tally where
  conv  : Nat
  flush : Nat
  nan   : Nat
  inf   : Nat
  ovf   : Nat
deriving DecidableEq, Repr

def Tally.zero : Tally := ⟨0, 0, 0, 0, 0⟩

def Tally.add (t : Tally) (c : Conv) : Tally :=
  ⟨t.conv + 1, t.flush + b2n c.flush, t.nan + b2n c.nan, t.inf + b2n c.inf, t.ovf + b2n c.ovf⟩

def Tally.ofConvs (cs : List Conv) : Tally := cs.foldl Tally.add Tally.zero

def Tally.plus (a b : Tally) : Tally := ⟨a.conv + b.conv, a.flush + b.flush, a.nan + b.nan, a.inf + b.inf, a.ovf + b.ovf⟩

/-- Overflows of a command's sums and inputs, which are no conversions of their own (R36, R37). -/
def Tally.overflows (n : Nat) : Tally := ⟨0, 0, 0, 0, n⟩

def Cnt.plus (c : Cnt) (stream : Nat) (t : Tally) : Cnt :=
  let w := stream = 2
  ⟨c.gconv + (if w then t.conv else 0), c.gflush + (if w then t.flush else 0), c.flush + t.flush, c.nan + t.nan, c.inf + t.inf, c.ovf + t.ovf⟩

def Cnt.join (a b : Cnt) : Cnt :=
  ⟨a.gconv + b.gconv, a.gflush + b.gflush, a.flush + b.flush, a.nan + b.nan, a.inf + b.inf, a.ovf + b.ovf⟩

/-- The formats whose overflow can widen a layer (R143). -/
def fmtNarrow (f : Nat) : Bool :=
  match Fmt.ofCode f with
  | some .e4m3 | some .e5m2 | some .b8e4 | some .b8e5 | some .f16 => true
  | _ => false

/-- The rung that a record of a layer runs under: a replayed run's header holds it, otherwise the watch table. -/
def State.rungNow (s : State) (layer : Nat) : Nat := s.headerLayer layer / 256

/-- R143: an overflow of a stepped record in this format, stream and layer asks for widening. -/
def State.widens (s : State) (stepped : Bool) (fmt layer stream : Nat) : Bool :=
  stepped && layer < deviceEntry && fmtNarrow fmt && ([0, 1, 2, 3, 6, 7].contains stream) && s.rungNow layer < topRung (s.ladderOf layer) &&
    bit s.pos.watchCfg.toNat 31

/-- R144: a layer is marked for its next rung. -/
def State.markLayer (s : State) (layer : Nat) : State :=
  if s.watch.marks.contains layer then s
  else ({ s with watch := { s.watch with marks := s.watch.marks ++ [layer] } }).raise 0x082

/-- The counts of a command's conversions enter the layer's counts of the run (or the loose ones of unstepped contexts), with their events, which
give the count of the run, and of an unstepped record's overflow that of both (DEDUCED: R158 counts the run so far). The second component says that the run's
verdict must fail with cause WIDEN (R144). -/
def State.tally (s : State) (stepped : Bool) (fmt layer stream : Nat) (t : Tally) : State × Bool :=
  let zero (_ : Nat) : Cnt := Cnt.zero
  let s :=
    if t = Tally.zero then s
    else if stepped then { s with watch := { s.watch with counts := tset zero s.watch.counts layer ((tget zero s.watch.counts layer).plus stream t) } }
    else { s with watch := { s.watch with loose := tset zero s.watch.loose layer ((tget zero s.watch.loose layer).plus stream t) } }
  let c := if stepped then tget zero s.watch.counts layer else (tget zero s.watch.counts layer).join (tget zero s.watch.loose layer)
  let s := if t.nan + t.inf > 0 then s.watchOnce 0x08 fmt layer stream (c.nan + c.inf) else s
  if t.ovf = 0 then (s, false)
  else
    let s :=
      if stepped && (stream = 2 || stream = 8) && !s.watch.ovfG.contains layer then
        { s with watch := { s.watch with ovfG := layer :: s.watch.ovfG } }
      else s
    if s.widens stepped fmt layer stream then
      if s.run.wreplays < bits s.pos.watchCfg.toNat 19 16 then (s.markLayer layer, true)
      else
        let s :=
          if s.watch.limited then s
          else ({ s with watch := { s.watch with limited := true } }).watchLog s.stepNum 0x04 fmt layer stream (bits s.pos.watchCfg.toNat 19 16)
        (s.watchOnce 0x03 fmt layer stream c.ovf, false)
    else (s.watchOnce (if stream = 5 then 0x09 else 0x03) fmt layer stream c.ovf, false)

/-! ### Optimizer sums (R151) -/

def SqSum.add (a : SqSum) (v : Val) : SqSum :=
  match v with
  | .nan => { a with nan := true }
  | .inf _ => { a with inf := true }
  | v => { a with sum := a.sum.add v.dy }

/-- The field's value at the seal, as an F32 encoding. -/
def SqSum.value (a : SqSum) : Val := if a.nan then .nan else if a.inf then .inf false else a.sum.roundF32

/-- One optimizer command's two partial sums for a layer. -/
def State.addPartials (s : State) (layer : Nat) (upd w : Val) : State :=
  let dflt (_ : Nat) : Option (SqSum × SqSum) := none
  let (u, v) := (tget dflt s.watch.sums layer).getD (SqSum.zero, SqSum.zero)
  { s with watch := { s.watch with sums := tset dflt s.watch.sums layer (some (u.add upd, v.add w)) } }

/-! ### A replay (R144 to R147) -/

/-- The counts of a run that is run again are discarded; those of unstepped contexts stay (R143, R150). -/
def State.discardCounts (s : State) : State :=
  { s with watch := { s.watch with counts := [], sums := [], logged := [] } }

/-- R144, R146: the marked layers take their next rung for the next run; other causes of failure cancel the marks. -/
def State.applyMarks (s : State) (ownOther groupOther : Bool) : State :=
  let marks := s.watch.marks
  let s := { s with watch := { s.watch with marks := [] } }
  if ownOther || groupOther then s
  else
    marks.foldl (fun s l =>
      let n := s.stepNum
      let rung := nextRung (s.ladderOf l) (s.rungOf l)
      let s := s.wset l 163 162 rung
      let s := if s.wget l 191 184 = 0 || (n + 2 ^ 32 - s.wget l 255 224) % 2 ^ 32 ≥ s.rd R.HUB_WATCH_WIN then (s.wset l 255 224 (n % 2 ^ 32)).wset l 191 184 0 else s
      let s := ((s.wadd l 191 184 1).wadd l 63 48 1).wset l 31 0 (n % 2 ^ 32)
      let s := s.watchLog n 0x01 0xF l 0 (s.wget l 191 184)
      let sn := bits s.pos.watchCfg.toNat 15 8
      if sn ≠ 0 && s.wget l 191 184 = sn then
        ((s.wset l 165 164 rung).wset l 161 161 1).watchLog n 0x02 0xF l 0 rung
      else s) s

/-! ### The seal (R150 to R154) -/

/-- Layers that have something to enter: with counts, sums or a nonzero per-step field. -/
def State.watchLayers (s : State) : List Nat :=
  (s.watch.counts.map (·.1) ++ s.watch.loose.map (·.1) ++ s.watch.sums.map (·.1) ++ s.watch.table.map (·.1)).eraseDups

/-- The summary bits that this device forms at the seal (R154): OVF_G of layer l in bit 2l, FLUSH_G in bit 2l + 1. -/
def State.ownSummary (s : State) : Nat :=
  let zero (_ : Nat) : Cnt := Cnt.zero
  let o := s.watch.ovfG.foldl (fun n l => n ||| 2 ^ (2 * l)) 0
  s.watch.counts.foldl (fun n p =>
    if p.1 < deviceEntry && (tget zero s.watch.counts p.1).gflush * 65536 > s.fget F.HUB_WATCH_GS_FLUSH_HI * (tget zero s.watch.counts p.1).gconv then n ||| 2 ^ (2 * p.1 + 1)
    else n) o

/-- The ratio of R151. -/
def updateRatio (upd w : Val) : Val := fSqrt (fDiv upd w)

/-- One layer's update at the seal: per-step fields, totals, ZRUN, ratio; its rung returns to BASE (R146). -/
def State.sealLayer (s : State) (l : Nat) : State :=
  let zero (_ : Nat) : Cnt := Cnt.zero
  let c := (tget zero s.watch.counts l).join (tget zero s.watch.loose l)
  let sums := tget (fun _ => (none : Option (SqSum × SqSum))) s.watch.sums l
  let (u, w) := sums.getD (SqSum.zero, SqSum.zero)
  let sat (n : Nat) : Nat := min n 0xFFFFFFFF
  let s := (s.wset l 511 480 (toF32 u.value)).wset l 479 448 (toF32 w.value)
  let s := ((s.wset l 447 416 (sat c.gconv)).wset l 415 384 (sat c.gflush)).wset l 383 352 (sat c.flush)
  let s := ((s.wset l 351 320 (sat c.nan)).wset l 319 288 (sat c.inf)).wset l 287 256 (sat c.ovf)
  let s := ((s.wadd l 159 128 c.ovf).wadd l 127 96 c.nan).wadd l 95 64 c.inf
  let s := s.wset l 163 162 (s.wget l 165 164)
  if l ≥ deviceEntry || sums.isNone then s
  else
    let n := s.stepNum
    let z := if u.value.isZero then min (s.wget l 223 208 + 1) 0xFFFF else 0
    let hit := u.value.isZero && s.wget l 223 208 ≠ z && s.wget l 207 192 ≠ 0 && z = s.wget l 207 192
    let s := s.wset l 223 208 z
    let s := if hit then s.watchLog n 0x05 0xF l 0 z else s
    let r := updateRatio u.value w.value
    let hi := s.rd R.HUB_WATCH_RATIO_HI
    if hi ≠ 0 && r.gt (ofF32 hi) then s.watchOnce 0x06 0xF l 0 (toF32 r) else s

/-- The watch table at the seal; the reduced summary is kept for the boundary. -/
def State.sealWatch (s : State) (summary : Nat) : State :=
  let s := s.forAll s.watchLayers fun l s => s.sealLayer l
  { s with watch := { s.watch with counts := [], loose := [], sums := [], ovfG := [], marks := [], logged := [], limited := false, summary := some summary } }

/-! ### The boundary (R154, R156) -/

/-- R154: the reduced bits change the exponent of a layer with GS_EN. -/
def State.updateExponent (s : State) (n l : Nat) (ovf fl : Bool) : State :=
  let g := s.gexpOf l
  let lo := toSigned 8 (s.fget F.HUB_WATCH_GS_GMIN)
  let hi := toSigned 8 (s.fget F.HUB_WATCH_GS_GMAX)
  let put (g' : Int) (held : Bool) : State :=
    let s := s.wset l 183 176 (ofSigned 8 g')
    s.watchLog n (if held then 0x0B else 0x07) 0xF l 0 (ofSigned 32 g')
  if ovf then put (max (g - 1) lo) (g = lo) else if fl then put (min (g + 1) hi) (g = hi) else s

/-- The layers of a summary. -/
def summaryLayers (sum : Nat) : List Nat := (List.range 4096).filter fun l => sum / 4 ^ l % 4 ≠ 0

def State.updateExponents (s : State) : State :=
  match s.watch.summary with
  | none => s
  | some sum =>
    let s := { s with watch := { s.watch with summary := none } }
    if sum = 0 then s
    else s.forAll (summaryLayers sum) fun l s =>
      if s.wget l 160 160 = 1 then s.updateExponent s.stepNum l (bit sum (2 * l)) (bit sum (2 * l + 1)) else s

/-- R156: the pending commit writes its RW fields; a BASE that differs from the one in force sets RUNG and clears STICKY. -/
def State.applyCommit (s : State) : State :=
  match s.watch.commit with
  | none => s
  | some (l, w) =>
    let s := ({ s with watch := { s.watch with commit := none } }).fset F.HUB_WATCH_STS_PENDING 0
    let v := w.toNat
    let base := s.wget l 165 164
    let s := ((s.wset l 223 208 (bits v 223 208)).wset l 207 192 (bits v 207 192)).wset l 183 176 (bits v 183 176)
    let s := ((s.wset l 167 166 (bits v 167 166)).wset l 165 164 (bits v 165 164)).wset l 160 160 (bits v 160 160)
    if bits v 165 164 = base then s
    else ((s.wset l 163 162 (bits v 165 164)).wset l 161 161 0).watchLog s.stepNum 0x0A 0xF l 0 (bits v 165 164)

/-- The device stands at a boundary and the next step has not been issued. -/
def State.standsAtBoundary (s : State) : Bool := s.atBoundary && !s.pos.issued

/-! ### Held changes (R160, R162, R288) -/

/-- The words of n ranges, BASE and LIMIT eight bytes apart; empty while every word is zero. -/
def State.rangeRegs (s : State) (k n : Nat) : List (Nat × Nat) :=
  let l := (List.range n).map fun i => (s.rd (k + 8 * i), s.rd (k + 8 * i + 4))
  if l.all (· = (0, 0)) then [] else l

/-- The memory of a depot slice's window loses what it held. -/
def State.clearSlice (s : State) (i : Nat) : State :=
  let lo := depotBase + i * 0x800000
  let inside (a : Nat) : Bool := lo ≤ a && a < lo + 0x800000
  { s with mem := tclear s.mem inside, mpart := { s.mpart with words := tclear s.mpart.words fun w => inside (4 * w) } }

/-- Slice modes and cacheable ranges take effect: a slice that changes keeps nothing, and every cache line is invalidated. -/
def State.applyDepot (s : State) : State :=
  if !s.flag F.DEP_STS_MODE_PEND && !s.flag F.DEP_STS_CR_PEND then s
  else
    let want (i : Nat) : Bool := bit (s.rd (R.DEP_MODE + 4 * (i / 32))) (i % 32)
    let s := s.flushDepot
    let s := s.forAll ((List.range 64).filter fun i => want i != s.sliceScratch i) fun i s => s.clearSlice i
    let s := (s.wr R.DEP_MODE_CUR (s.rd R.DEP_MODE)).wr (R.DEP_MODE_CUR + 4) (s.rd (R.DEP_MODE + 4))
    let n := ((List.range 64).filter want).length
    let s := { s with mpart := { s.mpart with crCur := s.rangeRegs R.DEP_CR_BASE 8 } }
    s.wr R.DEP_STS (n * 2 ^ 16 + (64 - n))

/-- The changes that R160, R288 and R332 hold, at the moment they name: a boundary, the next step not issued, no sequence of R336 running. -/
def State.applyHeld (s : State) : State :=
  if s.standsAtBoundary && s.recov.cur.isNone then
    let s := s.applyDepot
    { s with mpart := { s.mpart with srCur := s.rangeRegs R.LXE_SR_BASE 8, srcCur := s.rangeRegs R.LXE_CKPT_SRC_BASE 4 } }
  else s

/-! ### Actions of the watch registers (R156) -/

/-- WATCH_CAPTURE (R156): the selected entry enters the DATA registers; zeros above the table. -/
def State.watchCapture (s : State) : State :=
  let l := s.fget F.HUB_WATCH_SEL_INDEX
  let v := if l ≤ deviceEntry then s.watchEntry l else 0
  s.forAll (List.range 16) fun k s => s.wr (R.HUB_WATCH_DATA + 4 * k) (v / 2 ^ (32 * k) % 2 ^ 32)

/-- WATCH_COMMIT (R156): the RW fields are held as the pending commit, or the commit is refused; at a boundary it applies at once. -/
def State.watchCommit (s : State) : State :=
  let l := s.fget F.HUB_WATCH_SEL_INDEX
  if s.flag F.HUB_WATCH_STS_PENDING || l > deviceEntry then s.fset F.HUB_WATCH_STS_REFUSED 1
  else
    let v := (List.range 16).foldl (fun v k => v + s.rd (R.HUB_WATCH_DATA + 4 * k) * 2 ^ (32 * k)) 0
    let s := { s with watch := { s.watch with commit := some (l, BitVec.ofNat 512 v) } }
    let s := (s.fset F.HUB_WATCH_STS_PENDING 1).fset F.HUB_WATCH_STS_PEND_SEL l
    if s.standsAtBoundary then s.applyCommit else s

end Sys2Proof.Machine
end

