-- ==== Sys2Proof/Machine/LedgerOps.lean ====
section
/-! DEFINITION. What the ledger engine holds (11_step_ledger_and_replay): CRC-64, run headers, the size of the ledger, state ranges and the
write guard, committed digests; and the one way in which a record writes memory (R267, R315, R340, R453). -/
namespace Sys2Proof.Machine

/-! ### CRC-64 (R281) -/

def crc64 (bs : List Byte) : Nat :=
  bs.foldl (crcByte 0xC96C5795D7870F42) 0xFFFFFFFFFFFFFFFF ^^^ 0xFFFFFFFFFFFFFFFF

/-! ### Run headers (R262) -/

/-- The 12,288 bytes of a run header. -/
def RunHdr.bytes (h : RunHdr) : List Byte :=
  leBytes 8 h.step ++ leBytes 1 h.run ++ leBytes 3 0 ++ leBytes 4 h.epoch ++ leBytes 8 h.own ++ leBytes 8 h.mirror ++ leBytes 1 h.mbLast ++ leBytes 31 0 ++
    padTo 64 (h.shuf.flatMap (leBytes 4)) ++ padTo 512 (h.keys.flatMap (leBytes 8)) ++
    ((List.range 4096).flatMap fun l => leBytes 2 (tget (fun _ => 0) h.layers l)) ++ leBytes 3456 0

/-- The fields of a received run header. -/
def RunHdr.ofBytes (bs : List Byte) : RunHdr :=
  let f (o n : Nat) : Nat := leNat ((bs.drop o).take n)
  { step := f 0 8, run := f 8 1, epoch := f 12 4, own := f 16 8, mirror := f 24 8, mbLast := f 32 1,
    shuf := (List.range 16).map fun i => f (64 + 4 * i) 4, keys := (List.range 64).map fun i => f (128 + 8 * i) 8,
    layers := (List.range 4096).foldl (fun t l => let v := f (640 + 2 * l) 2; if v = 0 then t else t ++ [(l, v)]) [] }

/-- The committed digests of one side in ascending WIN, and their digest (R285). -/
def State.sideDigest (s : State) (side : Nat) : Nat :=
  crc64 (s.ledger.digests.flatMap fun p =>
    if p.1 / 65536 = side then (match p.2 with | some d => leBytes 8 d.digest | none => []) else [])

/-- The header of a run of the step in progress (R262, R147). -/
def State.makeHeader (s : State) (step run : Nat) : RunHdr :=
  { step := step, run := run, epoch := s.rd R.CXE_EPOCH, own := s.sideDigest 0, mirror := s.sideDigest 1, mbLast := bits s.pos.cfg.toNat 5 0,
    shuf := (List.range 16).map fun i => if i ≤ 9 then s.rd (R.IXE_SHUF_N + 4 * i) else 0,
    keys := (List.range 64).map fun n => let c := s.getC n; if c.stepped then c.srkey else 0,
    layers := s.watch.table.flatMap fun p =>
      let v := s.rungOf p.1 * 256 + s.wget p.1 183 176
      if p.1 < deviceEntry && v ≠ 0 then [(p.1, v)] else [] }

/-! ### The ledger's size (R263) -/

def up64 (n : Nat) : Nat := (n + 63) / 64 * 64

/-- Bytes that the held records and the open pre-images take. -/
def State.ledgerBytes (s : State) : Nat :=
  12288 * s.ledger.headers.length + 64 * s.ledger.ingest.length + (s.ledger.bounds.foldl (fun n b => n + up64 (64 + b.bytes.length)) 0) +
    (s.ledger.windows.foldl (fun n w => n + up64 (64 + w.pre.length)) 0)

/-- A record of n bytes fits. -/
def State.ledgerFits (s : State) (n : Nat) : Bool := s.ledgerBytes + up64 n ≤ s.rd R.LXE_LEDGER_SIZE * mib

/-- LXE_LEDGER_STS (R288). -/
def State.ledgerSts (s : State) : Nat := min (s.ledgerBytes / mib) 0xFFFF * 65536 + s.ledger.windows.length

/-! ### The write guard (R267) -/

/-- The window whose sub-waybill a record belongs to: the vector queue and ring entry that LX_WINDOW wrote (R283). -/
def State.windowOf (s : State) (f : Flight) : Option Window :=
  s.ledger.windows.find? fun w => w.vqueue = f.queue && w.entry = f.entry

/-- R267: the guard refuses a write of n bytes by a record. -/
def State.guarded (s : State) (f : Flight) (a n : Nat) : Bool :=
  s.guardedCtx f.ctx a n && (match s.windowOf f with | some w => !(w.base ≤ a && a + n ≤ w.base + w.len) | none => true)

/-! ### What a replayed run takes from its header (R278) -/

/-- The stochastic-rounding key under which a context's records round: a replayed run's own header holds it, otherwise the register. -/
def State.srKey (s : State) (n : Nat) : Nat :=
  if (s.getC n).stepped && s.pos.run ≠ 0 then s.run.hdr.keys.getD n 0 else (s.getC n).srkey

/-! ### Writes of records -/

/-- What became of a write: performed, partly not performed at an uncorrectable block (R453), refused by the guard, by a fence, or at a page that has been
retired (R185). -/
inductive Wrote where
  | ok | unc | guard | fenced | retired
deriving DecidableEq, Repr

def Wrote.resp : Wrote → Nat
  | .ok => 0 | .unc => 0x15 | .guard => 0x31 | .fenced => 0x19 | .retired => 0x11

/-- Bytes that a record writes: guarded, stalled on an uncopied page, else performed. -/
def State.writeAs (s : State) (f : Flight) (a : Nat) (bs : List Byte) : State × Wrote :=
  if bs.isEmpty then (s, .ok)
  else if s.rangeRetired a bs.length then (s, .retired)
  else if s.rangeFenced a bs.length then (s, .fenced)
  else if s.guarded f a bs.length then
    (if f.suspect then s else s.count R.LXE_GUARD_CNT, if f.suspect then .ok else .guard)
  else if s.stallsAt a bs.length then
    (({ s with ckpt := { s.ckpt with stalled := s.ckpt.stalled ++ [({ rid := some f.rid, addr := a, data := bs, pkt := none } : Stall)] } } : State).count R.LXE_CKPT_STALL_CNT, .ok)
  else
    let (s, bad) := s.writeMem a bs 0
    (s, if bad then .unc else .ok)

/-- How much a refused write weighs: the guard and a fence win over an uncorrectable block. -/
def Wrote.rank : Wrote → Nat
  | .ok => 0 | .unc => 1 | .retired => 2 | .fenced => 3 | .guard => 4

/-- The worst of what became of two writes. -/
def Wrote.worse (a b : Wrote) : Wrote := if a.rank < b.rank then b else a

/-- The write was refused and nothing further is written. -/
def Wrote.refused (w : Wrote) : Bool := 2 ≤ w.rank

/-- A run of writes; after one that the guard, a fence or a retired page refuses nothing further is written. -/
def State.writeAll (s : State) (f : Flight) (ws : List (Nat × List Byte)) : State × Wrote :=
  ws.foldl (fun (s, r) w =>
    if r.refused then (s, r)
    else
      let (s, r') := s.writeAs f w.1 w.2
      (s, r.worse r')) (s, .ok)

/-- A read by a record: its bytes, and whether some block of them is uncorrectable, which is captured (R175, R178, R191) and noted for the
repair of R279. -/
def State.readAs (s : State) (a n : Nat) : State × List Byte × Bool :=
  let lost := if isStacked a then (blocksOf a n).filter s.blockLost else []
  let (s, e) := s.meet a n 0
  let s := if e then { s with run := { s.run with damaged := lost.map (128 * ·) ++ s.run.damaged } } else s
  (s, s.bytes a n, e)

/-- A stepped record has met an uncorrectable block of host software's: the step cannot be replayed (R279). -/
def State.spoilRun (s : State) (f : Flight) : State :=
  if (s.getC f.ctx).stepped then { s with run := { s.run with spoiled := true } } else s

/-- The response that a read of n bytes of the device's own draws, 0 for none: a retired page, a fence, an uncorrected block. -/
def State.meetResp (s : State) (a n : Nat) : State × Nat :=
  match s.barred [(a, n)] with
  | some r => (s, r.1)
  | none => let (s, e) := s.meet a n 0; (s, if e then 0x15 else 0)

/-- The response that a write of the device's own draws. -/
def State.putResp (s : State) (a : Nat) (bs : List Byte) : State × Nat :=
  match s.barred [(a, bs.length)] with
  | some r => (s, r.1)
  | none => let (s, e) := s.putMem a bs 0; (s, if e then 0x15 else 0)

/-- A record's work on ranges of memory, unless a retired page or a fenced domain refuses them: the record then ends with that response (R123, R185). -/
def State.ifOpen (s : State) (f : Flight) (rs : List (Nat × Nat)) (g : State → State) : State :=
  match s.barred rs with
  | some r => s.finish f.rid r.1 r.2
  | none => g s

end Sys2Proof.Machine
end

