-- ==== Sys2Proof/Machine/CxOps.lean ====
section
/-! DEFINITION. What the collective and the ledger engine share on the fabric (10_collectives_and_mapping): cuts and rings, end-to-end packets,
their checks and answers, and the running of a ring collective. -/
namespace Sys2Proof.Machine

/-! ### Cuts and rings (R241 to R243) -/

/-- A part of a cut: axis (3 for none), SIZE, INNER (R259). -/
structure Part where
  axis  : Nat
  size  : Nat
  inner : Nat
deriving DecidableEq, Repr

/-- Part A (0) or B (1) of a placement word. SIZE and INNER are 1 to 64; a part on no axis has SIZE 1. -/
def partOf (w b : Nat) : Part :=
  let x := if b = 0 then w % 65536 else w / 65536
  let axis := bits x 15 14
  { axis := axis, size := if axis = 3 then 1 else max 1 (bits x 13 7), inner := max 1 (bits x 6 0) }

def State.cutWord (s : State) (k : Nat) : Nat := s.rd (R.CXE_CUT + 4 * k)
def State.part (s : State) (k b : Nat) : Part := partOf (s.cutWord k) b

/-- This device's logical coordinate. -/
def State.lcoord (s : State) : Nat := s.fget F.CXE_LCOORD_COORD

/-- The index of a logical coordinate along a part. -/
def Part.index (p : Part) (c : Nat) : Nat := if p.axis = 3 then 0 else axisOf c p.axis / p.inner % p.size

/-- The coordinate whose index along the part is i and which is otherwise c. -/
def Part.move (p : Part) (c i : Nat) : Nat :=
  if p.axis = 3 then c
  else
    let x := axisOf c p.axis
    setBits c (6 * p.axis + 5) (6 * p.axis) (x - p.index c * p.inner + i * p.inner)

/-- Every part that the four cuts place on an axis. -/
def State.axisParts (s : State) (axis : Nat) : List Part :=
  (List.range 8).filterMap fun j => let p := s.part (j / 2) (j % 2); if p.axis = axis then some p else none

/-- The part with the largest INNER on its axis (R242). -/
def State.outermost (s : State) (p : Part) : Bool := (s.axisParts p.axis).all fun q => q.inner ≤ p.inner

/-- The up ring's successor of member i (R243). -/
def ringSucc (outer : Bool) (size i : Nat) : Nat :=
  if outer then (i + 1) % size
  else if i % 2 = 0 then (if i + 2 < size then i + 2 else if i + 1 < size then i + 1 else i - 1)
  else if i ≥ 3 then i - 2 else 0

/-- The member whose successor is i. -/
def ringPred (outer : Bool) (size i : Nat) : Nat := ((List.range size).find? fun j => ringSucc outer size j = i).getD i

/-- The successor on the up ring, or on the down ring, which runs backwards. -/
def ringNext (outer down : Bool) (size i : Nat) : Nat := if down then ringPred outer size i else ringSucc outer size i

/-- The predecessor k times over on a ring. -/
def ringBack (outer down : Bool) (size : Nat) : Nat → Nat → Nat
  | 0, i => i
  | k + 1, i => ringBack outer down size k (ringNext outer (!down) size i)

/-- The logical coordinate of the neighbour that this device sends to on a ring of a part, and of the one it receives from. -/
def State.ringTo (s : State) (cut b : Nat) (down : Bool) : Nat :=
  let p := s.part cut b
  p.move s.lcoord (ringNext (s.outermost p) down p.size (p.index s.lcoord))

def State.ringFrom (s : State) (cut b : Nat) (down : Bool) : Nat := s.ringTo cut b (!down)

/-- The member index and the number of members of a cut. -/
def State.member (s : State) (cut : Nat) : Nat := (s.part cut 0).index s.lcoord * (s.part cut 1).size + (s.part cut 1).index s.lcoord
def State.members (s : State) (cut : Nat) : Nat := (s.part cut 0).size * (s.part cut 1).size

/-- The logical coordinate of member m of a cut. -/
def State.memberCoord (s : State) (cut m : Nat) : Nat :=
  let a := s.part cut 0
  let b := s.part cut 1
  b.move (a.move s.lcoord (m / b.size)) (m % b.size)

/-- The part of a placement word lies on no axis, or has a SIZE and an INNER of at least 1 (R241, R259). -/
def partPlaced (w b : Nat) : Bool :=
  let x := if b = 0 then w % 65536 else w / 65536
  bits x 15 14 = 3 || (bits x 13 7 ≠ 0 && bits x 6 0 ≠ 0)

/-- R242: the parts of placement words tile the axes of FAB_DIMS. -/
def State.cutsTile (s : State) (ws : List Nat) : Bool :=
  (ws.all fun w => partPlaced w 0 && partPlaced w 1) && (List.range 3).all fun axis =>
    let ps := (ws.flatMap fun w => [partOf w 0, partOf w 1]).filter (·.axis = axis)
    let sizes := ps.map (·.size)
    let product := sizes.foldl (· * ·) 1
    product = s.dimOf axis &&
      ps.all fun p =>
        p.inner = ((ps.filter fun q => q.inner < p.inner).foldl (fun n q => n * q.size) 1) &&
          (ps.filter fun q => q.inner = p.inner && q.size ≠ 1).length ≤ 1

/-! ### The sub-header (R253) -/

structure Sub where
  check   : Nat
  collId  : Nat
  addr    : Nat
  value   : Nat
  rctr    : Nat
  pseq    : Nat
  rstep   : Nat
  run     : Nat
  stepped : Bool
  down    : Bool
  part    : Nat
  gather  : Bool
  cut     : Nat
  rctx    : Nat
  opid    : Nat
deriving DecidableEq, Repr

def Sub.zero : Sub :=
  { check := 0, collId := 0, addr := 0, value := 0, rctr := 0, pseq := 0, rstep := 0, run := 0, stepped := false, down := false, part := 0, gather := false,
    cut := 0, rctx := 0, opid := 0 }

def Sub.bytes (x : Sub) : List Byte :=
  leBytes 32 (x.check % 2 ^ 32 * 2 ^ 224 + x.collId % 2 ^ 32 * 2 ^ 192 + x.addr % 2 ^ 48 * 2 ^ 144 + x.value % 2 ^ 32 * 2 ^ 112 + x.rctr % 2 ^ 14 * 2 ^ 98 +
    x.pseq % 2 ^ 32 * 2 ^ 64 + x.rstep % 2 ^ 16 * 2 ^ 48 + x.run % 16 * 2 ^ 44 + b2n x.stepped * 2 ^ 43 + b2n x.down * 2 ^ 42 + x.part % 2 * 2 ^ 41 +
    b2n x.gather * 2 ^ 40 + x.cut % 4 * 2 ^ 38 + x.rctx % 64 * 2 ^ 32 + x.opid % 2 ^ 32)

def Sub.ofBytes (bs : List Byte) : Sub :=
  let n := leNat (bs.take 32)
  { check := bits n 255 224, collId := bits n 223 192, addr := bits n 191 144, value := bits n 143 112, rctr := bits n 111 98, pseq := bits n 95 64,
    rstep := bits n 63 48, run := bits n 47 44, stepped := bit n 43, down := bit n 42, part := bits n 41 41, gather := bit n 40, cut := bits n 39 38,
    rctx := bits n 37 32, opid := bits n 31 0 }

/-- Packet types that the ledger engine uses (R266, R322). -/
def isLedgerType (t : Nat) : Bool := 0x80 ≤ t && t < 0x90

/-! ### Sending end-to-end packets (R254) -/

/-- A packet is launched and waits for its answer. -/
def State.sendE2E (s : State) (opid pseq group : Nat) (p : Packet) : State :=
  ({ s with cx := { s.cx with pend := s.cx.pend ++ [{ opid := opid, pseq := pseq, group := group, checks := 0, again := false, pkt := p }] } } : State).launch none p

/-- Data in pieces of up to 4,096 bytes, with their offsets. -/
def pieces (bs : List Byte) : List (Nat × List Byte) :=
  (List.range (ceilDiv bs.length 4096)).map fun i => (4096 * i, (bs.drop (4096 * i)).take 4096)

/-- The header STEP and RUN of a record's packets: zero for an unstepped context. -/
def State.pktStep (s : State) (f : Flight) : Nat × Nat := if (s.getC f.ctx).stepped then (f.step, s.pos.run) else (0, 0)

/-- The answer to a packet (R254): CX_RESP, or LX_RESP for the ledger engine's types. -/
def State.respond (s : State) (p : Packet) (opid pseq reason : Nat) : State :=
  let s := if reason = 0 || isLedgerType p.ptype then s else s.count R.CXE_REFUSE_CNT
  let s := if reason = 8 && !isLedgerType p.ptype then s.count R.CXE_CHECK_CNT else s
  let body := leBytes 16 (opid % 2 ^ 32 * 2 ^ 96 + pseq % 2 ^ 32 * 2 ^ 64 + reason * 2 ^ 56)
  s.launch none (s.mkPacket 2 (if isLedgerType p.ptype then 0x83 else 0x13) p.src p.y p.step p.epoch body)

/-- The LAYOUT_EPOCH of a record's packets: its context's; a replayed run takes it from its header (R278). -/
def State.pktEpoch (s : State) (f : Flight) : Nat :=
  if (s.getC f.ctx).stepped && s.pos.run ≠ 0 then s.run.hdr.epoch else (s.getC f.ctx).epoch

/-! ### The target's checks (R254, R256) -/

/-- R256: 0 current, 1 stale, 2 ahead. -/
def epochCheck (p l : Nat) : Nat := if p % 2 ^ 32 = l % 2 ^ 32 then 0 else if (p + 2 ^ 32 - l % 2 ^ 32) % 2 ^ 32 ≥ 2 ^ 31 then 1 else 2

/-- Checks 2 and 3: run and step of a stepped packet. The step in progress of a device at a boundary is the next step. -/
def State.currentStep (s : State) : Nat := if s.atBoundary then s.stepNum + 1 else s.stepNum

def State.runStepCheck (s : State) (p : Packet) (x : Sub) (ahead : Bool) : Nat :=
  if !x.stepped then 0
  else if p.step = s.currentStep then (if x.run < s.pos.run then 0x0C else if x.run > s.pos.run then 0x0D else 0)
  else if p.step < s.currentStep then 0x03
  else if ahead then 0x04 else 0

/-- Check 4 for a context: enabled, not guilty, REMOTE_EN, STEPPED as the packet's. -/
def State.remoteCtxCheck (s : State) (ctx : Nat) (stepped : Bool) : Nat :=
  let c := s.getC ctx
  if !c.en || c.mark = .guilty || !c.remoteEn || c.stepped ≠ stepped then 0x06 else 0

/-- FENCED for a packet whose domain refuses new requests (R254, R340): engines 12 and 14, or SYN and QUE. -/
def State.domReason (s : State) (d : Nat) : Nat := if s.fenced d then 0x09 else 0

/-- A packet for the ledger engine. While the engine refuses new requests, a packet that asks for an answer is answered FENCED, and any other has no
effect (R254, R340). -/
def State.toLedger (s : State) (p : Packet) (g : State → State) : State :=
  if s.domReason 0x1E = 0 then g s
  else if p.ptype = 0x80 || p.ptype = 0x81 || p.ptype = 0x88 then
    let x := Sub.ofBytes p.body
    s.respond p x.opid x.pseq (s.domReason 0x1E)
  else s

/-- The first nonzero reason. -/
def firstReason (l : List Nat) : Nat := (l.find? (· ≠ 0)).getD 0

/-- CHECK over the data bytes of a packet (R253). -/
def checkOk (p : Packet) (x : Sub) : Bool := x.check = crc32c (p.body.drop 32)

/-- The write of a CX_WRITE's or LX_DATA's data into a context's memory (R254 check 6, R267, R453): the answer, or none where the packet waits for an uncopied page, and
is answered once the write is performed (R251, R315). -/
def State.remoteWrite (s : State) (p : Packet) (ctx addr : Nat) (bs : List Byte) : State × Option Nat :=
  if s.rangeFenced addr bs.length then (s, some 0x09)
  else if s.guardedCtx ctx addr bs.length then (s.count R.LXE_GUARD_CNT, some 0x0E)
  else if s.stallsAt addr bs.length then
    let w : Stall := { rid := none, addr := addr, data := bs, pkt := some p }
    (({ s with ckpt := { s.ckpt with stalled := s.ckpt.stalled ++ [w] } } : State).count R.LXE_CKPT_STALL_CNT, none)
  else
    let (s, bad) := s.writeMem addr bs 0
    (s, some (if bad then 0x0E else 0))

/-! ### Answers (R254, R255) -/

/-- Reasons that ask for a resend. -/
def resendReason (r : Nat) : Bool := r = 2 || r = 4 || r = 5 || r = 8 || r = 0x0D

/-- The response and detail that a final refusal ends a record with. -/
def refusalResp (r : Nat) : Nat × Nat := if r = 1 || r = 3 then (0x20, r) else (0x22, r)

/-- Every packet of an operation stops waiting. -/
def State.dropPend (s : State) (opid : Nat) : State := { s with cx := { s.cx with pend := s.cx.pend.filter (·.opid ≠ opid) } }

/-- The operation ends early with a response: its collective and packets go. -/
def State.endOp (s : State) (rid resp detail : Nat) : State :=
  let s := s.dropPend rid
  let begun := s.cx.begun.filter (·.1 ≠ rid)
  let s := { s with cx := { s.cx with ops := s.cx.ops.filter (·.rid ≠ rid), sigWait := s.cx.sigWait.filter (· ≠ rid), begun := begun } }
  s.finish rid resp detail

/-- ACCEPTED for a packet completes the run of packets that ends with it: those of its ring step, or up to 64 consecutive ones to the same
device that have not asked for a resend. -/
def acceptRun (ps : List Pend) (q : Pend) : List Pend :=
  ps.filter fun p => !(p.opid = q.opid && p.pkt.dst = q.pkt.dst && p.group = q.group && !p.again && p.pseq ≤ q.pseq && q.pseq < p.pseq + 64 || p = q ||
    (q.group ≠ 0 && p.opid = q.opid && p.group = q.group))

/-! ### Ring collectives (R245 to R249) -/

def coCount (w : RecWord) : Nat := fieldOf w 383 352
def coId (w : RecWord) : Nat := fieldOf w 351 320
def coCut (w : RecWord) : Nat := fieldOf w 161 160

/-- CH, the elements of a chunk. -/
def chunkLen (e n : Nat) : Nat := 64 * ceilDiv e (128 * n)

/-- The elements of chunks lo to hi − 1 of a buffer of e: first and one past the last. -/
def chunkSpan (e n lo hi : Nat) : Nat × Nat := (min (lo * chunkLen e n) e, min (hi * chunkLen e n) e)

/-- The range of owner i's data on a ring of a part: the lower half of the chunks on the up ring, the upper half on the down ring. In part
B the ranges lie within this device's own part-A range. -/
def State.ringSpan (s : State) (w : RecWord) (b : Nat) (down : Bool) (owner : Nat) : Nat × Nat :=
  let cut := coCut w
  let n := s.members cut
  let sb := (s.part cut 1).size
  let first := if b = 0 then 2 * owner * sb else 2 * ((s.part cut 0).index s.lcoord * sb + owner)
  let half := if b = 0 then sb else 1
  chunkSpan (coCount w) n (first + (if down then half else 0)) (first + (if down then 2 * half else half))

/-- This member's shard. -/
def State.shardSpan (s : State) (w : RecWord) : Nat × Nat :=
  let m := s.member (coCut w)
  chunkSpan (coCount w) (s.members (coCut w)) (2 * m) (2 * m + 2)

/-- Bytes of an element of a format of R247 (an element of a block format is not permitted). -/
def coSize (fmt : Nat) : Nat := match Fmt.ofCode fmt with | some f => f.size | none => 4

/-- R248: the parameter digest. -/
def coDigest (w : RecWord) : Nat :=
  crc32c (leBytes 4 (coCount w) ++ leBytes 1 (fieldOf w 167 164) ++ leBytes 1 (fieldOf w 175 172) ++ leBytes 1 (fieldOf w 163 162) ++
    leBytes 1 (if recOpcode w = 0x41 then 0 else fieldOf w 171 168))

/-- The phases of a collective (R245), parts of SIZE 1 left out. -/
def State.coPhases (s : State) (w : RecWord) : List (Nat × Bool) :=
  let ps := match recOpcode w with
    | 0x40 => [(0, false), (1, false), (1, true), (0, true)]
    | 0x41 => [(0, false), (1, false)]
    | _ => [(1, true), (0, true)]
  ps.filter fun p => (s.part (coCut w) p.1).size > 1

def State.getOp (s : State) (rid : Nat) : Option RingOp := s.cx.ops.find? (·.rid = rid)

def State.setOp (s : State) (o : RingOp) : State :=
  { s with cx := { s.cx with ops := s.cx.ops.map fun x => if x.rid = o.rid then o else x } }

/-- The format of an element on the wire. In a gather it is the encoding that the owner made. In a reduction it is PFMT (R250), which holds every partial sum and every
result of phase A exactly; the first ring step of the first phase carries a member's own values, which R246 adds exactly, and goes in SFMT. -/
def State.wireFmt (s : State) (w : RecWord) (b : Nat) (gather : Bool) (rstep : Nat) : Nat :=
  let pf := fieldOf w 175 172
  if gather then (if recOpcode w = 0x42 then fieldOf w 167 164 else fieldOf w 171 168)
  else if pf = Fmt.code .t16 && rstep = 0 && (s.coPhases w).head? = some (b, false) then fieldOf w 167 164
  else pf

/-- A value of the buffer on the wire in a format, and back. -/
def toWire (fmt : Nat) (gather : Bool) (v : Nat) : List Byte :=
  if gather || fmt = Fmt.code .f32 then leBytes (coSize fmt) v else leBytes (coSize fmt) (convScalar ((Fmt.ofCode fmt).getD .f32) true .nearest (ofF32 v)).bits

def ofWire (fmt : Nat) (gather : Bool) (bs : List Byte) : Nat :=
  let v := leNat (bs.take (coSize fmt))
  if gather || fmt = Fmt.code .f32 then v else toF32 (decodeScalar ((Fmt.ofCode fmt).getD .f32) v)

/-- The owner of what member v sends in ring step r, and of what it receives (R246). -/
def sendOwner (outer down gather : Bool) (size v r : Nat) : Nat := ringBack outer down size (if gather then r else r + 1) v
def recvOwner (outer down gather : Bool) (size v r : Nat) : Nat := ringBack outer down size (if gather then r + 1 else r + 2) v

/-- The bytes of ring step r to be sent. -/
def State.stepBytes (s : State) (o : RingOp) (b : Nat) (gather down : Bool) (r : Nat) : List Byte :=
  let p := s.part (coCut o.word) b
  let owner := sendOwner (s.outermost p) down gather p.size (p.index s.lcoord) r
  let (lo, hi) := s.ringSpan o.word b down owner
  ((o.vals.drop lo).take (hi - lo)).flatMap (toWire (s.wireFmt o.word b gather r) gather)

/-- Bytes that ring step r brings. -/
def State.stepLen (s : State) (o : RingOp) (b : Nat) (gather down : Bool) (r : Nat) : Nat :=
  let p := s.part (coCut o.word) b
  let owner := recvOwner (s.outermost p) down gather p.size (p.index s.lcoord) r
  let (lo, hi) := s.ringSpan o.word b down owner
  (hi - lo) * coSize (s.wireFmt o.word b gather r)

/-- Bytes of ring step r that have been used. -/
def RingOp.usedBytes (o : RingOp) (b : Nat) (gather down : Bool) (r : Nat) : Nat :=
  (o.used.filter fun u => u.1 = b && u.2.1 = gather && u.2.2.1 = down && u.2.2.2.1 = r).foldl (fun n u => n + u.2.2.2.2.2) 0

/-- Ring step r has arrived whole. -/
def State.stepDone (s : State) (o : RingOp) (b : Nat) (gather down : Bool) (r : Nat) : Bool :=
  s.stepLen o b gather down r ≤ o.usedBytes b gather down r

/-- Sends one ring step (R253): packets numbered within the operation. -/
def State.sendStep (s : State) (o : RingOp) (b : Nat) (gather down : Bool) (r : Nat) : State × RingOp :=
  match s.flight? o.rid with
  | none => (s, o)
  | some f =>
    let (step, run) := s.pktStep f
    let dst := s.mapCoord (s.ringTo (coCut o.word) b down)
    match dst with
    | none => (s.endOp o.rid 0x21 1, o)
    | some d =>
      (pieces (s.stepBytes o b gather down r)).foldl (fun (s, o) p =>
        let sub := { Sub.zero with
          check := crc32c p.2, collId := coId o.word, addr := p.1, pseq := o.pseq, rstep := r, run := run, stepped := (s.getC f.ctx).stepped, down := down,
          part := b, gather := gather, cut := coCut o.word, opid := o.rid }
        let group := 1 + r * 8 + b * 4 + b2n gather * 2 + b2n down
        (s.sendE2E o.rid o.pseq group (s.mkPacket 0 0x10 d false step (s.pktEpoch f) (sub.bytes ++ p.2)), { o with pseq := o.pseq + 1 })) (s, o)

/-- A partial sum of R246: one addition or maximum, converted to T16 where PFMT says so. A binary32 sum beyond the F32 range is the infinity of IEEE 754
in either mode and is not counted (DEDUCED: R36 speaks of accumulator sums, and R246 of one binary32 addition; only the conversion to T16 is under R36). -/
def coCombine (w : RecWord) (acc x : Nat) : Nat × Option Conv :=
  let v := if fieldOf w 163 162 = 1 then fMax (ofF32 acc) (ofF32 x) else fAdd (ofF32 acc) (ofF32 x)
  if fieldOf w 175 172 = Fmt.code .t16 then
    let c := convScalar .t16 (fieldOf w 144 144 = 1) .nearest v
    (toF32 (decodeScalar .t16 c.bits), some c)
  else (toF32 v, none)

/-- Uses one received piece: added to this member's values in a reduction, stored in a gather. -/
def State.useRing (s : State) (o : RingOp) (x : RingIn) : RingOp × List Conv :=
  let p := s.part (coCut o.word) x.part
  let owner := recvOwner (s.outermost p) x.down x.gather p.size (p.index s.lcoord) x.rstep
  let (lo, _) := s.ringSpan o.word x.part x.down owner
  let fmt := s.wireFmt o.word x.part x.gather x.rstep
  let n := coSize fmt
  let k := x.data.length / n
  let first := lo + x.off / n
  let news := (List.range k).map fun i =>
    let v := ofWire fmt x.gather (x.data.drop (n * i))
    if x.gather then (v, none) else coCombine o.word v (o.vals.getD (first + i) 0)
  ({ o with
     vals := o.vals.take first ++ news.map (·.1) ++ o.vals.drop (first + k),
     used := (x.part, x.gather, x.down, x.rstep, x.off, x.data.length) :: o.used }, news.filterMap (·.2))

/-- The owner's final values (R247): 2^−g, then DFMT under RND. Elements are numbered over the member's output (R43): the shard in CX_REDSCAT, the whole buffer in
CX_ALLREDUCE. -/
def State.coFinal (s : State) (o : RingOp) (f : Flight) : RingOp × List Conv :=
  let w := o.word
  let (lo, hi) := s.shardSpan w
  let layer := fieldOf w 159 148
  let fmt := (Fmt.ofCode (fieldOf w 171 168)).getD .f32
  let x : RndCtx := { mode := fieldOf w 143 142, key := f.key, step := f.step, layer := layer,
                      stream := 8, mb := fieldOf w 139 134, base := fieldOf w 511 480, n := 256 }
  let first := if recOpcode w = 0x41 then 0 else lo
  let cs := (List.range (hi - lo)).map fun i =>
    let v := ofF32 (o.vals.getD (lo + i) 0)
    let v := if s.scaledLayer layer then v.scaleF32 (-s.gexpNow layer) else v
    convScalar fmt (fieldOf w 144 144 = 1) (rndElem x (first + i)) v
  ({ o with vals := o.vals.take lo ++ cs.map (·.bits) ++ o.vals.drop hi }, cs)

end Sys2Proof.Machine
end

