-- ==== Sys2Proof/Machine/StepOps.lean ====
section
/-! DEFINITION. The ends of records and of runs: discarding and rewinding (R121, R122), retirement (R96 to R98), verdicts (R270 to R274),
replays (R276, R277), aborts (R347) and the seal (R21, R103, R120, R150, R262). -/
namespace Sys2Proof.Machine

/-! ### The mode (R338) -/

/-- MODE of HUB_RST_STS: the first row that applies. -/
def State.mode (s : State) : Nat :=
  if s.recov.startup then 0
  else if s.test.running.isSome || s.flag F.HUB_RST_CTL_TEST then 2
  else if s.recov.recovering then 3
  else 1


/-! ### Discarding stepped work (R121, R122) -/

/-- The numbers of the records in flight of a predicate. -/
def State.flightsOf (s : State) (p : Flight → Bool) : List Nat := (s.que.flights.filter p).map (·.rid)

/-- What the units hold for records goes with them: collectives, packets that wait, host requests, stalled writes, held checkpoints. -/
def State.forget (s : State) (rids : List Nat) : State :=
  let out (r : Nat) : Bool := !rids.contains r
  { s with
    cx := { s.cx with
      ops := s.cx.ops.filter fun o => out o.rid,
      pend := s.cx.pend.filter fun p => out p.opid,
      sigWait := s.cx.sigWait.filter out,
      begun := s.cx.begun.filter fun b => out b.1 },
    host := { s.host with copies := s.host.copies.filter fun c => out c.rid },
    ckpt := { s.ckpt with
      stalled := s.ckpt.stalled.filter fun w => (match w.rid with | some r => out r | none => true),
      held := s.ckpt.held.filter out } }

/-- Records of a predicate are discarded without completing. -/
def State.discard (s : State) (p : Flight → Bool) : State := (s.forget (s.flightsOf p)).discardFlights p

/-- The reduction in progress ends with its record, and no run is issued. -/
def State.stopRun (s : State) : State := { s with run := { s.run with red := none }, pos := { s.pos with issued := false } }

/-- R121, R122: stepped work goes back to the boundary. -/
def State.rewindStep (s : State) : State :=
  ((s.discard fun f => (s.getC f.ctx).stepped).rewind).stopRun.fset F.HUB_STEP_STS_PASS 0

/-- Every open window is restored from its pre-image and closed (R347). -/
def State.closeWindows (s : State) : State :=
  let ws := s.ledger.windows
  let s := ws.foldl (fun s w => (s.putMem w.base w.pre 0).1) s
  { s with ledger := { s.ledger with windows := [], peer := [] } }

/-! ### Causes (R270) -/

/-- A cause arises in the current run. A state mismatch after the stage-1 record has been sent, or between runs, counts in the next run
(R285). -/
def State.noteCause (s : State) (i : Nat) : State :=
  if s.inProgress && !(i = 4 && s.run.formed) && !s.sealing then { s with run := { s.run with causes := s.run.causes ||| 2 ^ i } }
  else if i = 4 then { s with run := { s.run with carried := s.run.carried ||| 16 } }
  else s

/-! ### Aborting a step (R347, R349) -/

/-- The step that an abort on this device concerns: the one in progress, else the next one. None while no step counts as sealed. -/
def State.abortable (s : State) : Option Nat :=
  if s.inProgress && !s.sealing then some s.stepNum else s.pos.lastSealed.map (· + 1)

/-- The run that an abort stops: of a run that has been rewound and not yet issued, the run before. -/
def State.abortRun (s : State) : Nat :=
  if s.inProgress && !s.sealing then (if s.fget F.HUB_STEP_STS_PHASE = 6 then s.pos.run - 1 else s.pos.run) else s.pos.run

/-- Sends an ABORT flit on every active port but one. -/
def State.floodAbort (s : State) (skip : Option Nat) (step reason run domain origin : Nat) : State :=
  s.forAll (List.range 7) fun p s =>
    if s.portState p = 2 && skip ≠ some p then s.sendControl p (.abort step reason run domain origin) else s

/-- A, the run of step P's last reissue (R349). -/
def State.reissueRun (s : State) (p : Nat) : Nat :=
  match s.recov.reissued with
  | some (q, a) => if q = p then a else 0
  | none => 0

/-- R347, steps 2 to 5, for step p. The device then stands at the boundary before p, where the changes apply that are held for one (R156, R160, R162), and
waits for the reissue. The widening replays of the step stay counted, since R350 restarts the count of R277 only. -/
def State.abortTo (s : State) (p reason run domain origin : Nat) (isLocal : Bool) : State :=
  let stop := s.abortRun
  let committed := s.inProgress && s.run.committed
  let now := s.inProgress && !s.sealing
  let s := (s.closeWindows.rewindStep).setPhase 7
  let s := (s.applyRemaps).unitsAtRewind
  let s := { s with
    run := { RunPart.reset with carried := s.run.carried, inbox := s.run.inbox, wreplays := s.run.wreplays },
    ledger := { s.ledger with repairs := [] },
    watch := { s.watch with counts := [], sums := [], logged := [], marks := [] } }
  let s := if now then { s with pos := { s.pos with run := stop + 1 } } else { s with pos := { s.pos with run := max s.pos.run 1 } }
  let s := if now then ((s.wr64 R.HUB_STEP_NUM (p - 1)).fset F.HUB_STEP_STS_BOUNDARY 1).cleanDepot.applyCommit.applyHeld else s
  let s := s.wr R.HUB_ABORT_STS (2 ^ 31 + b2n isLocal * 2 ^ 30 + b2n committed * 2 ^ 29 + run % 16 * 2 ^ 24 + reason % 256 * 2 ^ 16 + domain % 256 * 2 ^ 8)
  let s := ((s.wr64 R.HUB_ABORT_STEP p).wr R.HUB_ABORT_ORIGIN (origin % 2 ^ 18)).raise 0x081
  (({ s with recov := { s.recov with aborted := some p, recovering := true } }).notify 1 p).logRec 6 p reason

/-- A cause on this device aborts the step (R347, R348). -/
def State.stepAbort (s : State) (reason domain : Nat) : State :=
  match s.abortable with
  | none => s
  | some p =>
    if s.fget F.HUB_STEP_STS_PHASE = 7 then s
    else
      let run := s.abortRun
      let key := (p, s.reissueRun p)
      let s := { s with recov := { s.recov with forwarded := key :: s.recov.forwarded } }
      let s := if s.mode = 1 && s.flag F.HUB_RST_CTL_ABORT_EN then s.floodAbort none p reason run domain s.lcoord else s
      s.abortTo p reason run domain s.lcoord true

/-! ### Verdict records (R271 to R273) -/

/-- The parts of the verdict group whose SIZE is not 1, as (cut, part), in the order of R272. -/
def State.verdictParts (s : State) : List (Nat × Nat) :=
  ([0, 1, 2, 3].flatMap fun k => if bit (s.fget F.LXE_CFG_VG_CUTS) k then [(k, 0), (k, 1)] else []).filter fun p => (s.part p.1 p.2).size > 1

def verdictBytes (step run stage : Nat) (r : VRec) (cut part round : Nat) (down : Bool) : List Byte :=
  leBytes 32 (step % 2 ^ 64 * 2 ^ 192 + run % 16 * 2 ^ 188 + stage % 4 * 2 ^ 186 + b2n r.fail * 2 ^ 185 + b2n r.early * 2 ^ 184 + r.cause % 256 * 2 ^ 176 +
    round % 65536 * 2 ^ 160 + cut % 4 * 2 ^ 158 + part % 2 * 2 ^ 157 + b2n down * 2 ^ 156 + r.origin % 2 ^ 18 * 2 ^ 128) ++
    (if stage = 2 then leBytes 1024 r.sum else [])

/-- Sends a packet of the verdict channel to the ring neighbour of a part. -/
def State.sendRing (s : State) (ptype cut part : Nat) (down : Bool) (step : Nat) (body : List Byte) : State :=
  match s.mapCoord (s.ringTo cut part down) with
  | some d => s.launch none (s.mkPacket 2 ptype d false step (s.rd R.CXE_EPOCH) body)
  | none => s.count R.FAB_UNREACH_CNT

/-- One record to both ring neighbours of a part: the up ring's successor, and the down ring's. -/
def State.sendVerdict (s : State) (stage : Nat) (r : VRec) (cut part round : Nat) : State :=
  [false, true].foldl (fun s down =>
    s.sendRing 0x15 cut part down s.stepNum (verdictBytes s.stepNum s.pos.run stage r cut part round down)) s

/-- LXE_VSTS, LXE_VORIGIN and LXE_VSTEP (R290). -/
def State.showVerdict (s : State) (stage run : Nat) (r : VRec) : State :=
  ((s.wr R.LXE_VSTS (stage % 4 * 2 ^ 30 + b2n r.fail * 2 ^ 29 + b2n r.early * 2 ^ 28 + run % 16 * 2 ^ 24 + r.cause % 256 * 2 ^ 16)).wr R.LXE_VORIGIN
    (r.origin % 2 ^ 18)).wr64 R.LXE_VSTEP s.stepNum

/-- OR of two records; ORIGIN is the minimum; the summary takes part where its cut is named by GS_AXES. -/
def VRec.join (a b : VRec) (sum : Bool) : VRec :=
  { fail := a.fail || b.fail, early := a.early || b.early, cause := a.cause ||| b.cause, origin := min a.origin b.origin,
    sum := if sum then a.sum ||| b.sum else a.sum }

/-- A group verdict has failed (R290): its interrupt source and event bit. -/
def State.verdictFailed (s : State) : State := (s.raise 0x08B).event 6 1

/-! ### Replay (R276, R277, R279) -/

/-- R279: a committed window that a damaged block lies in is asked for from the yoke partner. -/
def State.askRepairs (s : State) : State :=
  let hit (k : Nat) (d : WinDig) : Bool := s.run.damaged.any fun a => d.base ≤ a && a < d.base + d.len && k < 131072
  let ks := s.ledger.digests.filterMap fun p => match p.2 with | some d => if hit p.1 d then some p.1 else none | none => none
  { s with ledger := { s.ledger with repairs := s.ledger.repairs ++ (ks.filter fun k => s.ledger.repairs.all (·.1 ≠ k)).map (·, false) } }

/-- The header in force takes the new rungs of the marked layers (R147). -/
def State.widenHeader (s : State) (marks : List Nat) : State :=
  let put (t : Tbl Nat) (l : Nat) : Tbl Nat := tset (fun _ => 0) t l (s.rungOf l * 256 + tget (fun _ => 0) t l % 256)
  { s with run := { s.run with hdr := { s.run.hdr with layers := marks.foldl put s.run.hdr.layers } } }

/-- R277, R145: another replay, after a run that failed with this CAUSE, breaks a limit. -/
def State.replaySpent (s : State) (run cause : Nat) : Bool :=
  run ≥ 15 || (if cause = 8 then s.run.wreplays ≥ bits s.pos.watchCfg.toNat 19 16 else s.run.replays ≥ s.fget F.LXE_CFG_REPLAY_MAX)

/-- R276, steps 1 to 3; past a limit of R277, or where a block of host software's is lost (R279), the step is aborted instead. The marks, the counts of replays and the header wait for the issue. -/
def State.rewindRun (s : State) (r : VRec) : State :=
  if s.replaySpent s.pos.run r.cause then s.stepAbort 5 0xFF
  else if s.run.spoiled then s.stepAbort 6 0xFF
  else
    let own := s.run.causes
    let s := ((s.closeWindows.rewindStep).setPhase 6).applyRemaps.unitsAtRewind
    let s := (s.askRepairs.count R.LXE_REPLAY_CNT).discardCounts
    { s with
      pos := { s.pos with run := s.pos.run + 1 },
      run := { s.run with
        causes := s.run.carried, carried := 0, failSent := false, formed := false, passed := false, damaged := [], red := none,
        failure := some r, own := own } }

/-- A further failure record of the run that has failed, before its replay is issued: the group's verdict is the OR of them (R144, R145, R272). -/
def State.joinFailure (s : State) (f r : VRec) : State :=
  let g := f.join r false
  let s := s.showVerdict 1 (s.pos.run - 1) g
  if s.replaySpent (s.pos.run - 1) g.cause then s.stepAbort 5 0xFF else { s with run := { s.run with failure := some g } }

/-- R276, step 4: the marked layers widen, unless this device or the group has met another cause (R144); the replay counts by the group's CAUSE (R145, R277). -/
def State.readyReplay (s : State) : State :=
  match s.run.failure with
  | none => s
  | some r =>
    let marks := s.watch.marks
    let ownOther := s.run.own &&& 0xF7 ≠ 0
    let groupOther := r.cause &&& 0xF7 ≠ 0
    let s := s.applyMarks ownOther groupOther
    let s := if ownOther || groupOther then s else s.widenHeader marks
    { s with run := { s.run with failure := none, own := 0, replays := s.run.replays + b2n (r.cause ≠ 8), wreplays := s.run.wreplays + b2n (r.cause = 8) } }

/-- R271: a FAIL record of the current run, this device's own or one received, goes to every ring neighbour once, and the run is given up. -/
def State.failRun (s : State) (r : VRec) : State :=
  let s := if s.run.failSent then s else s.verdictParts.foldl (fun s p => s.sendVerdict 1 r p.1 p.2 0) s
  (({ s with run := { s.run with failSent := true } }).showVerdict 1 s.pos.run r).verdictFailed |>.rewindRun r

/-- The first cause of an issued run sends an early failure record. -/
def State.earlyFailure (s : State) : State :=
  let c := s.run.causes &&& 0xBF
  if s.pos.issued && !s.run.failSent && !s.run.formed && c ≠ 0 then
    s.failRun { fail := true, early := true, cause := c, origin := s.lcoord, sum := 0 }
  else s

/-! ### The seal -/

/-- R404: the waybills of the sealed step are measured into MR3. -/
def State.sealMeasure (s : State) (n : Nat) : State :=
  let es := s.measure.entries.filter fun e => e.step = n % 2 ^ 32
  let es := es.mergeSort fun a b => a.queue * 65536 + a.entry ≤ b.queue * 65536 + b.entry
  let v :=
    if es.length > 16384 then List.replicate 32 0xFF
    else Config.sha256 (es.flatMap fun e => leBytes 2 e.queue ++ leBytes 2 e.entry ++ leBytes 4 e.step ++ e.sha)
  { s with measure := { mr := tset mrReset s.measure.mr 3 v, entries := s.measure.entries.filter fun e => e.step ≠ n % 2 ^ 32 } }

/-- The step in progress is sealed (R274), with its boundary still to come: queues and counters (R103, R120), the watch table (R150), the ledger (R262), the measurement. -/
def State.sealStep (s : State) (summary : Nat) : State :=
  let n := s.stepNum
  let s := (s.sealQueues.sealWatch summary).sealMeasure n
  { s with
    pos := { s.pos with lastSealed := some n, issued := false, run := 0 },
    run := { RunPart.reset with carried := s.run.carried, inbox := s.run.inbox, commits := s.run.commits },
    recov := { s.recov with aborted := none, reissued := none, forwarded := [] },
    ckpt := { s.ckpt with ran := s.rd R.CXE_EPOCH :: (List.range 4).map s.cutWord },
    ledger := { s.ledger with
      headers := s.ledger.headers.filter fun h => n < h.step + 2, partner := s.ledger.partner.filter fun h => n < h.step + 2,
      ingest := s.ledger.ingest.filter fun x => n < x.1 + 2, bounds := s.ledger.bounds.filter fun b => b.step ≠ n, peer := [] } }

/-! ### Retirement (R96 to R98) -/

/-- The attempt of the window whose sub-waybill a record belongs to has met an uncorrected error (R283). -/
def State.spoilWindow (s : State) (f : Flight) : State :=
  { s with ledger := { s.ledger with windows := s.ledger.windows.map fun w => if w.vqueue = f.queue && w.entry = f.entry then { w with unc := true } else w } }

/-- A record that has ended retires, once none of its writes still waits for a page (R315): its signal, its completion record, its queue. A
stepped queue that stops on error aborts the step (R97). -/
def State.retire (s : State) (rid : Nat) : State :=
  match s.flight? rid with
  | none => s
  | some f =>
    match f.resp with
    | none => s
    | some (resp, detail) =>
      if s.ckpt.stalled.any (·.rid = some rid) then s
      else
        let s := s.dropFlight rid
        if f.suspect then s
        else
          let w := f.word
          let stepped := (s.getC f.ctx).stepped
          let s := if respSignals resp true && recSigEn w then s.signal (recSigCtr w) (recSigAdd w) else s
          let s := (s.complete f.ctx f.step f.entry f.idx f.queue (recTag w) resp detail (recCmpl w)).noteResp f.queue resp detail
          let s := if stepped && resp = 0x15 then (s.noteCause 1).spoilWindow f else s
          let s := if resp = 0x2A then s.noteCause 2 else s
          let s := if stepped && (resp = 0x32 || resp = 0x33) then s.noteCause 6 else s
          let x := s.getQ f.queue
          if f.loose || !x.en || x.mode = .reset || !x.entryOk || x.head ≠ f.entry then s
          else if respStops resp true then
            let s := s.setQ f.queue { x with mode := .error, failed := x.failed ++ [f.idx] }
            if stepped && !s.run.dead then s.stepAbort 4 0xFF else s
          else (s.setQ f.queue { x with ended := x.ended + 1 }).advanceHead f.queue

/-! ### The group result (R272, R274) -/

/-- A stage's group result. -/
def State.groupResult (s : State) (red : VRed) : State :=
  let s := { s with run := { s.run with red := none } }
  let r := red.body
  let s := s.showVerdict red.stage s.pos.run r
  if red.stage = 1 then
    if r.fail then s.verdictFailed.rewindRun r
    else ({ s with run := { s.run with passed := true } }).finish red.rid 0 0
  else if r.fail then
    (({ s with run := { s.run with dead := true }, pos := { s.pos with issued := false } }).verdictFailed).setPhase 7 |>.finish red.rid 0x34 0
      |>.notify 1 s.stepNum
  else ((s.finish red.rid 0 0).retire red.rid).sealStep r.sum

/-- GS_AXES of HUB_WATCH_CFG as read at issue names a cut (R154, R156). -/
def State.gsAxis (s : State) (cut : Nat) : Bool := bit s.pos.watchCfg.toNat (26 + cut)

/-- The rounds of a phase. -/
def ringRounds (size : Nat) : Nat := size / 2

/-- One turn of the reduction: a round whose two records have arrived ends, the next one starts, or the phase, or the whole. -/
def State.turnVerdict (s : State) (red : VRed) : State :=
  match red.phases with
  | [] => s.groupResult red
  | (cut, part) :: rest =>
    let here (v : VIn) : Bool := v.step = s.stepNum && v.run = s.pos.run && v.stage = red.stage && v.cut = cut && v.part = part && v.round = red.round
    let ups := s.run.inbox.filter fun v => here v && v.dir = 0
    let downs := s.run.inbox.filter fun v => here v && v.dir = 1
    match ups, downs with
    | u :: _, d :: _ =>
      let sum := s.gsAxis cut
      let body := (red.body.join u.body sum).join d.body sum
      let last := red.round + 1 ≥ ringRounds (s.part cut part).size
      let red := { red with body := body, phases := if last then rest else red.phases, round := if last then 0 else red.round + 1 }
      let s := { s with run := { s.run with red := some red, inbox := s.run.inbox.filter fun v => !here v } }
      match red.phases with
      | (k, b) :: _ => s.sendVerdict red.stage red.body k b red.round
      | [] => s
    | _, _ => s

/-- The reduction goes on as far as the records that have arrived take it. -/
def State.runVerdict : Nat → State → State
  | 0, s => s
  | n + 1, s =>
    match s.run.red with
    | none => s
    | some red =>
      let s' := s.turnVerdict red
      if s'.run.red = some red then s' else State.runVerdict n s'

/-- Starts the reduction of a stage with this device's record. -/
def State.startVerdict (s : State) (stage rid : Nat) (r : VRec) : State :=
  let ps := s.verdictParts
  let s := { s with run := { s.run with red := some { stage := stage, rid := rid, body := r, phases := ps, round := 0 }, formed := true } }
  let s := match ps with | (k, b) :: _ => s.sendVerdict stage r k b 0 | [] => s
  s.runVerdict 512

end Sys2Proof.Machine
end

