-- ==== Sys2Proof/Machine/MemOps.lean ====
section
/-! DEFINITION. Bits that flip in the memories (R163, R173, R177): they stay until the block or word is written, and every access meets them. -/
namespace Sys2Proof.Machine

/-- The way that holds the line of a block gets flipped bits in one word. -/
def Way.flip (w : Way) (word flips : Nat) : Way :=
  let v := ((w.errs.find? (·.1 = word)).map (·.2)).getD 0 ^^^ flips
  let rest := w.errs.filter (·.1 ≠ word)
  { w with errs := if v = 0 then rest else rest ++ [(word, v)] }

/-- Bits flip in a memory. A decode core's own memory has no address, and shows its error as it is met (R204). -/
def State.memError (s : State) (e : MemErr) : State :=
  match e with
  | .block addr syms => if isStacked addr then s.setSyms (addr / 128) (addSyms (s.symsAt (addr / 128)) syms) else s
  | .word key flips => if isStacked key then s else s.setWord (key / 4) (s.wordAt (key / 4) ^^^ flips % 2 ^ 39)
  | .line addr flips =>
    { s with mpart := { s.mpart with cache := s.mpart.cache.map fun (p : Nat × CacheSet) =>
        (p.1, { p.2 with ways := p.2.ways.map fun (w : Way) => if w.line = addr / 128 then w.flip (addr % 128 / 4) (flips % 2 ^ 39) else w }) } }
  | .core _ => s

def State.memErrors (s : State) (es : List MemErr) : State := es.foldl State.memError s

end Sys2Proof.Machine
end

