-- ==== Sys2Proof/Machine/RecovOps.lean ====
section
/-! DEFINITION. Fence, collect and reset sequences as they are requested and follow one another (R335, R336, R340, R345), and watchdog captures
(R339). -/
namespace Sys2Proof.Machine

/-- The reset domains of R335. -/
def allDomains : List Nat :=
  List.range 5 ++ (List.range 16).map (0x10 + ·) ++ (List.range 7).map (0x20 + ·) ++ (List.range 8).map (0x30 + ·) ++ (List.range 5).map (0x40 + ·)

/-- A domain and the domains that it contains. -/
def subDomains (d : Nat) : List Nat := allDomains.filter (domainContains d)

/-- Sequences that run or wait. -/
def State.sequences (s : State) : List Seqn := s.recov.cur.toList ++ s.recov.waiting

/-- SEQ, DOMAIN and REASON of HUB_RST_STS. -/
def State.showSeq (s : State) (seq d reason : Nat) : State :=
  ((s.fset F.HUB_RST_STS_SEQ seq).fset F.HUB_RST_STS_DOMAIN d).fset F.HUB_RST_STS_REASON reason

/-- STATE of the blocks of a domain and of all it contains (R447); a port's STATE and CAUSE (R239). -/
def State.setDomainStates (s : State) (d v : Nat) : State :=
  s.forAll (subDomains d) fun e s => if s.domOos e then s else s.setDomState e v

/-! ### The yoke partner (R283, R287) -/

/-- Every open window restores its pre-image and its record ends with YOKE_LOST. -/
def State.endWindows (s : State) (resp : Nat) : State :=
  let ws := s.ledger.windows
  (ws.foldl (fun s w => s.finish w.rid resp 0) s).closeWindows

/-- The yoke partner is lost (R287). -/
def State.loseYoke (s : State) : State :=
  let s := s.endWindows 0x33
  { s with ledger := { s.ledger with yokeLost := true } }

/-- What waits at a port that will not carry it is lost; the buffers that forwarded packets took are free. -/
def State.dropWaiting (s : State) (p : Nat) : State :=
  let l := s.getLink p
  let s := s.setLink p { l with waiting := [], quiet := false, retrain := false, retry := false }
  l.waiting.foldl (fun s x => match x.back with | some b => s.freeBuffer b.1 b.2 x.size | none => s) s

/-- A port goes out of service (R221, R239). -/
def State.portOut (s : State) (p cause : Nat) : State :=
  let s := (s.setPort p 5 cause).dropWaiting p
  if p = 6 then s.loseYoke else s

/-- Ports of a domain leave service: fenced (4), which a port that is out of service does not become (R221), or out of service (5). -/
def State.setPorts (s : State) (d v cause : Nat) : State :=
  s.forAll ((subDomains d).filter fun e => 0x20 ≤ e && e ≤ 0x26) fun e s =>
    if v = 5 then s.portOut (e - 0x20) cause else if s.portState (e - 0x20) = 5 then s else s.setPort (e - 0x20) v cause

/-- The engines of a domain (R335). -/
def domainEngines (d : Nat) : List Nat := (List.range 16).filter fun e => domainContains d (0x10 + e)

/-- The domain holds stepped work (R343): an engine's stepped record, or an entry of a stepped queue from BHEAD, which a replay runs again; or
memory, depot, counters and queues while a step is in progress. DEDUCED. -/
def State.holdsStepped (s : State) (d : Nat) : Bool :=
  let es := domainEngines d
  (s.que.flights.any fun f => (s.getC f.ctx).stepped && es.contains (queueEngine f.queue)) ||
    (s.inProgress && ((s.queueNumbers.any fun q => es.contains (queueEngine q) && (s.ctxOf q).stepped && (s.getQ q).en && (s.getQ q).bhead ≠ (s.getQ q).tail) ||
      (List.range 8).any (fun i => domainContains d (0x30 + i)) || domainContains d 0x40 || domainContains d 0x41))

/-- A fence against a domain takes hold (R340). -/
def State.fenceNow (s : State) (d reason : Nat) : State := (s.setDomainStates d 1).setPorts d 4 (if reason = 0x0C then 6 else 7)

/-- R336: a request for a sequence. A domain that a running or waiting one holds absorbs it; a containing domain takes the place of what it
contains; an unrelated one is fenced and waits its turn. A reset of a domain that holds stepped work aborts the step (R343); a fabric port
and the dump engine do not, and neither does a fence that holds. -/
def State.requestSeq (s : State) (d : Nat) (hold : Bool) (reason : Nat) : State :=
  if !allDomains.contains d || s.domOos d || ([1, 2, 3, 4].any fun c => domainContains c d && s.domOos c) ||
      s.sequences.any (fun q => domainContains q.domain d) then s
  else
    let s := if !hold && s.holdsStepped d then s.stepAbort reason d else s
    let q : Seqn := { domain := d, hold := hold, reason := reason, stage := 1 }
    let s := s.fenceNow d reason
    let keep := s.recov.waiting.filter fun x => !domainContains d x.domain
    let s := { s with recov := { s.recov with waiting := keep, held := s.recov.held.filter fun x => !domainContains d x } }
    match s.recov.cur with
    | none => ({ s with recov := { s.recov with cur := some q, marked := [] } }).showSeq 1 d reason
    | some c =>
      if domainContains d c.domain then ({ s with recov := { s.recov with cur := some q, marked := [] } }).showSeq 1 d reason
      else { s with recov := { s.recov with waiting := s.recov.waiting ++ [q] } }

/-- The current sequence ends, and the next one in order of request goes on. -/
def State.nextSeq (s : State) (seq : Nat) : State :=
  match s.recov.waiting with
  | [] => ({ s with recov := { s.recov with cur := none } }).fset F.HUB_RST_STS_SEQ seq
  | q :: rest =>
    let s := ({ s with recov := { s.recov with cur := some q, waiting := rest, marked := [] } }).showSeq q.stage q.domain q.reason
    if q.stage = 2 then (s.setDomainStates q.domain 2).fset F.DMP_STS_STATE 1 else s

/-- A domain goes out of service (R345). -/
def State.outOfService (s : State) (d : Nat) : State :=
  let set (s : State) (k i : Nat) : State := s.wr k (setBits (s.rd k) i i 1)
  let s :=
    if 1 ≤ d && d ≤ 4 then set s R.HUB_OOS1 (d - 1)
    else if 0x10 ≤ d && d < 0x20 then set s R.HUB_OOS0 (d - 0x10)
    else if 0x20 ≤ d && d ≤ 0x26 then set s R.HUB_OOS0 (d - 0x20 + 16)
    else if 0x30 ≤ d && d ≤ 0x37 then set s R.HUB_OOS0 (d - 0x30 + 24)
    else if 0x40 ≤ d && d ≤ 0x44 then set s R.HUB_OOS1 (d - 0x40 + 8)
    else s
  (s.forAll (subDomains d) fun e s => s.setDomState e 5).setPorts d 5 7

/-! ### The suspect search (R346) -/

/-- The search ends, and the contexts that it has marked guilty are reported. -/
def State.endSearch (s : State) (guilty : List Nat) : State :=
  let s := { s with recov := { s.recov with search := none } }
  let s := (s.fset F.HUB_RST_STS_GUILTY (b2n !guilty.isEmpty)).fset F.HUB_RST_STS_CTX (guilty.foldl min 63 * b2n !guilty.isEmpty)
  if s.recov.cur.isNone then s.fset F.HUB_RST_STS_SEQ 0 else s

/-- The next record of a hang set runs once the one before has ended; none is left: the search ends. -/
def State.searchNext (s : State) : State :=
  match s.recov.search with
  | none => s
  | some x =>
    if s.que.flights.any (·.suspect) then s
    else
      match x.left with
      | [] => s.endSearch x.guilty
      | f :: rest =>
        let f := { f with rid := s.que.nextRid, resp := none, suspect := true }
        { s with
          que := { s.que with flights := s.que.flights ++ [f], nextRid := s.que.nextRid + 1 },
          recov := { s.recov with search := some { x with cur := some f.ctx, left := rest } } }

/-- A watchdog's expiry is captured and raises its source (R339). -/
def State.wdExpire (s : State) (kind queue counter : Nat) : State :=
  (s.wr R.HUB_WD_INFO (kind * 2 ^ 30 + queue % 2 ^ 14 * 2 ^ 16 + counter % 2 ^ 14)).raise 0x080

end Sys2Proof.Machine
end

