-- ==== Sys2Proof/Machine/FabOps.lean ====
section
/-! DEFINITION. What the fabric ports do with what arrives (09_fabric_links): accepted flits, acknowledgements and credits, violations, packets
that enter the device, trainings, and the loss of the yoke partner (R287). -/
namespace Sys2Proof.Machine

/-! ### Flits (R223 to R226) -/

/-- An acknowledgement names a flit that is held, or the last one accepted before the oldest held. -/
def Link.knows (l : Link) (q : Nat) : Bool :=
  l.holds q || q = ((match l.unacked with | u :: _ => u.1 | [] => l.txNext) + 1023) % 1024

/-- At most one LINKERR, or on the host link one LINKERR or ERR, is sent in a microsecond: whether one has passed since the last is a free value (R235, R382). -/
def State.sayOnce (s : State) (p : Nat) (g : State → State) : State :=
  if (s.getLink p).told then (let (v, s) := s.fresh; if v % 2 = 1 then g s else s)
  else g (s.setLink p { s.getLink p with told := true })

/-- A violation by a port's partner or, on the host link, by the host: counted, captured and answered with LINKERR; at VIOL_LIMIT the port is
fenced (R235), or the host attachment reset (R382). -/
def State.violate (s : State) (p code seq buf : Nat) : State :=
  let s := (s.countViolation p code seq buf).sayOnce p fun s => s.sendControl p (.linkErr code (seq % 1024) buf)
  if s.violLimit p ≤ (s.getLink p).viol then (if p = hostLink then s.requestSeq 0x43 false 0x0A else s.requestSeq (0x20 + p) false 0x0C) else s

/-- The host link retrains (R383). -/
def State.retrainHost (s : State) : State := (s.fset F.UCI_STS_LINK 2).fadd F.UCI_STS_RETRAINS

/-- The expected flit has been accepted: the next SEQ is expected, and it is acknowledged. -/
def State.takeFlits (s : State) (p n : Nat) : State :=
  let l := s.getLink p
  (s.setLink p { l with rxExp := (l.rxExp + n) % 1024, nakOut := false }).emitIdle p false ((l.rxExp + n + 1023) % 1024)

/-- Held flits from a sequence number on are sent again (R225); the sixteenth time in vain the port retrains, with CAUSE 5 if that fails. -/
def State.resendFrom (s : State) (p q : Nat) : State :=
  let l := s.getLink p
  let fs := l.unacked.dropWhile (·.1 ≠ q)
  let s := s.setLink p { l with unacked := fs, resends := (if l.unacked.headD (q, .retrainReq) = fs.headD (q, .retrainReq) then l.resends else 0) + 1 }
  let s := if p = hostLink then s.count R.UCI_RETRY_CNT fs.length else s.count (pageReg R.FAB_RETRY_CNT p) fs.length
  let s := fs.foldl (fun s f => s.emitFlit p f) s
  if 16 ≤ (s.getLink p).resends then
    if p = hostLink then (s.setLink p { s.getLink p with resends := 0 }).retrainHost
    else (s.setLink p { s.getLink p with resends := 0, retrain := true, retry := true }).setPort p 1 0
  else s

/-- The credits of a link header (R226): 16 for a buffer, never beyond the partner's advertised size. -/
def State.takeCredits (s : State) (p buf : Nat) : State × Bool :=
  let l := s.getLink p
  let c := tget (fun _ => 0) l.credits buf + 16
  let max := bufSize p buf
  (s.setLink p { l with credits := tset (fun _ => 0) l.credits buf (min c max) }, max < c)

/-- The link header of an accepted flit: ACK or NAK, credits. The second component is the violation that it shows: 0x01, 0x03, 0x04, or 0 for none. -/
def State.readHeader (s : State) (p : Nat) (h : FlitHdr) : State × Nat :=
  if h.bad then (s, 1)
  else
  let (s, overfull) := if h.crdEn then s.takeCredits p h.crdBuf else (s, false)
  let l := s.getLink p
  let known := if h.nak then l.holds h.ack || h.ack = l.txNext else l.knows h.ack
  let s :=
    if !known then s
    else if h.nak then (if h.ack = l.txNext then s.setLink p { l with unacked := [], resends := 0 } else s.resendFrom p h.ack)
    else s.setLink p (l.ackTo h.ack)
  (s, if overfull then 3 else if !known then 4 else 0)

/-- The link headers of a packet's flits, with the lowest violation of any. -/
def State.readHeaders (s : State) (p : Nat) (hs : List FlitHdr) : State × Nat :=
  hs.foldl (fun (s, v) h => let (s, w) := s.readHeader p h; (s, if v = 0 then w else if w = 0 then v else min v w)) (s, 0)

/-- A flit of another type than DATA arrives (R224): its header, then what it says. A reserved field discards it with violation 0x01; sequenced
flits count as accepted all the same. -/
def State.controlFlit (s : State) (p : Nat) (h : FlitHdr) (sequenced : Bool) (g : State → State) : State :=
  if p ≤ hostLink && (s.linkUp p || (sequenced && (s.getLink p).retrain)) then
    let s := if sequenced then s.takeFlits p 1 else s
    let (s, v) := s.readHeader p h
    let s := if v = 0 then s else s.violate p v h.seq 0
    if v = 1 then s else g (s.serveLink p)
  else s

/-! ### Routes and links -/

/-- The neighbour's coordinate by a torus port (R214). -/
def State.neighbour (s : State) (p : Nat) : Nat :=
  let me := s.fget F.FAB_COORD_COORD
  let n := s.dimOf (p / 2)
  let a := axisOf me (p / 2)
  setBits me (6 * (p / 2) + 5) (6 * (p / 2)) (if p % 2 = 0 then (a + 1) % n else (a + n - 1) % n)

/-- The port by which a packet of a sender reaches this device under R229: the last axis on which they differ, from the other side. -/
def State.entryPort (s : State) (src : Nat) : Option Nat :=
  let me := s.fget F.FAB_COORD_COORD
  [2, 1, 0].findSome? fun axis =>
    let a := axisOf src axis
    let b := axisOf me axis
    if a = b then none
    else
      let n := s.dimOf axis
      let k := (b + n - a % n) % n
      some (if 2 * k ≤ n then 2 * axis + 1 else 2 * axis)

/-- A coordinate lies within FAB_DIMS. -/
def State.inTorus (s : State) (c : Nat) : Bool := (List.range 3).all fun axis => axisOf c axis < s.dimOf axis

/-- The packet types that are assigned (R228, R234, R252, R266, R317 to R327, R389). -/
def ptypeKnown (t : Nat) : Bool := t = 0x01 || (0x10 ≤ t && t ≤ 0x15) || (0x80 ≤ t && t ≤ 0x83) || (0x88 ≤ t && t ≤ 0x8C) || t = 0xF0

/-- R235: the lowest violation of a packet that arrives on a port, 0 for none. -/
def State.packetViolation (s : State) (port : Nat) (p : Packet) : Nat :=
  let l := s.getLink port
  let me := s.fget F.FAB_COORD_COORD
  let checks : List (Nat × Bool) := [
    (0x02, !p.credit),
    (0x05, p.flits ≠ flitsOf p.vc p.bodyLen || !p.lastOk || p.resv || p.bodyLen > 4128 || p.body.length ≠ p.bodyLen),
    (0x06, !s.inTorus p.dst || (port = 6 && p.dl = 1)),
    (0x07, if port = 6 then p.src ≠ s.fget F.FAB_YOKE_PARTNER else s.entryPort p.src ≠ some port),
    (0x08, (p.y && port ≠ 6) || (port = 6 && p.dst ≠ me)),
    (0x09, p.vc ≠ 3 && !p.tagOk),
    (0x0A, p.vc ≠ 3 && (p.gen ≠ l.rxGen || (match l.rxPctr with | some n => p.pctr ≤ n | none => false))),
    (0x0C, p.vc ≠ 3 && s.portState port = 3),
    (0x0D, !ptypeKnown p.ptype)]
  ((checks.find? (·.2)).map (·.1)).getD 0

/-- The buffer of a packet that stays here is free; a packet without credit never took it (R226, R235). -/
def State.doneWith (s : State) (port : Nat) (p : Packet) : State := if p.credit then s.freeBuffer port (p.vc * 2 + p.dl) p.flits else s

/-- A packet arrives on a port, or, with a number from 7 on, from this device itself (R229): the link headers of its flits are read, and it is judged. The
flag says that it enters the device, its buffer still taken: it breaks no rule of R235 that discards it and its source has not been expelled (R306). -/
def State.arrive (s : State) (port : Nat) (p : Packet) : State × Bool :=
  if 7 ≤ port then (s, p.src = s.fget F.FAB_COORD_COORD && p.dst = p.src)
  else if !s.linkUp port then (s, false)
  else
    let seq := (s.getLink port).rxExp
    let (s, w) := (s.takeFlits port p.flits).readHeaders port p.hdrs
    let v := s.packetViolation port p
    let s := if v = 0x09 && w = 0 then s.count (pageReg R.FAB_AUTH_CNT port) else s
    let s := if w ≠ 0 then s.violate port (if v = 0 then w else min v w) seq (p.vc * 2 + p.dl) else if v ≠ 0 then s.violate port v seq (p.vc * 2 + p.dl) else s
    let s := s.serveLink port
    if v ≠ 0 || w = 1 then (s.doneWith port p, false)
    else
      let s := if p.vc = 3 then s else s.setLink port { s.getLink port with rxPctr := some p.pctr }
      if s.rcv.expelled.contains p.src then (({ s with rcv := { s.rcv with dropped := s.rcv.dropped + 1 } } : State).doneWith port p, false)
      else (s, true)

/-- A packet of a type for this device is performed by g, once the port and its checks let it in. -/
def State.receive (s : State) (port : Nat) (p : Packet) (ptype : Nat) (g : State → State) : State :=
  let (s, ok) := s.arrive port p
  let s := if ok && port < 7 then s.doneWith port p else s
  if ok && p.dst = s.fget F.FAB_COORD_COORD && p.ptype = ptype then g s else s

/-! ### Training (R218 to R221, R230) -/

/-- One attempt at training fails; the training that follows 16 resends fails with CAUSE 5 (R225). In normal service the third in a row takes the port out of
service; otherwise training goes on. -/
def State.trainFail (s : State) (p cause : Nat) : State :=
  let l := s.getLink p
  let cause := if l.retry then 5 else cause
  let s := s.setLink p { l with fails := l.fails + 1 }
  if s.mode = 1 && 3 ≤ l.fails + 1 then s.portOut p cause else s.setPort p 1 cause

/-- The spares that take the place of failed lanes (R219): the lanes that PL16 and PL17 carry, 31 for none; none when they do not suffice. -/
def laneMap (failed : List Nat) : Option (Nat × Nat) :=
  let bad := (List.range 16).filter failed.contains
  let spares := [16, 17].filter fun x => !failed.contains x
  if spares.length < bad.length then none
  else
    let put (x : Nat) : Nat := bad.getD (spares.idxOf x) 31
    some (if spares.contains 16 then put 16 else 31, if spares.contains 17 then put 17 else 31)

/-- R230: the CAUSE that the partner's parameters give: 3 miscabled, 4 job mismatch, 0 for none. -/
def State.judge (s : State) (port : Nat) (p : Params) : Nat :=
  let me := s.fget F.FAB_COORD_COORD
  let wrong :=
    if port = 6 then p.coord ≠ s.fget F.FAB_YOKE_PARTNER || !bit p.yoke 31 || bits p.yoke 17 0 ≠ me
    else p.coord ≠ s.neighbour port
  if wrong || p.dims % 2 ^ 18 ≠ s.rd R.FAB_DIMS then 3
  else
    match s.fabKey, p.kcv with
    | some k, some v => if v = (Config.hmac k (ascii "floval-kcv")).take 16 then 0 else 4
    | _, _ => 4

/-- The lanes that failed are recorded in the unit history (R296). -/
def State.noteLanes (s : State) (port event : Nat) (lanes : List Nat) : State :=
  lanes.foldl (fun s l => s.noteUnit 6 0xF (port * 256 + l) event l) s

/-- What this end reports in the exchange: the five values of R230, and the map of the lanes that it receives (R219). -/
def State.ownParams (s : State) (port : Nat) (m : Nat × Nat) : Params :=
  { coord := s.fget F.FAB_COORD_COORD, dims := s.rd R.FAB_DIMS, yoke := s.rd R.FAB_YOKE, seq := s.lastSeq port,
    kcv := s.fabKey.map fun k => (Config.hmac k (ascii "floval-kcv")).take 16, sp16 := m.1, sp17 := m.2 }

/-- Training succeeds: lane map, partner, credits, replay from the flit after the partner's last; active or management-only. Packets that still wait to be
forwarded return no credits for the port's buffers, since its credits begin anew. -/
def State.portUp (s : State) (port : Nat) (m : Nat × Nat) (p : Params) (cause : Nat) : State :=
  let s := s.wr (pageReg R.FAB_LANE_MAP port) (p.sp17 % 32 * 2 ^ 21 + p.sp16 % 32 * 2 ^ 16 + m.2 * 2 ^ 5 + m.1)
  let s := (s.fset (F.FAB_PORT_STS_SPARES_USED.page port) (b2n (m.1 ≠ 31) + b2n (m.2 ≠ 31))).fset (F.FAB_PORT_STS_PEER.page port) p.coord
  let s := (s.setPort port (if cause = 4 then 3 else 2) cause).fset (F.FAB_PORT_STS_RETRAIN_PEND.page port) 0
  let l := (s.getLink port).ackTo p.seq
  let l := if l.unacked.isEmpty then { l with txNext := (p.seq + 1) % 1024 } else l
  let full := (List.range 8).filterMap fun b => if bufSize port b = 0 then none else some (b, bufSize port b)
  let s := s.setLink port { l with
    fails := 0, resends := 0, nakOut := false, credits := full, owed := [], mgmtOnly := cause = 4, quiet := false, retrain := false, retry := false }
  let forget (x : Item) : Item := if x.back.any (·.1 = port) then { x with back := none } else x
  let s := s.forAll (List.range 7) fun q s =>
    if (s.getLink q).waiting.any (·.back.any (·.1 = port)) then s.setLink q { s.getLink q with waiting := (s.getLink q).waiting.map forget } else s
  (l.unacked.foldl (fun s f => s.emitFlit port f) s).drainLink port

/-- A port loses its link and trains (R238, R239). A partner that has been reset may then begin with any generation (DEDUCED: R235's rule on KEY flits knows no
partner that begins anew). -/
def State.startTraining (s : State) (p : Nat) : State :=
  let s := (s.setPort p 1 0).dropWaiting p
  s.setLink p { s.getLink p with rxFresh := true }

/-- A port that may be used again trains, unless EN is 0 (R238). -/
def State.enterTraining (s : State) (p : Nat) : State :=
  if s.flag (F.FAB_PORT_CTL_EN.page p) then s.startTraining p else (s.startTraining p).setPort p 0 0

/-- Ports whose retrain is due at the boundary. -/
def State.retrainPorts (s : State) : State :=
  s.forAll (List.range 7) fun p s => if s.flag (F.FAB_PORT_STS_RETRAIN_PEND.page p) then s.retrainPort p else s

/-! ### Tests and calibrations that are held (R425, R426) -/

/-- The device stands at the boundary at which the armed layout change applies; the collective engine then starts no record, and the change precedes the next issue and
every deferred calibration (R257). -/
def State.layoutDue (s : State) : Bool :=
  let step := s.rd64 R.CXE_NEXT_STEP
  s.flag F.CXE_NEXT_STS_PEND && s.standsAtBoundary && (step = 0 || (match s.pos.lastSealed with | some n => step ≤ n | none => false))

/-- A held item may start: at a boundary before the next issue, as long as the boundary's budget lasts, or, with IMMEDIATE, at the rewind. -/
def State.testMayStart (s : State) (x : TestItem) : Bool :=
  (s.standsAtBoundary && !s.test.spent && !s.layoutDue) || (x.immediate && s.inProgress && !s.pos.issued && s.fget F.HUB_STEP_STS_PHASE = 6)

/-- An item starts: a pseudo-channel trains (R179), unless it is out of service, which only a device reset ends (R181); a port's retrain runs beside the others (R220); the return to the preferred reference is one
switch (R420). -/
def State.startTest (s : State) (x : TestItem) : State :=
  if x.kind = 2 then (s.fset (F.FAB_PORT_STS_RETRAIN_PEND.page (x.target % 256)) 1).retrainPort (x.target % 256)
  else if x.kind = 5 then
    (if s.fget F.CLK_STS_SEL ≠ x.target && s.flag (if x.target = 0 then F.CLK_STS_REF0_OK else F.CLK_STS_REF1_OK) then
      (s.fset F.CLK_STS_SEL x.target).fadd F.CLK_STS_SWITCHES else s)
  else
    let k := pchKey (x.target / 256) (x.target % 256)
    if x.kind = 1 && bits (s.pchSts k) 31 29 = 4 then s.setPch k (setBits (s.pchSts k) 0 0 0)
    else
      let s := { s with test := { s.test with running := some x } }
      if x.kind = 1 then s.setPch k (setBits (setBits (s.pchSts k) 31 29 1) 0 0 0) else s

/-- Held items start in the order of request, one at a time. -/
def State.startTests (s : State) : State :=
  let items := s.test.held
  items.foldl (fun s x =>
    if s.test.running.isNone && s.testMayStart x then s.startTest x
    else { s with test := { s.test with held := s.test.held ++ [x] } }) { s with test := { s.test with held := [] } }

end Sys2Proof.Machine
end

