-- ==== Sys2Proof/Machine/Chunk.lean ====
section
/-! DEFINITION. The lossless chunk coding of saved activations (R78), and its decoding. -/
namespace Sys2Proof.Machine

/-- h′ of R78: the high byte rotated left by one. -/
def chunkHigh (x : Nat) : Nat := x / 256 % 128 * 2 + x / 32768 % 2

/-- The 16-bit value with low byte lo and rotated high byte h. -/
def chunkValue (h lo : Nat) : Nat := h % 2 * 32768 + h / 2 * 256 + lo

/-- The W-bit values in one number, the first in the least significant bits. -/
def packBits (w : Nat) : List Nat → Nat
  | [] => 0
  | v :: vs => v + 2 ^ w * packBits w vs

def unpackBits (w : Nat) : Nat → Nat → List Nat
  | 0, _ => []
  | n + 1, x => x % 2 ^ w :: unpackBits w n (x / 2 ^ w)

/-- The zero mask: bit i set when element i is 0. -/
def zeroMask : List Nat → Nat
  | [] => 0
  | x :: xs => (if x = 0 then 1 else 0) + 2 * zeroMask xs

/-- The parts of a chunk before it is laid out as bytes. -/
structure ChunkParts where
  lo   : Nat
  w    : Nat
  nz   : Nat
  mask : Nat
  low  : List Nat
  high : Nat
deriving DecidableEq, Repr

/-- The least width that holds every value of a list. -/
def widthOf (vs : List Nat) : Nat := vs.foldl (fun w v => max w (if v = 0 then 0 else Nat.log2 v + 1)) 0

def minOf : List Nat → Nat
  | [] => 0
  | v :: vs => vs.foldl min v

/-- R78: a segment of 16-bit values in parts. -/
def chunkParts (xs : List Nat) : ChunkParts :=
  let nz := xs.filter (· ≠ 0)
  let hs := nz.map chunkHigh
  let lo := minOf hs
  let ds := hs.map (· - lo)
  let w := widthOf ds
  { lo := lo, w := w, nz := nz.length, mask := zeroMask xs, low := nz.map (· % 256), high := packBits w ds }

/-- Puts the non-zero values of a chunk back to their places. -/
def spread (mask : Nat) : Nat → List Nat → List Nat
  | 0, _ => []
  | n + 1, vs =>
    if mask % 2 = 1 then 0 :: spread (mask / 2) n vs
    else match vs with
      | [] => 0 :: spread (mask / 2) n []
      | v :: vs => v :: spread (mask / 2) n vs

/-- The n values that the parts of a chunk hold. -/
def ChunkParts.values (p : ChunkParts) (n : Nat) : List Nat :=
  spread p.mask n (((unpackBits p.w p.nz p.high).zip p.low).map fun q => chunkValue ((p.lo + q.1) % 256) q.2)

/-- Bytes before the padding. -/
def ChunkParts.len (p : ChunkParts) : Nat := 40 + p.nz + ceilDiv (p.nz * p.w) 8

/-- The bytes of a chunk with its padding; form is the SAVE code of R77. -/
def ChunkParts.bytes (p : ChunkParts) (form : Nat) : List Byte :=
  let bs := leBytes 8 (p.len + p.lo * 2 ^ 16 + p.w * 2 ^ 24 + form * 2 ^ 28 + p.nz * 2 ^ 32) ++ leBytes 32 p.mask ++ p.low.map (BitVec.ofNat 8) ++
    leBytes (ceilDiv (p.nz * p.w) 8) p.high
  padTo ((p.len + 63) / 64 * 64) bs

/-- A chunk's header: LEN and FORM within what R118 accepts. -/
def chunkHeaderOk (h : Nat) : Bool := (bits h 31 28 = 4 || bits h 31 28 = 5) && 40 ≤ bits h 15 0 && bits h 15 0 ≤ 576

/-- The parts that a chunk's bytes hold. -/
def ChunkParts.ofBytes (bs : List Byte) : ChunkParts :=
  let h := leNat (bs.take 8)
  let nz := bits h 40 32
  { lo := bits h 23 16, w := bits h 27 24, nz := nz, mask := leNat ((bs.drop 8).take 32), low := ((bs.drop 40).take nz).map (·.toNat),
    high := leNat ((bs.drop (40 + nz)).take (ceilDiv (nz * bits h 27 24) 8)) }

/-- The bytes of one coded segment, and the values of a coded segment of n. -/
def chunkEncode (form : Nat) (xs : List Nat) : List Byte := (chunkParts xs).bytes form
def chunkDecode (n : Nat) (bs : List Byte) : List Nat := (ChunkParts.ofBytes bs).values n

end Sys2Proof.Machine
end

