-- ==== Sys2Proof/Machine/Func.lean ====
section
/-! DEFINITION. The primitives of R73, correctly rounded to binary32, and the functions of R74. A primitive is evaluated in fixed point with
error far below the distance of any of its values from a rounding boundary, and rounded once. -/
namespace Sys2Proof.Machine

/-! ### Fixed point -/

/-- Bits after the point. -/
def fxBits : Nat := 448

def fxOne : Int := 2 ^ fxBits
def fxMul (a b : Int) : Int := a * b / fxOne
def fxDiv (a b : Int) : Int := a * fxOne / b

/-- A finite value in fixed point, truncated. -/
def fxOf (d : Dy) : Int :=
  if d.e + fxBits ≥ 0 then d.m * 2 ^ (d.e + fxBits).toNat else d.m / 2 ^ (-(d.e + fxBits)).toNat

/-- A fixed-point number rounded once to binary32, nearest even. -/
def fxRound (a : Int) : Val := roundF32 (a < 0) a.natAbs (-(fxBits : Int))

/-- The sum of n terms of a power series from term t: each next term is the last one times x, divided by the next divisor. -/
def fxSeries (x : Int) (div : Nat → Nat) : Nat → Nat → Int → Int → Int
  | 0, _, _, acc => acc
  | n + 1, k, t, acc => fxSeries x div n (k + 1) (fxMul t x / (div k : Int)) (acc + t)

/-- exp of a number below 1 in magnitude. -/
def fxExpSmall (x : Int) : Int := fxSeries x (fun k => k + 1) 120 0 fxOne 0

def fxSquare : Nat → Int → Int
  | 0, a => a
  | n + 1, a => fxSquare n (fxMul a a)

/-- exp of a number of magnitude up to 128: the number div 256 first. -/
def fxExp (x : Int) : Int := fxSquare 8 (fxExpSmall (x / 256))

/-- Σ z^(2k+1) / (2k + 1) with the sign s of the square: atanh for s = 1, atan for s = −1. -/
def fxOdd (s : Int) (z : Int) : Nat → Nat → Int → Int → Int
  | 0, _, _, acc => acc
  | n + 1, k, t, acc => fxOdd s z n (k + 1) (s * fxMul (fxMul t z) z) (acc + t / (2 * k + 1 : Nat))

def fxAtanh (z : Int) : Int := fxOdd 1 z 150 0 z 0
def fxAtan (z : Int) : Int := fxOdd (-1) z 150 0 z 0

def fxLn2 : Int := 2 * fxAtanh (fxOne / 3)
def fxPi : Int := 4 * (4 * fxAtan (fxOne / 5) - fxAtan (fxOne / 239))

/-- log of a positive dyadic m × 2^e: the mantissa is brought near 1. -/
def fxLog (m : Nat) (e : Int) : Int :=
  let n := bitLen m
  let f : Int := (m : Int) * 2 ^ fxBits / 2 ^ (n - 1)
  let k : Int := e + n - 1
  let (f, k) := if f > fxOne + fxOne / 2 then (f / 2, k + 1) else (f, k)
  k * fxLn2 + 2 * fxAtanh (fxDiv (f - fxOne) (f + fxOne))

/-- tanh of a number of magnitude up to 64. -/
def fxTanh (x : Int) : Int :=
  let y := fxExp (2 * x)
  fxDiv (y - fxOne) (y + fxOne)

/-- Σ (−1)^n x^(2n+1) / (n! (2n + 1)). -/
def fxErfSum (x : Int) : Nat → Nat → Int → Int → Int
  | 0, _, _, acc => acc
  | n + 1, k, t, acc => fxErfSum x n (k + 1) (-(fxMul (fxMul t x) x) / (k + 1 : Nat)) (acc + t / (2 * k + 1 : Nat))

/-- erf of a number of magnitude up to 6. -/
def fxErf (x : Int) : Int :=
  let rootPi : Int := isqrt (fxPi * fxOne).toNat
  fxDiv (2 * fxErfSum x 320 0 x 0) rootPi

/-! ### The primitives (R73) -/

/-- A finite value's magnitude is at least k. -/
def atLeast (v : Val) (k : Nat) : Bool :=
  match v with
  | .fin _ m e => magLe k 0 m e
  | .inf _ => true
  | .nan => false

def fExp (v : Val) : Val :=
  match v with
  | .nan => .nan
  | .inf n => if n then .zero else .inf false
  | v => if v.isZero then .one else if atLeast v 128 then (if v.isNeg then .zero else .inf false) else fxRound (fxExp (fxOf v.dy))

def fLog (v : Val) : Val :=
  match v with
  | .nan => .nan
  | .inf n => if n then .nan else .inf false
  | .fin n m e => if m = 0 then .inf true else if n then .nan else if v.gt .one || Val.one.gt v then fxRound (fxLog m e) else .zero

def fTanh (v : Val) : Val :=
  match v with
  | .nan => .nan
  | .inf n => if n then Val.one.neg else .one
  | v => if v.isZero then v else if atLeast v 32 then (if v.isNeg then Val.one.neg else .one) else fxRound (fxTanh (fxOf v.dy))

def fErf (v : Val) : Val :=
  match v with
  | .nan => .nan
  | .inf n => if n then Val.one.neg else .one
  | v => if v.isZero then v else if atLeast v 6 then (if v.isNeg then Val.one.neg else .one) else fxRound (fxErf (fxOf v.dy))

/-! ### The functions of R74 -/

def c0 : Val := ofF32 0x3F4C422A
def c1 : Val := ofF32 0x3D372713
def c2 : Val := ofF32 0x3F3504F3
def c3 : Val := ofF32 0x3ECC422A
def half : Val := ofF32 0x3F000000
def two : Val := ofF32 0x40000000
def three : Val := ofF32 0x40400000

def sigmoid (z : Val) : Val := fDiv .one (fAdd .one (fExp z.neg))

/-- The GELU tanh form's u, t and h. -/
def geluParts (z : Val) : Val × Val × Val :=
  let u := fMul z z
  let t := fTanh (fMul c0 (fFma c1 (fMul u z) z))
  (u, t, fMul half (fAdd .one t))

/-- y = f(z) for FUNC 0 to 7. -/
def funcY (code : Nat) (z : Val) : Val :=
  if z = .nan then .nan
  else match code with
  | 0 => z
  | 1 => fMax z .zero
  | 2 => let r := fMax z .zero; fMul r r
  | 3 => fTanh z
  | 4 => sigmoid z
  | 5 => fMul z (sigmoid z)
  | 6 => let (_, _, h) := geluParts z; fMul z h
  | _ => fMul z (fMul half (fAdd .one (fErf (fMul z c2))))

def oneIf (b : Bool) : Val := if b then .one else .zero

/-- f′ from z. -/
def funcDz (code : Nat) (z : Val) : Val :=
  if z = .nan then .nan
  else match code with
  | 0 => .one
  | 1 => oneIf (z.gt .zero)
  | 2 => fMul two (fMax z .zero)
  | 3 => let y := fTanh z; fSub .one (fMul y y)
  | 4 => let y := sigmoid z; fMul y (fSub .one y)
  | 5 => let s := sigmoid z; fMul s (fAdd .one (fMul z (fSub .one s)))
  | 6 =>
    let (u, t, h) := geluParts z
    fAdd h (fMul (fMul half z) (fMul (fSub .one (fMul t t)) (fMul c0 (fFma (fMul three c1) u .one))))
  | _ =>
    let p := fMul half (fAdd .one (fErf (fMul z c2)))
    fAdd p (fMul z (fMul c3 (fExp (fMul half.neg (fMul z z)))))

/-- f′ from y, for the functions that permit it. -/
def funcDy (code : Nat) (y : Val) : Val :=
  if y = .nan then .nan
  else match code with
  | 0 => .one
  | 1 => oneIf (y.gt .zero)
  | 3 => fSub .one (fMul y y)
  | _ => fMul y (fSub .one y)

/-- The codes of R74 that permit a derivative from y. -/
def fromY (code : Nat) : Bool := code = 0 || code = 1 || code = 3 || code = 4

end Sys2Proof.Machine
end

