-- ==== Sys2Proof/Machine/Operands.lean ====
section
/-! DEFINITION. Operand forms of the engines: carriage-local placement and layout (R55, R56), matrices read and written with their formats, the
rounding of outputs (R40 to R45), the format substitution of widened layers (R140), and the rules of R140's and R97's shared checks. -/
namespace Sys2Proof.Machine

/-! ### Carriage-local space (R55) -/

def bufBase : Nat := 0x4000000
def bufEnd : Nat := 0x7000000

/-- n bytes lie wholly in the scratchpad of logical core c. -/
def inPad (c a n : Nat) : Bool := c * 0x800000 ≤ a && a + n ≤ c * 0x800000 + 0x600000

/-- n bytes lie wholly in the carriage buffer. -/
def inBuf (a n : Nat) : Bool := bufBase ≤ a && a + n ≤ bufEnd

/-- n bytes from an address are mapped. -/
def localMapped (a n : Nat) : Bool := inBuf a n || (a < bufBase && inPad (a / 0x800000) a n)

/-- Two byte ranges share a byte. -/
def overlaps (a n b m : Nat) : Bool := a < b + m && b < a + n && n ≠ 0 && m ≠ 0

/-! ### Matrices (R56) -/

/-- A matrix in memory: base, rows, elements per row, row pitch, format. -/
structure Mat where
  base  : Nat
  rows  : Nat
  cols  : Nat
  pitch : Nat
  fmt   : Fmt
deriving DecidableEq, Repr

/-- Bytes of a row: a block format's rows are padded to whole blocks of 32. -/
def rowBytes (f : Fmt) (cols : Nat) : Nat := if f.isBlock then (cols + 31) / 32 * 32 else cols * f.size

/-- A carriage-local matrix: its pitch is the row length rounded up to 64. -/
def mkMat (base rows cols : Nat) (f : Fmt) : Mat := { base := base, rows := rows, cols := cols, pitch := up64 (rowBytes f cols), fmt := f }

/-- Scale bytes of a row, and their pitch. -/
def Mat.scales (m : Mat) : Nat := (m.cols + 31) / 32
def Mat.scaleBase (m : Mat) : Nat := m.base + m.rows * m.pitch

/-- Bytes that a carriage-local matrix takes. -/
def Mat.bytes (m : Mat) : Nat := m.rows * m.pitch + (if m.fmt.isBlock then m.rows * up64 m.scales else 0)

/-- The byte ranges of row r: its elements, and for a block format its scale bytes. -/
def Mat.rowRanges (m : Mat) (r : Nat) : List (Nat × Nat) :=
  (m.base + r * m.pitch, rowBytes m.fmt m.cols) :: (if m.fmt.isBlock then [(m.scaleBase + r * up64 m.scales, m.scales)] else [])

/-- The values of a row from its element bytes and its scale bytes. -/
def decodeRow (f : Fmt) (cols : Nat) (elems scales : List Byte) : List Val :=
  let es := elems.toArray
  let ss := scales.toArray
  (List.range cols).map fun i =>
    let k := f.size * i
    let bits := (List.range f.size).foldl (fun v j => v + (es.getD (k + j) 0).toNat * 256 ^ j) 0
    if f.isBlock then decodeBlockElem f (ss.getD (i / 32) 0).toNat bits
    else if f.isInt then decodeInt f bits
    else decodeScalar f bits

/-- The values of a plain list encoded: the bytes of a row (padded to whole blocks with +0), its scale bytes, and its conversions. -/
def encodeRow (f : Fmt) (strict : Bool) (vrs : List (Val × Rnd)) : List Byte × List Byte × List Conv :=
  if f.isBlock then
    let blocks := (chunksOf 32 (vrs.length + 1) vrs).map fun b => (b.length, encodeBlock f strict (b ++ List.replicate (32 - b.length) (Val.zero, Rnd.nearest)))
    (blocks.flatMap fun b => b.2.2.map fun c => BitVec.ofNat 8 c.bits, blocks.map fun b => BitVec.ofNat 8 b.2.1, blocks.flatMap fun b => b.2.2.take b.1)
  else
    let cs := vrs.map fun p => if f.isInt then convInt f p.2 p.1 else convScalar f strict p.2 p.1
    (cs.flatMap fun c => leBytes f.size c.bits, [], cs)

/-! ### Reading and writing through a space -/

/-- Where an address of a space lies in the memory table: a carriage's local space, or the device's addresses. -/
inductive Space where
  | device
  | carriage (n : Nat)
deriving DecidableEq, Repr

def Space.key : Space → Nat → Nat
  | .device, a => a
  | .carriage n, a => localAt n a

/-- Bytes of a space read by a record, and whether some block or word of them is uncorrectable (R175, R177). -/
def State.readSpace (s : State) (sp : Space) (a n : Nat) : State × List Byte × Bool := s.readAs (sp.key a) n

/-- The rows of a matrix, read row by row. -/
def State.readMat (s : State) (sp : Space) (m : Mat) : State × List (List Val) × Bool :=
  (List.range m.rows).foldl (fun (s, rows, bad) r =>
    let (s, es, b1) := s.readSpace sp (m.base + r * m.pitch) (rowBytes m.fmt m.cols)
    let (s, ss, b2) := if m.fmt.isBlock then s.readSpace sp (m.scaleBase + r * up64 m.scales) m.scales else (s, [], false)
    (s, rows ++ [decodeRow m.fmt m.cols es ss], bad || b1 || b2)) (s, [], false)

/-- A matrix whose input enters the arrays or the vector engine as binary32 (R35, R49): its values and how many overflowed. -/
def inputsF32 (strict : Bool) (r : Rnd) (rows : List (List Val)) : List (List Val) × Nat :=
  let xs := rows.map fun row => row.map (inputF32 strict r)
  (xs.map fun row => row.map (·.1), xs.foldl (fun n row => n + (row.filter (·.2)).length) 0)

/-- The writes of a matrix of values, each with its rounding, and their conversions. -/
def matWrites (m : Mat) (strict : Bool) (rows : List (List (Val × Rnd))) : List (Nat × List Byte) × List Conv :=
  let rs := rows.zipIdx.map fun p => (p.2, encodeRow m.fmt strict p.1)
  (rs.flatMap fun p => (m.base + p.1 * m.pitch, p.2.1) :: (if m.fmt.isBlock then [(m.scaleBase + p.1 * up64 m.scales, p.2.2.1)] else []),
   rs.flatMap fun p => p.2.2.2)

/-- Writes of a space made by a record. -/
def State.writeSpace (s : State) (f : Flight) (sp : Space) (ws : List (Nat × List Byte)) : State × Wrote :=
  s.writeAll f (ws.map fun w => (sp.key w.1, w.2))

/-- Each value of a matrix with the rounding of its place (R43). -/
def withRnd (x : RndCtx) (rows : List (List Val)) : List (List (Val × Rnd)) :=
  rows.zipIdx.map fun p => p.1.zipIdx.map fun q => (q.1, rndAt x p.2 q.2)

/-! ### The ends of engine records -/

/-- The response of a record whose reads met an uncorrectable block and whose writes ended as they did; exc is a data exception. -/
def endResp (unc exc : Bool) (w : Wrote) : Nat :=
  if w.refused then w.resp else if unc || w = .unc then 0x15 else if exc then 1 else 0

/-- The detail that goes with it: 5 where a page has been retired (R185). -/
def endDetail (w : Wrote) : Nat := if w = .retired then 5 else 0

/-- The counts of a record's conversions enter the watch, and a widening overflow fails the verdict (R144). -/
def State.countConvs (s : State) (f : Flight) (fmt layer stream : Nat) (t : Tally) : State :=
  if f.suspect then s
  else
    let (s, fail) := s.tally (s.getC f.ctx).stepped fmt layer stream t
    if fail then s.noteCause 3 else s

/-! ### Substitution in widened layers (R140) -/


/-- A format field under a rung. -/
def substFmt (rung code : Nat) : Nat :=
  if (code ≤ 4) then (if rung = 1 then 5 else if rung = 2 then 6 else code) else code

/-- Element size of a written format code, block formats as one byte. -/
def codeSize (code : Nat) : Nat := match Fmt.ofCode code with | some f => f.size | none => 1

/-! ### Shared checks -/

/-- The lowest detail that applies, as (detail, condition) pairs. -/
def lowest (cs : List (Nat × Bool)) : Nat :=
  cs.foldl (fun d c => if c.2 && (d = 0 || c.1 < d) then c.1 else d) 0

/-- Bit fields of a record that must be zero. -/
def reservedZero (w : RecWord) (fs : List (Nat × Nat)) : Bool := fs.all fun f => fieldOf w f.1 f.2 = 0

/-- A 4-bit code names a format that is no integer format. -/
def floatCode (c : Nat) : Bool := match Fmt.ofCode c with | some f => !f.isInt | none => false

def fmtD (c : Nat) : Fmt := (Fmt.ofCode c).getD .f32

end Sys2Proof.Machine
end

