-- ==== Sys2Proof/Machine/Matrix.lean ====
section
/-! DEFINITION. The matrix engine (03_matrix_cores): the checks of its records (R86), products and fused attention (R58 to R61, R72 to R82), the
check lanes and their captures (R62 to R71). -/
namespace Sys2Proof.Machine

/-- Runs the work of a record in flight that has not ended and satisfies p. -/
def State.work (s : State) (rid : Nat) (p : Flight → Bool) (g : Flight → State → State) : State :=
  match s.flight? rid with
  | some f => if f.resp.isNone && p f && !s.halted (queueEngine f.queue) then g f s else s
  | none => s

/-- The carriage of a carriage engine's queue. -/
def Flight.carriage (f : Flight) : Nat := queueEngine f.queue / 3

/-! ### Records (R84, R85) with the substitution of R140 -/

def mxLayer (w : RecWord) : Nat := fieldOf w 159 148
def mxCore (w : RecWord) : Nat := fieldOf w 147 145
def mxKind (w : RecWord) : Nat := fieldOf w 141 140

structure Gemm where
  aFmt   : Nat
  bFmt   : Nat
  dFmt   : Nat
  strict : Bool
  m      : Nat
  n      : Nat
  k      : Nat
  func   : Nat
  deriv  : Nat
  save   : Nat
  which  : Nat
  aT     : Bool
  bT     : Bool
  accum  : Bool
  bias   : Bool
  gate   : Bool
deriving DecidableEq, Repr

def gemmOf (rung : Nat) (w : RecWord) : Gemm :=
  { aFmt := substFmt rung (fieldOf w 212 209), bFmt := substFmt rung (fieldOf w 208 205), dFmt := substFmt rung (fieldOf w 204 201),
    strict := bit w.toNat 144 || rung = 2, m := fieldOf w 176 164, n := fieldOf w 223 213, k := fieldOf w 191 177, func := fieldOf w 255 251,
    deriv := fieldOf w 250 249, save := fieldOf w 248 246, which := fieldOf w 245 245, aT := bit w.toNat 200, bT := bit w.toNat 199,
    accum := bit w.toNat 198, bias := bit w.toNat 197, gate := bit w.toNat 196 }

/-- Address fields hold the address in 64-byte units, 21 bits from lo. -/
def addr64 (w : RecWord) (lo : Nat) : Nat := fieldOf w (lo + 20) lo * 64

/-- Width of D (R75). -/
def Gemm.width (g : Gemm) : Nat := if g.gate then (if g.deriv = 0 then g.n / 2 else 2 * g.n) else g.n

/-- Width of the saved matrix: of z when z is saved, else of D; read back, of D. -/
def Gemm.saveWidth (g : Gemm) : Nat := if g.deriv = 0 && g.which = 0 then g.n else g.width

/-- The format of a saved form (R77). -/
def saveFmt (save : Nat) : Fmt := match save with | 1 | 4 => .t16 | 2 | 5 => .f16 | _ => .b8e5

/-- Bytes at AUX (R77, R78). -/
def Gemm.auxBytes (g : Gemm) : Nat :=
  if g.save ≥ 4 then g.m * ((g.saveWidth + 255) / 256) * 576 else (mkMat 0 g.m g.saveWidth (saveFmt g.save)).bytes

/-- The byte range at AUX, for a form that R77 gives; none for a reserved code, which names no extent. -/
def Gemm.auxRange (g : Gemm) (w : RecWord) : List (Nat × Nat) :=
  if 0 < g.save && g.save ≤ 5 then [(addr64 w 427, g.auxBytes)] else []

def gemmA (g : Gemm) (w : RecWord) : Mat := mkMat (addr64 w 267) (if g.aT then g.k else g.m) (if g.aT then g.m else g.k) (fmtD g.aFmt)
def gemmB (g : Gemm) (w : RecWord) : Mat := mkMat (addr64 w 299) (if g.bT then g.n else g.k) (if g.bT then g.k else g.n) (fmtD g.bFmt)
def gemmC (g : Gemm) (w : RecWord) : Mat := mkMat (addr64 w 331) g.m g.n .f32
def gemmD (g : Gemm) (w : RecWord) : Mat := mkMat (addr64 w 363) g.m g.width (fmtD g.dFmt)
def gemmBias (g : Gemm) (w : RecWord) : Mat := mkMat (addr64 w 395) 1 g.n .f32

/-- Byte ranges of the inputs and of the outputs. -/
def gemmIns (g : Gemm) (w : RecWord) : List (Nat × Nat) :=
  [((gemmA g w).base, (gemmA g w).bytes), ((gemmB g w).base, (gemmB g w).bytes)] ++
    (if g.accum then [((gemmC g w).base, (gemmC g w).bytes)] else []) ++
    (if g.bias then [((gemmBias g w).base, (gemmBias g w).bytes)] else []) ++
    (if g.deriv ≠ 0 then g.auxRange w else [])

def gemmOuts (g : Gemm) (w : RecWord) : List (Nat × Nat) :=
  ((gemmD g w).base, (gemmD g w).bytes) :: (if g.deriv = 0 then g.auxRange w else [])

/-- Overlaps of outputs with inputs and with one another (R57). -/
def outputsClash (ins outs : List (Nat × Nat)) : Bool :=
  (outs.any fun o => ins.any fun i => overlaps o.1 o.2 i.1 i.2) || (match outs with | [a, b] => overlaps a.1 a.2 b.1 b.2 | _ => false)

/-- R57 for MX_GEMM: of all pairs only D and C may coincide, with ACCUM and an F32 output. -/
def gemmClash (g : Gemm) (w : RecWord) : Bool :=
  let d := ((gemmD g w).base, (gemmD g w).bytes)
  let c := ((gemmC g w).base, (gemmC g w).bytes)
  let aux := if g.deriv = 0 then g.auxRange w else []
  outputsClash (gemmIns { g with accum := false } w) (gemmOuts g w) ||
    (g.accum && ((overlaps d.1 d.2 c.1 c.2 && !(g.dFmt = 6 && d = c)) || aux.any fun x => overlaps x.1 x.2 c.1 c.2))

/-- R86 for MX_GEMM. -/
def gemmDetail (g : Gemm) (w : RecWord) : Nat :=
  let ins := gemmIns g w
  let outs := gemmOuts g w
  let c := mxCore w
  lowest [
    (0x01, !(floatCode g.aFmt && floatCode g.bFmt && floatCode g.dFmt)),
    (0x02, !g.strict && (g.aFmt = 6 || g.bFmt = 6)),
    (0x03, fieldOf w 143 142 = 3),
    (0x04, g.m = 0 || g.m > 4096 || g.n = 0 || g.n > 1024 || g.k = 0 || g.k > 16384),
    (0x05, (ins.any fun i => !inPad c i.1 i.2) || (outs.any fun o => !(inPad c o.1 o.2 || inBuf o.1 o.2))),
    (0x06, gemmClash g w),
    (0x07, g.aT && g.bT),
    (0x08, g.gate && g.n % 2 = 1),
    (0x09, g.func > 7 || g.deriv = 3 || g.save > 5 || mxKind w = 3),
    (0x0A, g.deriv = 2 && (!fromY g.func || g.gate)),
    (0x0B, g.deriv ≠ 0 && (mxKind w ≠ 1 || g.bias || g.save = 0)),
    (0x0C, g.save ≠ 0 && (mxKind w = 2 || (mxKind w = 1 && g.deriv = 0))),
    (0x0F, !recHeaderOk w || !reservedZero w [(426, 416), (394, 384), (362, 352), (330, 320), (298, 288), (266, 256), (244, 224), (195, 192),
      (163, 160), (133, 128)])]

structure Attn where
  qFmt   : Nat
  kFmt   : Nat
  vFmt   : Nat
  oFmt   : Nat
  strict : Bool
  d      : Nat
  lq     : Nat
  lk     : Nat
  mask   : Nat
  offset : Int
  lse    : Bool
deriving DecidableEq, Repr

def attnOf (rung : Nat) (w : RecWord) : Attn :=
  { qFmt := substFmt rung (fieldOf w 214 211), kFmt := substFmt rung (fieldOf w 210 207), vFmt := substFmt rung (fieldOf w 206 203),
    oFmt := substFmt rung (fieldOf w 202 199), strict := bit w.toNat 144 || rung = 2, d := fieldOf w 223 215, lq := fieldOf w 191 176, lk := fieldOf w 175 160,
    mask := fieldOf w 198 197, offset := toSigned 32 (fieldOf w 255 224), lse := bit w.toNat 196 }

def attnQ (a : Attn) (w : RecWord) : Mat := mkMat (addr64 w 267) a.lq a.d (fmtD a.qFmt)
def attnK (a : Attn) (w : RecWord) : Mat := mkMat (addr64 w 299) a.lk a.d (fmtD a.kFmt)
def attnV (a : Attn) (w : RecWord) : Mat := mkMat (addr64 w 331) a.lk a.d (fmtD a.vFmt)
def attnO (a : Attn) (w : RecWord) : Mat := mkMat (addr64 w 363) a.lq a.d (fmtD a.oFmt)
def attnLse (a : Attn) (w : RecWord) : Mat := mkMat (addr64 w 395) 1 a.lq .f32

/-- The segment arrays: segq, then segk from the next multiple of 64 (R81). -/
def segKBase (a : Attn) (w : RecWord) : Nat := addr64 w 427 + up64 (2 * a.lq)

/-- R86 for MX_ATTN. -/
def attnDetail (a : Attn) (w : RecWord) : Nat :=
  let r (m : Mat) : Nat × Nat := (m.base, m.bytes)
  let ins := [r (attnQ a w), r (attnK a w), r (attnV a w)] ++ (if a.mask ≥ 2 then [(addr64 w 427, up64 (2 * a.lq) + 2 * a.lk)] else [])
  let outs := r (attnO a w) :: (if a.lse then [r (attnLse a w)] else [])
  let c := mxCore w
  lowest [
    (0x01, !(floatCode a.qFmt && floatCode a.kFmt && floatCode a.vFmt && floatCode a.oFmt)),
    (0x02, !a.strict && (a.qFmt = 6 || a.kFmt = 6 || a.vFmt = 6)),
    (0x03, fieldOf w 143 142 = 3),
    (0x04, a.d = 0 || a.d > 256 || a.lq = 0 || a.lq > 4096 || a.lk = 0 || a.lk > 16384),
    (0x05, (ins.any fun i => !inPad c i.1 i.2) || (outs.any fun o => !(inPad c o.1 o.2 || inBuf o.1 o.2))),
    (0x06, outputsClash ins outs),
    (0x09, mxKind w = 3),
    (0x0D, mxKind w ≠ 0),
    (0x0F, !recHeaderOk w || !reservedZero w [(426, 416), (394, 384), (362, 352), (330, 320), (298, 288), (266, 256), (195, 192), (133, 128)])]

/-- The detail code of a matrix record, 0 for none (R86, R88). -/
def State.mxDetail (s : State) (stepped : Bool) (w : RecWord) : Nat :=
  let rung := s.rungNow (mxLayer w)
  let d := if recOpcode w = 0x10 then gemmDetail (gemmOf rung w) w else if recOpcode w = 0x11 then attnDetail (attnOf rung w) w else 0x0E
  if d ≠ 0 then d else if stepped then 0 else 0x16

/-! ### Check lanes (R62 to R64) -/

/-- An exact sum rounded once. One beyond the binary32 range rounds to an infinity, in fast mode too, so that R64 leaves its row or column
uncompared (DEDUCED: R36 speaks of accumulator sums and conversions, and R62 and R63 only of a sum rounded once). -/
def sumF32 (vs : List Val) : Val :=
  match sumExact vs with
  | .nan => .nan
  | .inf n => .inf n
  | .fin d z => d.roundF32 z

def transpose (rows : List (List Val)) : List (List Val) :=
  match rows with
  | [] => []
  | r :: _ => (List.range r.length).map fun j => rows.map fun x => x.getD j .zero

/-- Σ over k of xs × ys from c, grouped as the mode says. -/
def dotAcc (strict : Bool) (c : Val) (xs ys : List Val) : Val × Nat := accumulateAll strict c (List.zipWith Val.mulExact xs ys)

/-- A miss of the check lanes or of the drain. -/
structure Miss where
  product : Nat
  axis    : Nat
  index   : Nat
  source  : Nat
  excess  : Nat
  inj     : Bool
deriving DecidableEq, Repr

/-- R63: one comparison; the excess of a miss. -/
def compareLane (strict : Bool) (tol k cnt : Nat) (accs : List Val) (sum lane mag : Val) : Option Nat :=
  if (accs.any fun v => !v.isFinite) || !sum.isFinite || !lane.isFinite || !mag.isFinite then none
  else
    let g := if strict then k else (k + 15) / 16
    let diff := sum.dy.add lane.neg.dy
    let t := min tol 8
    let tau := (Dy.mk ((2 * g + 4 : Nat) * mag.dy.m) (mag.dy.e - 24 + t)).add ⟨(k + cnt : Nat), -149 + t⟩
    let d : Dy := ⟨diff.m.natAbs, diff.e⟩
    if d.le tau then none else some (toF32 (roundQuot false diff.m.natAbs tau.m.natAbs (diff.e - tau.e)))

/-- R62, R63: the comparisons of one B-tile column range, rows first. `first` is the range's first column. -/
def checkTile (strict : Bool) (tol product first : Nat) (a bcols c acc : List (List Val)) : List Miss :=
  let k := (a.headD []).length
  let brows := transpose bcols
  let sk := brows.map sumF32
  let skAbs := brows.map fun r => sumF32 (r.map Val.abs)
  let acols := transpose a
  let tk := acols.map sumF32
  let tkAbs := acols.map fun r => sumF32 (r.map Val.abs)
  let abs (vs : List Val) : List Val := vs.map Val.abs
  let rowMiss := (a.zip (c.zip acc)).zipIdx.filterMap fun p =>
    let (am, cm, accm) := p.1
    let x := (dotAcc strict (sumF32 cm) am sk).1
    let m := (dotAcc strict (sumF32 (abs cm)) (abs am) skAbs).1
    (compareLane strict tol k bcols.length accm (sumF32 accm) x m).map fun e => Miss.mk product 0 p.2 0 e false
  let ccols := transpose c
  let acccols := transpose acc
  let colMiss := (bcols.zip (ccols.zip acccols)).zipIdx.filterMap fun p =>
    let (bn, cn, accn) := p.1
    let y := (dotAcc strict (sumF32 cn) tk bn).1
    let m := (dotAcc strict (sumF32 (abs cn)) tkAbs (abs bn)).1
    (compareLane strict tol k a.length accn (sumF32 accn) y m).map fun e => Miss.mk product 1 (first + p.2) 0 e false
  rowMiss ++ colMiss

/-- An accumulator with a bit inverted. -/
def flipBit (v : Val) (b : Nat) : Val := ofF32 (toF32 v ^^^ 2 ^ b)

def flipAt (acc : List (List Val)) (row col b : Nat) : List (List Val) :=
  acc.zipIdx.map fun p => if p.2 = row then p.1.zipIdx.map fun q => if q.2 = col then flipBit q.1 b else q.1 else p.1

/-- The misses that an injection at row 0, column 0 of the first tile brought about are marked. -/
def markInj (inj : Bool) (ms : List Miss) : List Miss := ms.map fun m => if inj && m.index = 0 then { m with inj := true } else m

/-- Drain misses in ascending output row (R66, R70). -/
def drainMisses (product : Nat) (rows : List Nat) : List Miss :=
  rows.eraseDups.mergeSort (· ≤ ·) |>.map fun r => Miss.mk product 0 r 1 0x7F800000 false

/-- R296: one event of the unit history for the misses of one sort. -/
def State.missEvent (s : State) (u : UnitId) (code : Nat) (ms : List Miss) : State :=
  match ms with
  | m :: _ => s.unitEvent u code m.index
  | [] => s

/-- R65, R70, R71: the misses of a command in capture order: event, MISS, counters, capture; the unit history has an event for the injected check
misses, for the others and for the drain's (R296); the verdict fails. -/
def State.noteMisses (s : State) (f : Flight) (ms : List Miss) : State :=
  match ms with
  | [] => s
  | m :: _ =>
    let n := f.carriage
    let core := mxCore f.word
    let s := s.event (0x101 + 16 * n) 1
    let s := s.wr (carReg R.MXC_CHK_STS n) (s.rd (carReg R.MXC_CHK_STS n) ||| 2 ^ core)
    let s := s.count (carReg (R.MXC_CHK_CNT + 4 * core) n) ms.length
    let s :=
      if s.flag (F.MXC_CHK_INFO_VALID.car n) then s
      else
        let s := (s.wr64 (carReg R.MXC_CHK_STEP n) f.step).wr (carReg R.MXC_CHK_INFO n)
          (mxLayer f.word * 2 ^ 20 + core * 2 ^ 17 + m.axis * 2 ^ 16 + m.source * 2 ^ 15 + b2n m.inj * 2 ^ 14 + m.index % 4096 * 2 + 1)
        (s.wr (carReg R.MXC_CHK_EXCESS n) m.excess).wr (carReg R.MXC_CHK_POS n) (m.product * 2 ^ 16 + m.index)
    let u := coreUnit n (s.coreOf n core)
    let s := s.missEvent u 0x0D (ms.filter (·.inj))
    let s := s.missEvent u 1 (ms.filter fun m => !m.inj && m.source = 0)
    let s := s.missEvent u 2 (ms.filter (·.source = 1))
    if f.suspect then s else s.noteCause 0

/-- R68: the injection that a product or attention command takes as it starts on the core that INJ_CORE names. -/
def State.armedInj (s : State) (n : Nat) (w : RecWord) : Option Nat :=
  if (recOpcode w = 0x10 || recOpcode w = 0x11) && s.flag (F.MXC_CHK_CTL_INJ_ARM.car n) && s.fget (F.MXC_CHK_CTL_INJ_CORE.car n) = mxCore w then
    some (s.fget (F.MXC_CHK_CTL_INJ_BIT.car n))
  else none

/-- R68: the injection that this command took as it started; the bit clears as it injects. -/
def State.takeInj (s : State) (f : Flight) : Option Nat × State :=
  (f.inj, if f.inj.isSome then s.fset (F.MXC_CHK_CTL_INJ_ARM.car f.carriage) 0 else s)

/-- Operand class of LOAD (R297). -/
def opClass (strict : Bool) (codes : List Nat) : Nat := if strict then 2 else if codes.all (codeSize · = 1) then 0 else 1

/-- Operand class of the matrix command of a record under a rung, 3 for any other record. -/
def recordClass (rung : Nat) (w : RecWord) : Nat :=
  if recOpcode w = 0x10 then (let g := gemmOf rung w; opClass g.strict [g.aFmt, g.bFmt])
  else if recOpcode w = 0x11 then (let a := attnOf rung w; opClass a.strict [a.qFmt, a.kFmt, a.vFmt])
  else 3

/-- A command's nominal busy time counts for its logical core, with its load signature, whose duty quartile is measured (R58, R297, R300). -/
def State.noteBusy (s : State) (f : Flight) (cycles : Nat) : State :=
  let (duty, s) := s.fresh
  let zero (_ : Nat) : Nat := 0
  let k := 8 * f.carriage + mxCore f.word
  { s with spares := { s.spares with
      busy := tset zero s.spares.busy k (tget zero s.spares.busy k + cycles), ran := tset zero s.spares.ran k (tget zero s.spares.ran k + 1),
      shown := tset zero s.spares.shown (k * 32 + s.loadSig f.cls duty / 8) (tget zero s.spares.shown (k * 32 + s.loadSig f.cls duty / 8) + 1) } }

/-- T of R58, for one product; a strict MX_ATTN's T is the sum over its two products, of which P·V has the F32
operand p (DEDUCED from R80 and R82, which gives T_0 for both together). -/
def busyTime (strict wide : Bool) (t0 : Nat) : Nat := if strict then (if wide then 16 * t0 else 4 * t0) else t0

/-- Rounding of a matrix command's output (R43, R45, R72), for an output of so many columns. MX_ATTN's O is numbered as the matrix of N = D columns
that the command writes (DEDUCED: R43 numbers by e what is no matrix product, and MX_ATTN is two). -/
def mxRnd (f : Flight) (stream cols : Nat) : RndCtx :=
  { mode := fieldOf f.word 143 142, key := f.key, step := f.step, layer := mxLayer f.word, stream := stream, mb := fieldOf f.word 139 134,
    base := fieldOf f.word 511 480, n := cols }

/-- A list cut into pieces with the index of each piece's first element. -/
def ranges {α : Type} (n : Nat) (l : List α) : List (Nat × List α) := (chunksOf n (l.length + 1) l).zipIdx.map fun p => (p.2 * n, p.1)

/-! ### MX_GEMM -/

/-- Saved activations in chunks, one after another; the flag says that a header broke R78. -/
def State.readChunks (s : State) (sp : Space) (a rows cols : Nat) : State × List (List Nat) × Bool × Bool × Nat :=
  (List.range rows).foldl (fun (s, out, unc, broken, a) _ =>
    let (s, row, unc, broken, a) := (ranges 256 (List.replicate cols 0)).foldl (fun (s, row, unc, broken, a) seg =>
      if broken then (s, row, unc, broken, a)
      else
        let (s, hd, u1) := s.readSpace sp a 8
        let h := leNat hd
        if !chunkHeaderOk h then (s, row, unc || u1, true, a)
        else
          let n := up64 (bits h 15 0)
          let (s, bs, u2) := s.readSpace sp a n
          (s, row ++ chunkDecode seg.2.length bs, unc || u1 || u2, false, a + n)) (s, [], unc, broken, a)
    (s, out ++ [row], unc, broken, a)) (s, [], false, false, a)

/-- The saved activation that a derivative reads back (R76). -/
def State.readAux (s : State) (f : Flight) (g : Gemm) : State × List (List Val) × Bool × Bool :=
  let sp := Space.carriage f.carriage
  let a := addr64 f.word 427
  if g.save ≥ 4 then
    let (s, rows, unc, broken, _) := s.readChunks sp a g.m g.width
    (s, rows.map fun r => r.map (decodeScalar (saveFmt g.save)), unc, broken)
  else
    let (s, rows, unc) := s.readMat sp (mkMat a g.m g.width (saveFmt g.save))
    (s, rows, unc, false)

/-- R72, R75, R76: an output row from its scaled and biased accumulators and its saved activations. -/
def Gemm.outRow (g : Gemm) (v aux : List Val) : List Val :=
  let at' (l : List Val) (i : Nat) : Val := l.getD i .zero
  if g.deriv = 0 then
    if g.gate then (List.range (g.n / 2)).map fun j => fMul (at' v j) (funcY g.func (at' v (j + g.n / 2)))
    else v.map (funcY g.func)
  else if g.gate then
    ((List.range g.n).map fun j => fMul (at' v j) (funcY g.func (at' aux (g.n + j)))) ++
      ((List.range g.n).map fun j => fMul (fMul (at' v j) (at' aux j)) (funcDz g.func (at' aux (g.n + j))))
  else List.zipWith (fun x y => fMul x (if g.deriv = 1 then funcDz g.func y else funcDy g.func y)) v aux

/-! ### The drain (R66, R79) -/

/-- Bytes of an output row as a datapath of the drain gives them: the row, their place in the row's bytes, their address. -/
structure Strip where
  row   : Nat
  off   : Nat
  addr  : Nat
  bytes : List Byte
deriving DecidableEq, Repr

/-- The strips of a matrix of values, each with its rounding, and their conversions: elements, then scale bytes, of each row. -/
def matStrips (m : Mat) (strict : Bool) (rows : List (List (Val × Rnd))) : List Strip × List Conv :=
  let rs := rows.zipIdx.map fun p => (p.2, encodeRow m.fmt strict p.1)
  (rs.flatMap fun p => ⟨p.1, 0, m.base + p.1 * m.pitch, p.2.1⟩ ::
      (if m.fmt.isBlock then [⟨p.1, p.2.1.length, m.scaleBase + p.1 * up64 m.scales, p.2.2.1⟩] else []),
   rs.flatMap fun p => p.2.2.2)

/-- The chunks of a row of 16-bit values (R78). -/
def rowChunks (form : Nat) (xs : List Nat) : List Byte := (ranges 256 xs).flatMap fun seg => chunkEncode form seg.2

/-- The values that a row's chunks hold, for the lengths of its segments; a header that R78 does not allow ends the decode. -/
def chunkRow : List Nat → List Byte → List Nat
  | [], _ => []
  | n :: ns, bs =>
    let h := leNat (bs.take 8)
    if chunkHeaderOk h then chunkDecode n bs ++ chunkRow ns (bs.drop (up64 (bits h 15 0))) else []

/-- A row's chunks decode to the values that they were coded from (R79, R118). -/
def chunksHold (xs : List Nat) (bs : List Byte) : Bool := chunkRow ((ranges 256 xs).map fun seg => seg.2.length) bs = xs

/-- Coded rows one after another from an address. -/
def chunkStrips (a : Nat) (rows : List (List Byte)) : List Strip :=
  (rows.zipIdx.foldl (fun (out, a) p => (out ++ [⟨p.2, 0, a, p.1⟩], a + p.1.length)) (([] : List Strip), a)).1

/-- A bit of a byte inverted. -/
def flipByte (i b : Nat) (bs : List Byte) : List Byte := bs.modify i (· ^^^ BitVec.ofNat 8 (2 ^ b))

/-- What a datapath gives with its faults. -/
def drainPath (saved second : Bool) (faults : List MxFault) (ss : List Strip) : List Strip :=
  (faults.filter fun x => x.drain && x.saved = saved && x.second = second).foldl (fun ss x => ss.map fun t =>
    if t.row = x.row && t.off ≤ x.col && x.col < t.off + t.bytes.length then { t with bytes := flipByte (x.col - t.off) x.bit t.bytes } else t) ss

/-- The drain of one output: what its first datapath gives is written, and a row in which the second differs is a miss (R66). -/
def drainOut (saved : Bool) (faults : List MxFault) (ss : List Strip) : List Strip × List Nat :=
  let first := drainPath saved false faults ss
  (first, (first.zip (drainPath saved true faults ss)).filterMap fun p => if p.1.bytes ≠ p.2.bytes then some p.1.row else none)

/-- The writes of strips. -/
def stripWrites (ss : List Strip) : List (Nat × List Byte) := ss.map fun t => (t.addr, t.bytes)

/-- The saved form (R77, R78): its writes, its conversions and the rows in which the two datapaths differ or, for chunks, in which what is written
does not decode to the coder's input (R66, R79). -/
def Gemm.saveWrites (g : Gemm) (a : Nat) (faults : List MxFault) (rows : List (List (Val × Rnd))) : List (Nat × List Byte) × List Conv × List Nat :=
  let fm := saveFmt g.save
  if g.save ≥ 4 then
    let cs := rows.map fun r => r.map fun p => convScalar fm g.strict p.2 p.1
    let xs := cs.map fun r => r.map (·.bits)
    let (ss, differ) := drainOut true faults (chunkStrips a (xs.map (rowChunks g.save)))
    let broken := (xs.zip ss).filterMap fun p => if chunksHold p.1 p.2.bytes then none else some p.2.row
    (stripWrites ss, cs.flatMap id, differ ++ broken)
  else
    let (ss, cs) := matStrips (mkMat a g.m g.saveWidth fm) g.strict rows
    let (ss, differ) := drainOut true faults ss
    (stripWrites ss, cs, differ)

/-- The product of one command: accumulators, overflows of the sums, misses of the check lanes (R61 to R64). -/
def Gemm.product (g : Gemm) (tol : Nat) (inj : Option Nat) (faults : List MxFault) (a bcols c : List (List Val)) : List (List Val) × Nat × List Miss :=
  let tiles := (ranges 256 bcols).map fun t =>
    let ct := c.map fun r => (r.drop t.1).take t.2.length
    let accs := (a.zip ct).map fun p => (t.2.zip p.2).map fun q => dotAcc g.strict q.2 p.1 q.1
    let ovf := accs.foldl (fun n r => r.foldl (fun n x => n + x.2) n) 0
    let acc := accs.map fun r => r.map (·.1)
    let acc := match inj with | some b => if t.1 = 0 then flipAt acc 0 0 b else acc | none => acc
    let acc := faults.foldl (fun acc x => if !x.drain && x.product = 0 && t.1 ≤ x.col then flipAt acc x.row (x.col - t.1) x.bit else acc) acc
    (acc, ovf, markInj (inj.isSome && t.1 = 0) (checkTile g.strict tol 0 t.1 a t.2 ct acc))
  ((List.range g.m).map fun i => tiles.flatMap fun t => t.1.getD i [], tiles.foldl (fun n t => n + t.2.1) 0, tiles.flatMap fun t => t.2.2)

/-- What a matrix command computes: the writes of its outputs, the overflows of its sums and inputs, the conversions of its main and of its second
output, the misses of the check lanes. -/
structure MxOut where
  writes : List (Nat × List Byte)
  ovf    : Nat
  convs  : List Conv
  convs2 : List Conv
  misses : List Miss

/-- The values that a GEMM's accumulators give before the function: scaled, and biased (R72); gexp is the gradient exponent of a scaled layer (R153). -/
def Gemm.scaled (g : Gemm) (scale : Nat) (gexp : Option Int) (acc bias : List (List Val)) : List (List Val) :=
  let biasRow := bias.headD []
  acc.map fun r => r.zipIdx.map fun p =>
    let x := if scale = 0x3F800000 then p.1 else fMul p.1 (ofF32 scale)
    let x := match gexp with | some e => x.scaleF32 e | none => x
    if g.bias then fAdd x (biasRow.getD p.2 .zero) else x

/-- MX_GEMM on the values of its operands (R58, R72): rnd rounds d, rnd2 the saved form. -/
def Gemm.compute (g : Gemm) (w : RecWord) (rnd rnd2 : RndCtx) (gexp : Option Int) (tol : Nat) (inj : Option Nat) (faults : List MxFault)
    (am bm cm bias aux : List (List Val)) : MxOut :=
  let a := if g.aT then transpose am else am
  let bcols := if g.bT then bm else transpose bm
  let (a, o1) := if g.strict then inputsF32 true .nearest a else (a, 0)
  let (bcols, o2) := if g.strict then inputsF32 true .nearest bcols else (bcols, 0)
  let (aux, o3) := inputsF32 g.strict .nearest aux
  let (acc, ovf, misses) := g.product tol inj faults a bcols cm
  let v := g.scaled (fieldOf w 479 448) gexp acc bias
  let out := v.zipIdx.map fun p => g.outRow p.1 (aux.getD p.2 [])
  let (ss, cs) := matStrips (gemmD g w) g.strict (withRnd rnd out)
  let (ss, differ) := drainOut false faults ss
  let (ws', cs', differ') :=
    if g.save ≠ 0 && g.deriv = 0 then g.saveWrites (addr64 w 427) faults (withRnd rnd2 (if g.which = 0 then v else out)) else ([], [], [])
  { writes := stripWrites ss ++ ws', ovf := ovf + o1 + o2 + o3, convs := cs, convs2 := cs', misses := misses ++ drainMisses 0 (differ ++ differ') }

/-- What is left of a command's writes where it ends with its outputs partly written (R97, BAD_CHUNK): which of them are made is open, and so is what
those from the one with the number sure on hold. -/
def State.partly (s : State) (ws : List (Nat × List Byte)) (sure : Nat) : List (Nat × List Byte) × State :=
  let (made, s) := s.fresh
  let (held, s) := s.fresh
  ((ws.zipIdx.filter fun p => made.testBit p.2).map fun p => (p.1.1, if p.2 < sure then p.1.2 else leBytes p.1.2.length (held / 2 ^ (2 ^ 20 * p.2))), s)

/-- MX_GEMM (R58, R72). A command that ends with BAD_CHUNK reports no check or drain miss and counts no conversion (DESIGN CHOICE: R65 and R97 do not
say what a command reports that stops at a broken chunk). -/
def State.mxGemm (s : State) (f : Flight) (errs : List MemErr) (faults : List MxFault) : State :=
  let w := f.word
  let layer := mxLayer w
  let kind := mxKind w
  let g := gemmOf (s.rungNow layer) w
  let sp := Space.carriage f.carriage
  let s := s.memErrors errs
  let (s, am, u1) := s.readMat sp (gemmA g w)
  let (s, bm, u2) := s.readMat sp (gemmB g w)
  let (s, cm, u3) := if g.accum then s.readMat sp (gemmC g w) else (s, List.replicate g.m (List.replicate g.n Val.zero), false)
  let (s, bias, u4) := if g.bias then s.readMat sp (gemmBias g w) else (s, [], false)
  let (s, aux, u5, broken) := if g.deriv ≠ 0 then s.readAux f g else (s, [], false, false)
  let (inj, s) := s.takeInj f
  let r := g.compute w (mxRnd f kind g.width) (mxRnd f 5 g.saveWidth) (if kind = 2 && s.scaledLayer layer then some (s.gexpNow layer) else none)
    (s.fget (F.MXC_CHK_CTL_TOL_SCALE.car f.carriage)) inj faults am bm cm bias aux
  if broken then
    let (ws, s) := s.partly r.writes (((aux.takeWhile fun x => x.length = g.width).length) * if (gemmD g w).fmt.isBlock then 2 else 1)
    (s.writeSpace f sp ws).1.finish f.rid 0x18 0
  else
    let (s, wrote) := s.writeSpace f sp r.writes
    let s := s.countConvs f 6 layer kind (Tally.overflows r.ovf)
    let s := s.countConvs f g.dFmt layer kind (Tally.ofConvs r.convs)
    let s := if r.convs2.isEmpty then s else s.countConvs f (saveFmt g.save).code layer 5 (Tally.ofConvs r.convs2)
    let s := s.noteMisses f r.misses
    let s := s.noteBusy f (busyTime g.strict (g.aFmt = 6 || g.bFmt = 6) ((g.k + 255) / 256 * ((g.n + 255) / 256) * max g.m 256))
    s.finish f.rid (endResp (u1 || u2 || u3 || u4 || u5) false wrote) (endDetail wrote)

/-! ### MX_ATTN (R80, R81) -/

/-- Key j is masked for query i. -/
def Attn.masked (a : Attn) (segq segk : List Nat) (i j : Nat) : Bool :=
  (bit a.mask 0 && decide ((j : Int) > i + a.offset)) || (bit a.mask 1 && segq.getD i 0 ≠ segk.getD j 0)

/-- The running state of one query row. -/
structure AttnRow where
  m : Val
  l : Val
  o : List Val
deriving DecidableEq, Repr

/-- What one key block does to one query row after Q·Kᵀ: the row's p, its alpha, and m and l. -/
def Attn.softRow (a : Attn) (x : AttnRow) (scores : List Val) : List Val × Val × Val × (Val × Nat) :=
  let mnew := scores.foldl fMax x.m
  let (alpha, p) :=
    if mnew = .inf true then (Val.one, scores.map fun _ => Val.zero)
    else (fExp (fSub x.m mnew), scores.map fun v => fExp (fSub v mnew))
  let p := if a.strict then p else p.map fun v => decodeScalar .t16 (convScalar .t16 true .nearest v).bits
  (p, alpha, mnew, accumulateAll a.strict (fMul x.l alpha) p)

/-- One key block for every query row; returns the rows, overflows and misses. -/
def Attn.block (a : Attn) (tol scale : Nat) (inj : Option Nat) (faults : List MxFault) (segq segk : List Nat) (q : List (List Val)) (first : Nat)
    (k v : List (List Val)) (rows : List AttnRow) : List AttnRow × Nat × List Miss :=
  let zeros := q.map fun _ => k.map fun _ => Val.zero
  let qk := q.map fun qi => k.map fun kj => dotAcc a.strict .zero qi kj
  let o1 := qk.foldl (fun n r => r.foldl (fun n x => n + x.2) n) 0
  let acc := qk.map fun r => r.map (·.1)
  let acc := match inj with | some b => if first = 0 then flipAt acc 0 0 b else acc | none => acc
  let acc := faults.foldl (fun acc x => if !x.drain && x.product = 1 && first ≤ x.col then flipAt acc x.row (x.col - first) x.bit else acc) acc
  let ms1 := markInj (inj.isSome && first = 0) (checkTile a.strict tol 1 first q k zeros acc)
  let soft := (rows.zip acc).zipIdx.map fun p =>
    let s := p.1.2.zipIdx.map fun x =>
      if a.masked segq segk p.2 (first + x.2) then Val.inf true else if scale = 0x3F800000 then x.1 else fMul x.1 (ofF32 scale)
    a.softRow p.1.1 s
  let vcols := transpose v
  let seeds := (rows.zip soft).map fun p => p.1.o.map fun o => fMul o p.2.2.1
  let pv := (soft.zip seeds).map fun p => (vcols.zip p.2).map fun x => dotAcc a.strict x.2 p.1.1 x.1
  let o2 := pv.foldl (fun n r => r.foldl (fun n x => n + x.2) n) 0
  let acc2 := faults.foldl (fun acc x => if !x.drain && x.product = 2 && first = 0 then flipAt acc x.row x.col x.bit else acc) (pv.map fun r => r.map (·.1))
  let ms2 := checkTile a.strict tol 2 0 (soft.map (·.1)) vcols seeds acc2
  let rows' := (soft.zip acc2).map fun p => AttnRow.mk p.1.2.2.1 p.1.2.2.2.1 p.2
  (rows', o1 + o2 + soft.foldl (fun n p => n + p.2.2.2.2) 0, ms1 ++ ms2)

/-- MX_ATTN on the values of its operands (R80, R81). A drain miss has PRODUCT 2, the product that the outputs come from (DEDUCED: R70 gives a drain
miss its INDEX and AXIS only). -/
def Attn.compute (a : Attn) (w : RecWord) (rnd : RndCtx) (tol : Nat) (inj : Option Nat) (faults : List MxFault) (segq segk : List Nat)
    (q k v : List (List Val)) : MxOut :=
  let cv (rows : List (List Val)) : List (List Val) × Nat := if a.strict then inputsF32 true .nearest rows else (rows, 0)
  let (q, o1) := cv q
  let (k, o2) := cv k
  let (v, o3) := cv v
  let start := List.replicate a.lq (AttnRow.mk (.inf true) .zero (List.replicate a.d .zero))
  let (rows, ovf, misses) := (ranges 256 (k.zip v)).foldl (fun (rows, n, ms) b =>
    let (rows, n', ms') := a.block tol (fieldOf w 479 448) inj faults segq segk q b.1 (b.2.map (·.1)) (b.2.map (·.2)) rows
    (rows, n + n', ms ++ ms')) (start, 0, [])
  let out := rows.map fun r => if r.l.isZero then r.o.map fun _ => Val.zero else r.o.map fun o => fDiv o r.l
  let lse := rows.map fun r => if r.l.isZero then Val.inf true else fAdd r.m (fLog r.l)
  let (ss, cs) := matStrips (attnO a w) a.strict (withRnd rnd out)
  let (ss, differ) := drainOut false faults ss
  let (ls, cs') := if a.lse then matStrips (attnLse a w) a.strict [lse.map fun v => (v, .nearest)] else ([], [])
  let (ls, differ') := drainOut true faults (ls.flatMap fun t => (chunksOf 4 (t.bytes.length + 1) t.bytes).zipIdx.map fun p => ⟨p.2, 0, t.addr + 4 * p.2, p.1⟩)
  { writes := stripWrites ss ++ stripWrites ls, ovf := ovf + o1 + o2 + o3, convs := cs, convs2 := cs', misses := misses ++ drainMisses 2 (differ ++ differ') }

/-- The n segment identifiers that a byte string holds (R81). -/
def segments (bs : List Byte) (n : Nat) : List Nat := (List.range n).map fun i => leNat ((bs.drop (2 * i)).take 2)

/-- MX_ATTN (R80). -/
def State.mxAttn (s : State) (f : Flight) (faults : List MxFault) : State :=
  let w := f.word
  let layer := mxLayer w
  let a := attnOf (s.rungNow layer) w
  let sp := Space.carriage f.carriage
  let (s, q, u1) := s.readMat sp (attnQ a w)
  let (s, k, u2) := s.readMat sp (attnK a w)
  let (s, v, u3) := s.readMat sp (attnV a w)
  let (s, sq, u4) := if a.mask ≥ 2 then s.readSpace sp (addr64 w 427) (2 * a.lq) else (s, [], false)
  let (s, sk, u5) := if a.mask ≥ 2 then s.readSpace sp (segKBase a w) (2 * a.lk) else (s, [], false)
  let (inj, s) := s.takeInj f
  let r := a.compute w (mxRnd f 3 a.d) (s.fget (F.MXC_CHK_CTL_TOL_SCALE.car f.carriage)) inj faults (segments sq a.lq) (segments sk a.lk) q k v
  let (s, wrote) := s.writeSpace f sp r.writes
  let s := s.countConvs f 6 layer 3 ((Tally.overflows r.ovf).plus (Tally.ofConvs r.convs2))
  let s := s.countConvs f a.oFmt layer 3 (Tally.ofConvs r.convs)
  let s := s.noteMisses f r.misses
  let half := (a.lk + 255) / 256 * max a.lq 256
  let s := s.noteBusy f (busyTime a.strict (a.qFmt = 6 || a.kFmt = 6) half + busyTime a.strict true half)
  s.finish f.rid (endResp (u1 || u2 || u3 || u4 || u5) false wrote) (endDetail wrote)

/-! ### The commands -/

/-- The engine of a record in flight is a carriage's unit: 0 MX, 1 VX, 2 MV. -/
def Flight.onUnit (f : Flight) (u op : Nat) : Bool := queueEngine f.queue < 12 && queueEngine f.queue % 3 = u && recOpcode f.word = op

/-- MX_GEMM: the product of the record in flight, with the memory errors and core faults met on the way. -/
def execMxGemm (rid : Nat) (errs : List MemErr) (faults : List MxFault) (s : State) : Host.Outcome State Fault Refusal :=
  .next (s.work rid (·.onUnit 0 0x10) fun f s => s.mxGemm f errs faults)

/-- MX_ATTN: one fused attention head. -/
def execMxAttn (rid : Nat) (faults : List MxFault) (s : State) : Host.Outcome State Fault Refusal :=
  .next (s.work rid (·.onUnit 0 0x11) fun f s => s.mxAttn f faults)

end Sys2Proof.Machine
end

