-- ==== Sys2Proof/Machine/Vector.lean ====
section
/-! DEFINITION. The vector engine (04, R111 to R115, R119) and the fused optimizer commands (06, R151, R157). -/
namespace Sys2Proof.Machine

/-! ### Records -/

structure VxRec where
  op     : Nat
  aFmt   : Nat
  bFmt   : Nat
  cFmt   : Nat
  dFmt   : Nat
  bMode  : Nat
  cMode  : Nat
  rows   : Nat
  cols   : Nat
  strict : Bool
  accum  : Bool
  axis   : Bool
  imm    : Nat
deriving DecidableEq, Repr

def vxOf (rung : Nat) (w : RecWord) : VxRec :=
  { op := fieldOf w 167 160, aFmt := substFmt rung (fieldOf w 171 168), bFmt := substFmt rung (fieldOf w 175 172), cFmt := substFmt rung (fieldOf w 179 176),
    dFmt := substFmt rung (fieldOf w 183 180), bMode := fieldOf w 185 184, cMode := fieldOf w 187 186, rows := fieldOf w 223 208, cols := fieldOf w 207 192,
    strict := bit w.toNat 144 || rung = 2, accum := bit w.toNat 189, axis := bit w.toNat 188, imm := fieldOf w 255 224 }

def vxA (w : RecWord) : Nat := addr64 w 256
def vxB (w : RecWord) : Nat := addr64 w 288
def vxC (w : RecWord) : Nat := addr64 w 320
def vxD (w : RecWord) : Nat := addr64 w 352

/-- Whether a VX_EW operation reads b, and c (R113). -/
def ewReadsB (op : Nat) : Bool := (1 ≤ op && op ≤ 7) || (0x18 ≤ op && op ≤ 0x27)
def ewReadsC (op : Nat) : Bool := op = 5

/-- An operand in its mode (R112). -/
def vxMat (base mode rows cols fmt : Nat) : Mat :=
  match mode with
  | 1 => mkMat base 1 cols (fmtD fmt)
  | 2 => mkMat base 1 rows (fmtD fmt)
  | _ => mkMat base rows cols (fmtD fmt)

/-- The memory operands of a VX_EW record: A, then B and C where they are read and not IMM. -/
def ewIns (v : VxRec) (w : RecWord) : List Mat :=
  mkMat (vxA w) v.rows v.cols (fmtD v.aFmt) ::
    ((if ewReadsB v.op && v.bMode ≠ 3 then [vxMat (vxB w) v.bMode v.rows v.cols v.bFmt] else []) ++
     (if ewReadsC v.op && v.cMode ≠ 3 then [vxMat (vxC w) v.cMode v.rows v.cols v.cFmt] else []))

/-- Reserved bits that the records of the vector engine share. -/
def vxReserved (w : RecWord) : Bool := recHeaderOk w && reservedZero w [(147, 145), (141, 140), (133, 128)]

/-- R119 for VX_EW. D that is exactly A may be B or C as well, where these are the same matrix (DEDUCED: the exception of code 0x06 is D = A exactly). -/
def ewDetail (v : VxRec) (w : RecWord) : Nat :=
  let ins := ewIns v w
  let a := mkMat (vxA w) v.rows v.cols (fmtD v.aFmt)
  let d := mkMat (vxD w) v.rows v.cols (fmtD v.dFmt)
  let okFmt (c : Nat) : Bool := if v.op = 0 then (Fmt.ofCode c).isSome else floatCode c
  let inPlace := d.base = a.base && d.bytes = a.bytes && d.fmt.size = a.fmt.size
  let imms := (if ewReadsB v.op && v.bMode = 3 then 1 else 0) + (if ewReadsC v.op && v.cMode = 3 then 1 else 0)
  lowest [
    (0x01, !(okFmt v.aFmt && okFmt v.dFmt) || (ewReadsB v.op && v.bMode ≠ 3 && !floatCode v.bFmt) || (ewReadsC v.op && v.cMode ≠ 3 && !floatCode v.cFmt)),
    (0x03, fieldOf w 143 142 = 3),
    (0x04, v.rows = 0 || v.cols = 0),
    (0x05, (d :: ins).any fun m => !localMapped m.base m.bytes),
    (0x06, ins.any fun m => overlaps d.base d.bytes m.base m.bytes && !(m = a && inPlace)),
    (0x0F, !vxReserved w || !reservedZero w [(479, 373), (351, 341), (319, 309), (287, 277), (191, 190)]),
    (0x10, v.op > 0x27 || imms > 1 || (0x20 ≤ v.op && v.op ≤ 0x27 && !fromY (v.op - 0x20))),
    (0x15, v.accum || v.axis)]

/-- Outputs of VX_RED. -/
def VxRec.outs (v : VxRec) : Nat := if v.axis then v.cols else v.rows

/-- R119 for VX_RED. -/
def redDetail (v : VxRec) (w : RecWord) : Nat :=
  let a := mkMat (vxA w) v.rows v.cols (fmtD v.aFmt)
  let c := mkMat (vxC w) 1 v.outs .f32
  let d := mkMat (vxD w) 1 v.outs (fmtD v.dFmt)
  let ins := a :: (if v.accum then [c] else [])
  lowest [
    (0x01, !(floatCode v.aFmt && floatCode v.dFmt)),
    (0x02, !v.strict && v.aFmt = 6),
    (0x03, fieldOf w 143 142 = 3),
    (0x04, v.rows = 0 || v.cols = 0),
    (0x05, (d :: ins).any fun m => !localMapped m.base m.bytes),
    (0x06, ins.any fun m => overlaps d.base d.bytes m.base m.bytes),
    (0x0F, !vxReserved w || !reservedZero w [(479, 373), (351, 341), (319, 309), (287, 277), (191, 190)]),
    (0x10, v.op > 5)]

/-- VX_PCM's fields (R115). -/
def pcmBytes (w : RecWord) : Nat := fieldOf w 161 160 + 2
def pcmChannels (w : RecWord) : Nat := fieldOf w 164 162 + 1
def pcmFrames (w : RecWord) : Nat := fieldOf w 223 192
def pcmOut (w : RecWord) : Mat := mkMat (vxD w) (pcmChannels w) (pcmFrames w) (fmtD (fieldOf w 183 180))
def pcmIn (w : RecWord) : Nat := pcmFrames w * pcmChannels w * pcmBytes w

/-- R119 for VX_PCM. The reserved PCM_BITS value gives 0x10, as a reserved OP does (DEDUCED: R115 calls the value reserved and no code names it). -/
def pcmDetail (w : RecWord) : Nat :=
  lowest [
    (0x01, !floatCode (fieldOf w 183 180)),
    (0x03, fieldOf w 143 142 = 3),
    (0x04, pcmFrames w = 0 || pcmFrames w > 4194304),
    (0x05, !localMapped (vxA w) (pcmIn w) || !localMapped (pcmOut w).base (pcmOut w).bytes),
    (0x06, overlaps (pcmOut w).base (pcmOut w).bytes (vxA w) (pcmIn w)),
    (0x0F, !vxReserved w || !reservedZero w [(479, 373), (351, 341), (319, 309), (287, 277), (255, 224), (191, 184), (179, 165)]),
    (0x10, fieldOf w 161 160 = 3)]

/-- The optimizer records' arrays (R157). -/
def optG (w : RecWord) : Mat := mkMat (addr64 w 299) 1 (fieldOf w 214 192) (fmtD (fieldOf w 191 188))
def optW (w : RecWord) : Mat := mkMat (addr64 w 278) 1 (fieldOf w 214 192) .f32
def optM (w : RecWord) : Mat := mkMat (addr64 w 257) 1 (fieldOf w 214 192) .f32
def optV (w : RecWord) : Mat := mkMat (addr64 w 236) 1 (fieldOf w 214 192) .f32
def optD (w : RecWord) : Mat := mkMat (addr64 w 215) 1 (fieldOf w 214 192) (fmtD (fieldOf w 187 184))

def optDetail (w : RecWord) : Nat :=
  let f32s := [optW w, optM w] ++ (if recOpcode w = 0x22 then [optV w] else [])
  let all := optG w :: optD w :: f32s
  lowest [
    (0x01, !(floatCode (fieldOf w 191 188) && floatCode (fieldOf w 187 184))),
    (0x03, fieldOf w 143 142 = 3),
    (0x04, fieldOf w 214 192 = 0 || fieldOf w 214 192 > 4194304),
    (0x05, all.any fun m => !localMapped m.base m.bytes),
    (0x06, all.zipIdx.any fun p => all.zipIdx.any fun q => p.2 < q.2 && overlaps p.1.base p.1.bytes q.1.base q.1.bytes),
    (0x0F, !vxReserved w || !reservedZero w [(183, 160)])]

/-- The detail code of a vector record, 0 for none (R119, R88). -/
def State.vxDetail (s : State) (stepped : Bool) (w : RecWord) : Nat :=
  let v := vxOf (s.rungNow (mxLayer w)) w
  let op := recOpcode w
  let d :=
    if op = 0x20 then ewDetail v w else if op = 0x21 then redDetail v w else if op = 0x28 then pcmDetail w
    else if op = 0x22 || op = 0x23 || op = 0x24 then optDetail w else 0x0E
  if d ≠ 0 then d else if stepped then 0 else 0x16

/-! ### Common -/

/-- The rounding of a vector or move command's conversions (R43). -/
def vxRnd (f : Flight) (stream : Nat) : RndCtx := mxRnd f stream 256

/-- Values numbered in output order with their rounding (R43). -/
def withElem (x : RndCtx) (cols : Nat) (rows : List (List Val)) : List (List (Val × Rnd)) :=
  rows.zipIdx.map fun p => p.1.zipIdx.map fun q => (q.1, rndElem x (p.2 * cols + q.2))

/-- The values of an operand for a matrix of rows × cols (R112). -/
def spreadMode (mode rows cols imm : Nat) (m : List (List Val)) : List (List Val) :=
  match mode with
  | 1 => List.replicate rows (m.headD [])
  | 2 => (m.headD []).map fun v => List.replicate cols v
  | 3 => List.replicate rows (List.replicate cols (ofF32 imm))
  | _ => m

/-- R113. -/
def ewOp (op : Nat) (a b c : Val) : Val :=
  match op with
  | 0 => a
  | 1 => fAdd a b
  | 2 => fSub a b
  | 3 => fMul a b
  | 4 => fDiv a b
  | 5 => fFma a b c
  | 6 => fMax a b
  | 7 => fMin a b
  | 8 => fSqrt a
  | 9 => fDiv .one (fSqrt a)
  | 0xA => fExp a
  | 0xB => fLog a
  | 0xC => fTanh a
  | 0xD => fErf a
  | 0xE => a.abs
  | 0xF => a.neg
  | op =>
    if op < 0x18 then funcY (op - 0x10) a
    else if op < 0x20 then fMul a (funcDz (op - 0x18) b)
    else fMul a (funcDy (op - 0x20) b)

/-- Copies the bytes of a matrix, scale bytes included, to another of the same format (R35). -/
def State.copyMat (s : State) (f : Flight) (sp sp' : Space) (a d : Mat) : State × Bool × Wrote :=
  let ranges := (List.range a.rows).flatMap fun r => (a.rowRanges r).zip (d.rowRanges r)
  let (s, ws, unc) := ranges.foldl (fun (s, ws, unc) p =>
    let (s, bs, u) := s.readSpace sp p.1.1 p.1.2
    (s, ws ++ [(p.2.1, bs)], unc || u)) (s, [], false)
  let (s, w) := s.writeSpace f sp' ws
  (s, unc, w)

/-! ### The commands -/

/-- What a vector command computes: the writes of its outputs, the overflows of its inputs and sums, its counted conversions. -/
structure VxOut where
  writes : List (Nat × List Byte)
  ovf    : Nat
  convs  : List Conv

/-- VX_EW on the values of its operands (R112, R113). An input of a block format beyond the F32 range enters as R36 has it to nearest even, whatever RND
is: an infinity in strict mode (DEDUCED: R41 lets RND govern the conversions of the output and not which row of R36 an input takes; the same holds
for VX_RED, the optimizer's gradient and a saved activation that is read back). -/
def VxRec.elementwise (v : VxRec) (w : RecWord) (rnd : RndCtx) (a b c : List (List Val)) : VxOut :=
  let (a, o1) := if v.op = 0 then (a, 0) else inputsF32 v.strict .nearest a
  let (b, o2) := inputsF32 v.strict .nearest b
  let (c, o3) := inputsF32 v.strict .nearest c
  let bs := if ewReadsB v.op then spreadMode v.bMode v.rows v.cols v.imm b else []
  let cs := if ewReadsC v.op then spreadMode v.cMode v.rows v.cols v.imm c else []
  let out := a.zipIdx.map fun p => p.1.zipIdx.map fun q => ewOp v.op q.1 ((bs.getD p.2 []).getD q.2 .zero) ((cs.getD p.2 []).getD q.2 .zero)
  let (ws, conv) := matWrites (mkMat (vxD w) v.rows v.cols (fmtD v.dFmt)) v.strict (withElem rnd v.cols out)
  { writes := ws, ovf := o1 + o2 + o3, convs := conv }

/-- VX_EW (R112, R113). -/
def State.vxEw (s : State) (f : Flight) : State :=
  let w := f.word
  let layer := mxLayer w
  let v := vxOf (s.rungNow layer) w
  let sp := Space.carriage f.carriage
  let am := mkMat (vxA w) v.rows v.cols (fmtD v.aFmt)
  let dm := mkMat (vxD w) v.rows v.cols (fmtD v.dFmt)
  if v.op = 0 && v.aFmt = v.dFmt then
    let (s, unc, wr) := s.copyMat f sp sp am dm
    s.finish f.rid (endResp unc false wr) (endDetail wr)
  else
    let (s, a, u1) := s.readMat sp am
    let (s, b, u2) := if ewReadsB v.op && v.bMode ≠ 3 then s.readMat sp (vxMat (vxB w) v.bMode v.rows v.cols v.bFmt) else (s, [], false)
    let (s, c, u3) := if ewReadsC v.op && v.cMode ≠ 3 then s.readMat sp (vxMat (vxC w) v.cMode v.rows v.cols v.cFmt) else (s, [], false)
    let r := v.elementwise w (vxRnd f 6) a b c
    let (s, wr) := s.writeSpace f sp r.writes
    let s := s.countConvs f 6 layer 6 (Tally.overflows r.ovf)
    let s := s.countConvs f v.dFmt layer 6 (Tally.ofConvs r.convs)
    s.finish f.rid (endResp (u1 || u2 || u3) false wr) (endDetail wr)

/-- R114: one reduction over its terms from its initial value; the second component counts overflows. -/
def reduceOne (op : Nat) (strict : Bool) (init : Option Val) (xs : List Val) : Val × Nat :=
  match op with
  | 0 => accumulateAll strict (init.getD .zero) xs
  | 1 => accumulateAll strict (init.getD .zero) (xs.map fun x => x.mulExact x)
  | 2 => accumulateAll strict (init.getD .zero) (xs.map Val.abs)
  | op =>
    let ys := (match init with | some c => [c] | none => []) ++ (if op = 5 then xs.map Val.abs else xs)
    match ys with
    | [] => (.zero, 0)
    | y :: ys => (ys.foldl (if op = 4 then fMin else fMax) y, 0)

/-- VX_RED on the values of its operands (R114). -/
def VxRec.reduce (v : VxRec) (w : RecWord) (rnd : RndCtx) (a c : List (List Val)) : VxOut :=
  let (a, o1) := inputsF32 v.strict .nearest a
  let lines := if v.axis then transpose a else a
  let rs := lines.zipIdx.map fun p => reduceOne v.op v.strict (if v.accum then (c.headD [])[p.2]? else none) p.1
  let (ws, conv) := matWrites (mkMat (vxD w) 1 v.outs (fmtD v.dFmt)) v.strict (withElem rnd v.outs [rs.map (·.1)])
  { writes := ws, ovf := o1 + rs.foldl (fun n r => n + r.2) 0, convs := conv }

/-- VX_RED (R114). -/
def State.vxRed (s : State) (f : Flight) : State :=
  let w := f.word
  let layer := mxLayer w
  let v := vxOf (s.rungNow layer) w
  let sp := Space.carriage f.carriage
  let (s, a, u1) := s.readMat sp (mkMat (vxA w) v.rows v.cols (fmtD v.aFmt))
  let (s, c, u2) := if v.accum then s.readMat sp (mkMat (vxC w) 1 v.outs .f32) else (s, [], false)
  let r := v.reduce w (vxRnd f 6) a c
  let (s, wr) := s.writeSpace f sp r.writes
  let s := s.countConvs f 6 layer 6 (Tally.overflows r.ovf)
  let s := s.countConvs f v.dFmt layer 6 (Tally.ofConvs r.convs)
  s.finish f.rid (endResp (u1 || u2) false wr) (endDetail wr)

/-- VX_PCM on the bytes of its samples (R115): sample i × channels + c is element i of row c, an integer as a fraction of the full scale. -/
def pcmCompute (w : RecWord) (rnd : RndCtx) (bs : List Byte) : VxOut :=
  let n := pcmBytes w
  let ch := pcmChannels w
  let arr := bs.toArray
  let sample (i : Nat) : Val :=
    let x := toSigned (8 * n) ((List.range n).foldl (fun v j => v + (arr.getD (n * i + j) 0).toNat * 256 ^ j) 0)
    .fin (x < 0) x.natAbs (-(8 * n - 1 : Nat))
  let out := (List.range ch).map fun c => (List.range (pcmFrames w)).map fun i => sample (i * ch + c)
  let (ws, conv) := matWrites (pcmOut w) (bit w.toNat 144) (withElem rnd (pcmFrames w) out)
  { writes := ws, ovf := 0, convs := conv }

/-- VX_PCM (R115). -/
def State.vxPcm (s : State) (f : Flight) : State :=
  let w := f.word
  let sp := Space.carriage f.carriage
  let (s, bs, unc) := s.readSpace sp (vxA w) (pcmIn w)
  let r := pcmCompute w (vxRnd f 6) bs
  let (s, wr) := s.writeSpace f sp r.writes
  let s := s.countConvs f (pcmOut w).fmt.code (mxLayer w) 6 (Tally.ofConvs r.convs)
  s.finish f.rid (endResp unc false wr) (endDetail wr)

/-- The new moments and the update u of one element (R157). -/
def optStep (op : Nat) (b1 b2 beta1 beta2 eps g m v : Val) : Val × Val × Val :=
  match op with
  | 0x22 =>
    let m := fFma beta1 m (fMul b1 g)
    let v := fFma beta2 v (fMul b2 (fMul g g))
    (m, v, fDiv m (fAdd (fSqrt v) eps))
  | 0x23 =>
    let m := fFma beta1 m g
    (m, v, m)
  | _ =>
    let c := fFma beta1 m (fMul b1 g)
    let u := if c = .nan then Val.nan else if c.isZero then .zero else if c.isNeg then Val.one.neg else .one
    (fFma beta2 m (fMul b2 g), v, u)

/-- What a fused optimizer command computes: as VxOut, and its two partial sums (R151). -/
structure OptOut extends VxOut where
  upd : Val
  wsq : Val

/-- A fused optimizer command on the values of its arrays (R157, R151). -/
def optCompute (w : RecWord) (rnd : RndCtx) (g ws ms vs : List (List Val)) : OptOut :=
  let op := recOpcode w
  let strict := bit w.toNat 144
  let c (lo : Nat) : Val := ofF32 (fieldOf w (lo + 31) lo)
  let lr := c 448
  let beta1 := c 416
  let beta2 := c 384
  let wd := c 320
  let b1 := fSub .one beta1
  let b2 := fSub .one beta2
  let (g, o1) := inputsF32 strict .nearest g
  let gs := g.headD []
  let ms := (ms.headD []).toArray
  let vs := (vs.headD []).toArray
  let olds := ws.headD []
  let res := (gs.zip olds).zipIdx.map fun p =>
    let (m, v, u) := optStep op b1 b2 beta1 beta2 (c 352) p.1.1 (ms.getD p.2 .zero) (vs.getD p.2 .zero)
    let t := fFma wd p.1.2 u
    (m, v, fFma lr.neg t p.1.2)
  let news := res.map fun r => r.2.2
  let exact (vs : List Val) : List (List (Val × Rnd)) := [vs.map fun v => (v, .nearest)]
  let (dws, dcs) := matWrites (optD w) strict (withElem rnd (fieldOf w 214 192) [news])
  let writes := (matWrites (optM w) strict (exact (res.map (·.1)))).1 ++
    (if op = 0x22 then (matWrites (optV w) strict (exact (res.map fun r => r.2.1))).1 else []) ++ (matWrites (optW w) strict (exact news)).1 ++ dws
  let cs := (dcs.zip news).map fun p =>
    { p.1 with nan := p.2 = .nan || (p.1.nan && p.2 ≠ .nan), inf := match p.2 with | .inf _ => true | _ => p.1.inf }
  let deltas := (news.zip olds).map fun p => fSub p.1 p.2
  { writes := writes, ovf := o1, convs := cs, upd := (accumulateAll strict .zero (deltas.map fun x => x.mulExact x)).1,
    wsq := (accumulateAll strict .zero (olds.map fun x => x.mulExact x)).1 }

/-- A fused optimizer command (R157, R151): it updates W, M and for 0x22 V in place, writes D and adds its partial sums. -/
def State.vxOpt (s : State) (f : Flight) : State :=
  let w := f.word
  let layer := mxLayer w
  let sp := Space.carriage f.carriage
  let (s, g, u1) := s.readMat sp (optG w)
  let (s, ws, u2) := s.readMat sp (optW w)
  let (s, ms, u3) := s.readMat sp (optM w)
  let (s, vs, u4) := if recOpcode w = 0x22 then s.readMat sp (optV w) else (s, [], false)
  let r := optCompute w (vxRnd f 4) g ws ms vs
  let (s, wr) := s.writeSpace f sp r.writes
  let s := s.countConvs f 6 layer 4 (Tally.overflows r.ovf)
  let s := s.countConvs f (fieldOf w 187 184) layer 4 (Tally.ofConvs r.convs)
  let s := if f.suspect then s else s.addPartials layer r.upd r.wsq
  s.finish f.rid (endResp (u1 || u2 || u3 || u4) false wr) (endDetail wr)

/-- VX_EW: the element-wise operation of the record in flight. -/
def execVxEw (rid : Nat) (s : State) : Host.Outcome State Fault Refusal := .next (s.work rid (·.onUnit 1 0x20) fun f s => s.vxEw f)

/-- VX_RED: the reduction of the record in flight. -/
def execVxRed (rid : Nat) (s : State) : Host.Outcome State Fault Refusal := .next (s.work rid (·.onUnit 1 0x21) fun f s => s.vxRed f)

/-- VX_PCM: the audio conversion of the record in flight. -/
def execVxPcm (rid : Nat) (s : State) : Host.Outcome State Fault Refusal := .next (s.work rid (·.onUnit 1 0x28) fun f s => s.vxPcm f)

/-- VX_OPT_MOMENT: the moment optimizer update of the record in flight. -/
def execVxOptMoment (rid : Nat) (s : State) : Host.Outcome State Fault Refusal := .next (s.work rid (·.onUnit 1 0x22) fun f s => s.vxOpt f)

/-- VX_OPT_SGDM: the momentum optimizer update of the record in flight. -/
def execVxOptSgdm (rid : Nat) (s : State) : Host.Outcome State Fault Refusal := .next (s.work rid (·.onUnit 1 0x23) fun f s => s.vxOpt f)

/-- VX_OPT_SIGN: the sign optimizer update of the record in flight. -/
def execVxOptSign (rid : Nat) (s : State) : Host.Outcome State Fault Refusal := .next (s.work rid (·.onUnit 1 0x24) fun f s => s.vxOpt f)

end Sys2Proof.Machine
end

