-- ==== Sys2Proof/Machine/Collective.lean ====
section
/-! DEFINITION. The collective engine (10_collectives_and_mapping): ring collectives, point-to-point transfers, remote signals, the packets that
arrive for them, their answers and resends, and layout changes. -/
namespace Sys2Proof.Machine

/-! ### Record checks (R249, R251, R255) -/

/-- TARGET of CX_SEND and CX_SIGNAL as a logical coordinate; none for an offset outside the cut or a coordinate outside FAB_DIMS. -/
def State.cxTarget (s : State) (w : RecWord) : Option Nat :=
  let t := fieldOf w 351 334
  if fieldOf w 333 333 = 1 then
    let cut := coCut w
    let m : Int := s.member cut + toSigned 8 (t % 256)
    if 0 ≤ m && m < s.members cut then some (s.memberCoord cut m.toNat) else none
  else if (List.range 3).all fun axis => axisOf t axis < s.dimOf axis then some t else none

/-- A format that a reduction takes (R247). -/
def coReduces (c : Nat) : Bool := c = 4 || c = 5 || c = 6

/-- The elements of a collective's source and destination (R245). -/
def State.coSpans (s : State) (w : RecWord) : Nat × Nat :=
  let (lo, hi) := s.shardSpan w
  match recOpcode w with
  | 0x40 => (coCount w, coCount w)
  | 0x41 => (coCount w, hi - lo)
  | _ => (hi - lo, coCount w)

def coDst (w : RecWord) : Nat := fieldOf w 479 432
def coSrc (w : RecWord) : Nat := fieldOf w 431 384
def coSrcFmt (w : RecWord) : Nat := fieldOf w 167 164
def coDstFmt (w : RecWord) : Nat := if recOpcode w = 0x42 then fieldOf w 167 164 else fieldOf w 171 168

/-- The INVALID_FIELD detail of a collective-engine record; step is the STEP of its ring entry. -/
def State.cxDetail (s : State) (step : Nat) (w : RecWord) : Nat :=
  let op := recOpcode w
  if 0x40 ≤ op && op ≤ 0x42 then
    let sf := fieldOf w 167 164
    let df := fieldOf w 171 168
    let pf := fieldOf w 175 172
    let reduces := op ≠ 0x42
    let bad (c : Nat) : Bool := (Fmt.ofCode c).isNone
    lowest [
      (0x01, bad sf || bad df || (reduces && bad pf)),
      (0x03, fieldOf w 143 142 = 3),
      (0x04, coCount w = 0),
      (0x0F, !recHeaderOk w || !reservedZero w [(319, 176), (147, 145), (141, 140), (133, 128)]),
      (0x11, coDst w % 64 ≠ 0 || coSrc w % 64 ≠ 0),
      (0x19, fieldOf w 163 162 > 1 ||
        (if reduces then !coReduces sf || !coReduces df || (pf ≠ 5 && pf ≠ 6) else sf ≠ df || (match Fmt.ofCode sf with | some f => f.isBlock | none => false))),
      (0x1A, s.que.flights.any fun f => queueEngine f.queue = 12 && 0x40 ≤ recOpcode f.word && recOpcode f.word ≤ 0x42 && f.step = step &&
        coCut f.word = coCut w && coId f.word = coId w)]
  else if op = 0x43 then
    lowest [
      (0x04, fieldOf w 383 352 = 0 || fieldOf w 383 352 % 64 ≠ 0),
      (0x0F, !recHeaderOk w || !reservedZero w [(511, 480), (326, 320), (319, 306), (305, 162), (159, 128)] ||
        (fieldOf w 333 333 = 1 && fieldOf w 351 342 ≠ 0)),
      (0x11, coDst w % 64 ≠ 0 || coSrc w % 64 ≠ 0),
      (0x18, (s.cxTarget w).isNone)]
  else if op = 0x44 then
    lowest [
      (0x0F, !recHeaderOk w || !reservedZero w [(511, 480), (479, 384), (332, 320), (305, 162), (159, 128)] ||
        (fieldOf w 333 333 = 1 && fieldOf w 351 342 ≠ 0)),
      (0x18, (s.cxTarget w).isNone)]
  else 0x0E

/-- The memory of this device that a collective-engine record reads and writes. -/
def State.cxRanges (s : State) (w : RecWord) : List (Nat × Nat) :=
  let op := recOpcode w
  if op = 0x43 then [(coSrc w, fieldOf w 383 352)]
  else if 0x40 ≤ op && op ≤ 0x42 then
    let (a, b) := s.coSpans w
    [(coSrc w, a * coSize (coSrcFmt w)), (coDst w, b * coSize (coDstFmt w))]
  else []

/-- The address-error detail of a collective-engine record (R97, R249, R251). -/
def State.cxAddress (s : State) (c : Ctx) (w : RecWord) : Nat := lowest ((s.cxRanges w).map fun r => (s.rangeDetail c r.1 r.2, true))

/-! ### Ends of operations -/

/-- A record whose work has begun: every packet of it has been accepted and nothing of its collective is left, so its work is done (R251). -/
def State.settleOp (s : State) (rid : Nat) : State :=
  match s.cx.begun.find? (·.1 = rid), s.flight? rid with
  | some (_, unc), some f =>
    if f.resp.isSome || (s.getOp rid).isSome || s.cx.sigWait.contains rid || s.cx.pend.any (·.opid = rid) then s
    else ({ s with cx := { s.cx with begun := s.cx.begun.filter (·.1 ≠ rid) } }).finish rid (if unc then 0x15 else 0) 0
  | _, _ => s

/-- The work of a record begins. -/
def State.beginOp (s : State) (rid : Nat) (unc : Bool) : State := { s with cx := { s.cx with begun := s.cx.begun ++ [(rid, unc)] } }

/-! ### Running a collective (R246 to R248) -/

/-- The counts of a collective's conversions (R246, R247). -/
def State.countCo (s : State) (rid fmt : Nat) (cs : List Conv) : State :=
  match s.flight? rid with
  | some f => if cs.isEmpty then s else s.countConvs f fmt (fieldOf f.word 159 148) 8 (Tally.ofConvs cs)
  | none => s

/-- The finished collective's bytes are written. -/
def State.coWrite (s : State) (o : RingOp) (f : Flight) : State :=
  let w := o.word
  let (lo, hi) := s.shardSpan w
  let vs := if recOpcode w = 0x41 then (o.vals.drop lo).take (hi - lo) else o.vals
  let (s, wr) := s.writeAs f (coDst w) (vs.flatMap (leBytes (coSize (coDstFmt w))))
  let s := { s with cx := { s.cx with ops := s.cx.ops.filter (·.rid ≠ o.rid) } }
  match wr with
  | .ok => s.settleOp o.rid
  | .unc => { s with cx := { s.cx with begun := s.cx.begun.map fun (b : Nat × Bool) => if b.1 = o.rid then (b.1, true) else b } } |>.settleOp o.rid
  | r => s.endOp o.rid r.resp 0

/-- Data that has arrived for the current phase is used. -/
def State.useInbox (s : State) (o : RingOp) (b : Nat) (gather : Bool) : State × RingOp :=
  let now := o.inbox.filter fun x => x.part = b && x.gather = gather
  let o := { o with inbox := o.inbox.filter fun x => !(x.part = b && x.gather = gather) }
  now.foldl (fun (s, o) x =>
    let (o, cs) := s.useRing o x
    (s.countCo o.rid 5 cs, o)) (s, o)

/-- One ring's next step is sent when the neighbour is ready and the data it carries has arrived (R248). -/
def State.sendRingStep (s : State) (o : RingOp) (b : Nat) (gather down : Bool) (last : Nat) : State × RingOp :=
  let r := if down then o.sentDn else o.sentUp
  if r < last && o.ready.contains (b * 2 + b2n down) && (r = 0 || s.stepDone o b gather down (r - 1)) then
    let (s, o) := s.sendStep o b gather down r
    (s, if down then { o with sentDn := r + 1 } else { o with sentUp := r + 1 })
  else (s, o)

/-- One turn of a collective: use what has arrived, send what can be sent, end the phase. -/
def State.ringTurn (s : State) (o : RingOp) (f : Flight) : State :=
  match o.phases with
  | [] => s.coWrite o f
  | (b, gather) :: rest =>
    let last := (s.part (coCut o.word) b).size - 1
    let (s, o) := s.useInbox o b gather
    let (s, o) := s.sendRingStep o b gather false last
    let (s, o) := s.sendRingStep o b gather true last
    let arrived := (List.range last).all fun r => s.stepDone o b gather false r && s.stepDone o b gather true r
    if o.sentUp = last && o.sentDn = last && arrived then
      let o := { o with phases := rest, sentUp := 0, sentDn := 0 }
      if !gather && (rest.all fun p => p.2) then
        let (o, cs) := s.coFinal o f
        (s.setOp o).countCo o.rid (fieldOf o.word 171 168) cs
      else s.setOp o
    else s.setOp o

/-- A collective goes on as far as what has arrived takes it. -/
def State.runRing : Nat → Nat → State → State
  | 0, _, s => s
  | n + 1, rid, s =>
    match s.getOp rid, s.flight? rid with
    | some o, some f =>
      let s' := s.ringTurn o f
      if s'.getOp rid = some o then s' else State.runRing n rid s'
    | _, _ => s

/-- Turns enough for every ring step of every phase. -/
def ringFuel : Nat := 2048

/-- CX_READY to the upstream neighbour on a ring of a part (R248, R252); it waits for its answer like any packet of the operation. -/
def State.sendReady (s : State) (o : RingOp) (f : Flight) (b : Nat) (down : Bool) (k : Nat) : State :=
  let (step, run) := s.pktStep f
  match s.mapCoord (s.ringFrom (coCut o.word) b down) with
  | none => s.endOp o.rid 0x21 1
  | some d =>
    let body := leBytes 16 (coId o.word * 2 ^ 96 + o.digest * 2 ^ 64 + coCut o.word * 2 ^ 62 + b2n down * 2 ^ 61 + b * 2 ^ 60 + run % 16 * 2 ^ 56)
    s.sendE2E o.rid (2 ^ 31 + k) (2 ^ 32 + k) (s.mkPacket 2 0x14 d false step (s.pktEpoch f) body)

/-- A CX_READY received earlier is one for this collective's ring. -/
def readyFor (o : RingOp) (run : Nat) (r : Ready) : Bool :=
  r.step = o.step && r.run = run && r.cut = coCut o.word && r.collId = coId o.word

/-- A member starts a collective (R245, R248): its source is read, and its neighbours learn that it is ready. A cut of one member copies, bit for bit where
the formats are the same (R35), and converts otherwise. -/
def State.startCo (s : State) (f : Flight) : State :=
  let w := f.word
  let size := coSize (coSrcFmt w)
  let (srcLen, _) := s.coSpans w
  s.ifOpen f [(coSrc w, srcLen * size)] fun s =>
    let (s, bs, unc) := s.readAs (coSrc w) (srcLen * size)
    let arr := bs.toArray
    let raw := (List.range srcLen).map fun i => (List.range size).foldl (fun v j => v + (arr.getD (size * i + j) 0).toNat * 256 ^ j) 0
    let (lo, hi) := s.shardSpan w
    let vals :=
      if recOpcode w = 0x42 then List.replicate lo 0 ++ raw ++ List.replicate (coCount w - hi) 0
      else raw.map fun v => toF32 (decodeScalar (fmtD (coSrcFmt w)) v)
    let (step, run) := s.pktStep f
    let o : RingOp := { rid := f.rid, word := w, ctx := f.ctx, step := step, digest := coDigest w, vals := vals, phases := s.coPhases w, sentUp := 0, sentDn := 0,
                        ready := [], inbox := [], used := [], pseq := 0 }
    let s := s.beginOp f.rid unc
    if o.phases.isEmpty then
      let copy := coSrcFmt w = coDstFmt w && !s.scaledLayer (fieldOf w 159 148)
      let (o, cs) := if recOpcode w = 0x42 then (o, []) else if copy then ({ o with vals := raw }, []) else s.coFinal o f
      let s := { s with cx := { s.cx with ops := s.cx.ops ++ [o] } }
      (s.countCo f.rid (fieldOf w 171 168) cs).coWrite o f
    else
      let mine := s.cx.readies.filter (readyFor o run)
      let o := { o with ready := mine.map fun r => r.part * 2 + b2n r.down }
      let s := { s with cx := { s.cx with ops := s.cx.ops ++ [o], readies := s.cx.readies.filter fun r => !readyFor o run r } }
      if mine.any (fun (r : Ready) => r.digest ≠ o.digest) then
        let s := mine.foldl (fun (s : State) (r : Ready) => if r.digest ≠ o.digest then
          s.launch none (s.mkPacket 2 0x13 r.src false step (s.rd R.CXE_EPOCH) (leBytes 16 (r.collId * 2 ^ 96 + r.digest * 2 ^ 64 + 0x0B * 2 ^ 56))) else s) s
        (s.count R.CXE_REFUSE_CNT).endOp f.rid 0x22 0x0B
      else
        let rings := o.phases.flatMap fun p => [(p.1, false), (p.1, true)]
        let s := rings.zipIdx.foldl (fun s p => if (s.getOp f.rid).isSome then s.sendReady o f p.1.1 p.1.2 p.2 else s) s
        s.runRing ringFuel f.rid

/-- Runs g on a record of the collective engine with an opcode whose work has not begun. -/
def State.cxWork (s : State) (rid op : Nat) (g : Flight → State → State) : State :=
  s.work rid (fun f => queueEngine f.queue = 12 && recOpcode f.word = op && s.cx.begun.all (·.1 ≠ rid)) g

/-- CX_ALLREDUCE: this member starts the all-reduce of the record in flight. -/
def execCxAllreduce (rid : Nat) (s : State) : Host.Outcome State Fault Refusal := .next (s.cxWork rid 0x40 fun f s => s.startCo f)

/-- CX_REDSCAT: this member starts the reduce-scatter of the record in flight. -/
def execCxRedscat (rid : Nat) (s : State) : Host.Outcome State Fault Refusal := .next (s.cxWork rid 0x41 fun f s => s.startCo f)

/-- CX_ALLGATHER: this member starts the gather of the record in flight. -/
def execCxAllgather (rid : Nat) (s : State) : Host.Outcome State Fault Refusal := .next (s.cxWork rid 0x42 fun f s => s.startCo f)

/-! ### Point to point (R251, R102) -/

/-- CX_SEND: the bytes go out in packets of up to 4,096 bytes. -/
def State.cxSend (s : State) (f : Flight) : State :=
  let w := f.word
  let len := fieldOf w 383 352
  match (s.cxTarget w).bind s.mapCoord with
  | none => s.finish f.rid 0x21 1
  | some d =>
    s.ifOpen f [(coSrc w, len)] fun s =>
      let (s, bs, unc) := s.readAs (coSrc w) len
      let s := s.beginOp f.rid unc
      let (step, run) := s.pktStep f
      (pieces bs).zipIdx.foldl (fun s p =>
        let sub := { Sub.zero with check := crc32c p.1.2, addr := coDst w + p.1.1, pseq := p.2, run := run, stepped := (s.getC f.ctx).stepped,
                                   rctx := fieldOf w 332 327, opid := f.rid }
        s.sendE2E f.rid p.2 0 (s.mkPacket 1 0x11 d false step (s.pktEpoch f) (sub.bytes ++ p.1.2))) s

/-- A CX_SIGNAL may go: no write of an earlier CX_SEND of its queue to its target is unanswered, and none of them has failed (R102). -/
def State.signalFree (s : State) (f : Flight) (d : Nat) : Bool :=
  let earlier (g : Flight) : Bool := g.queue = f.queue && g.rid < f.rid && recOpcode g.word = 0x43
  (s.cx.pend.all fun p => !(p.pkt.dst = d && p.pkt.ptype = 0x11 && s.que.flights.any fun g => g.rid = p.opid && earlier g)) &&
    !(s.que.flights.any fun g => earlier g && (s.cxTarget g.word).bind s.mapCoord = some d &&
      (match g.resp with | some (r, _) => !respSignals r true | none => s.cx.begun.all fun b => b.1 ≠ g.rid)) &&
    (s.getQ f.queue).mode ≠ .error

/-- The signal of a CX_SIGNAL goes out, if it may. -/
def State.sendSignal (s : State) (f : Flight) : State :=
  let w := f.word
  match (s.cxTarget w).bind s.mapCoord with
  | none => s.endOp f.rid 0x21 1
  | some d =>
    if s.signalFree f d then
      let (step, run) := s.pktStep f
      let s := { s with cx := { s.cx with sigWait := s.cx.sigWait.filter (· ≠ f.rid) } }
      let sub := { Sub.zero with value := fieldOf w 383 352, rctr := fieldOf w 319 306, run := run, stepped := (s.getC f.ctx).stepped, opid := f.rid }
      s.sendE2E f.rid 0 0 (s.mkPacket 1 0x12 d false step (s.pktEpoch f) sub.bytes)
    else s

/-- Signals that waited for writes are looked at again. -/
def State.releaseSignals (s : State) : State :=
  s.forAll s.cx.sigWait fun rid s => match s.flight? rid with | some f => s.sendSignal f | none => s

/-- CX_SEND: the transfer of the record in flight goes out. -/
def execCxSend (rid : Nat) (s : State) : Host.Outcome State Fault Refusal := .next (s.cxWork rid 0x43 fun f s => s.cxSend f)

/-- CX_SIGNAL: the remote signal of the record in flight goes out, once the queue's earlier writes are acknowledged. -/
def execCxSignal (rid : Nat) (s : State) : Host.Outcome State Fault Refusal :=
  .next (s.cxWork rid 0x44 fun f s =>
    let s := s.beginOp rid false
    ({ s with cx := { s.cx with sigWait := s.cx.sigWait ++ [rid] } }).sendSignal f)

/-! ### Arriving packets (R252 to R256) -/

/-- The collective in flight that a ring packet or CX_READY of a step belongs to. -/
def State.opFor (s : State) (stepped : Bool) (step cut collId : Nat) : Option RingOp :=
  s.cx.ops.find? fun o => (s.getC o.ctx).stepped = stepped && o.step = step && coCut o.word = cut && coId o.word = collId

/-- Bytes of a ring step that have arrived, used or not. -/
def RingOp.arrived (o : RingOp) (b : Nat) (gather down : Bool) (r : Nat) : Nat :=
  o.usedBytes b gather down r +
    ((o.inbox.filter fun x => x.part = b && x.gather = gather && x.down = down && x.rstep = r).foldl (fun n x => n + x.data.length) 0)

/-- A ring step's piece has been added or is held already. -/
def RingOp.has (o : RingOp) (x : Sub) : Bool :=
  (o.used.any fun u => u.1 = x.part && u.2.1 = x.gather && u.2.2.1 = x.down && u.2.2.2.1 = x.rstep && u.2.2.2.2.1 = x.addr) ||
    (o.inbox.any fun y => y.part = x.part && y.gather = x.gather && y.down = x.down && y.rstep = x.rstep && y.off = x.addr)

/-- CX_RING (R246, R254): the data of a ring step is held or added; the step is answered once it has arrived whole. -/
def State.takeRing (s : State) (p : Packet) : State :=
  let x := Sub.ofBytes p.body
  let member := s.mapCoord (s.ringFrom x.cut x.part x.down) = some p.src && (s.part x.cut x.part).size > 1
  let reason := firstReason [s.domReason 0x1C, epochCheck p.epoch (s.rd R.CXE_EPOCH), s.runStepCheck p x true, if member then 0 else 0x0A,
    if checkOk p x then 0 else 8]
  if reason ≠ 0 then s.respond p x.opid x.pseq reason
  else
    match s.opFor x.stepped p.step x.cut x.collId with
    | none => s.respond p x.opid x.pseq 0
    | some o =>
      let data := p.body.drop 32
      let len := s.stepLen o x.part x.gather x.down x.rstep
      let fits := x.rstep + 1 < (s.part x.cut x.part).size && x.addr + data.length ≤ len
      let o := if o.has x || !fits then o
        else { o with inbox := o.inbox ++ [({ part := x.part, gather := x.gather, down := x.down, rstep := x.rstep, off := x.addr, data := data } : RingIn)] }
      let s := s.setOp o
      let s := if len ≤ o.arrived x.part x.gather x.down x.rstep then s.respond p x.opid x.pseq 0 else s
      s.runRing ringFuel o.rid

/-- CX_RING. -/
def execCxRing (port : Nat) (p : Packet) (s : State) : Host.Outcome State Fault Refusal :=
  .next ((s.receive port p 0x10 fun s => s.takeRing p).earlyFailure)

/-- CX_WRITE (R251, R254): the data is written into the target context's memory. -/
def State.takeWrite (s : State) (p : Packet) : State :=
  let x := Sub.ofBytes p.body
  let data := p.body.drop 32
  let reason := firstReason [s.domReason 0x1C, epochCheck p.epoch (s.getC x.rctx).epoch, s.runStepCheck p x true, s.remoteCtxCheck x.rctx x.stepped,
    if s.rangeDetail (s.getC x.rctx) x.addr data.length = 0 then 0 else 7, if checkOk p x then 0 else 8]
  if reason ≠ 0 then s.respond p x.opid x.pseq reason
  else
    let (s, r) := s.remoteWrite p x.rctx x.addr data
    match r with | some r => s.respond p x.opid x.pseq r | none => s

def execCxWrite (port : Nat) (p : Packet) (s : State) : Host.Outcome State Fault Refusal := .next (s.receive port p 0x11 fun s => s.takeWrite p)

/-- The signals of a source that are remembered: the last 16 of each (R254). -/
def rememberSignal (l : List (Nat × Nat × Nat)) (k : Nat × Nat × Nat) : List (Nat × Nat × Nat) :=
  let l := k :: l
  l.zipIdx.filterMap fun p => if p.1.1 = k.1 && ((l.take p.2).filter (·.1 = k.1)).length ≥ 16 then none else some p.1

/-- REMOTE_SIGNAL (R102, R254): applied to its counter, held for its step, or refused. -/
def State.takeSignal (s : State) (p : Packet) : State :=
  let x := Sub.ofBytes p.body
  let ctx := ctrOwner x.rctr
  let later := x.stepped && (p.step > s.currentStep || (p.step = s.currentStep && !s.inProgress))
  let reason := firstReason [s.domReason 0x1C, epochCheck p.epoch (s.getC ctx).epoch, s.runStepCheck p x false, s.remoteCtxCheck ctx x.stepped, s.domReason 0x41]
  let key := (p.src, x.opid, x.pseq)
  if reason ≠ 0 then
    let s := if reason = 0x0D then s else s.fadd F.SYN_STS_REFUSED
    s.respond p x.opid x.pseq reason
  else if s.cx.signals.contains key then s.respond p x.opid x.pseq 0
  else if later && 1024 ≤ s.syn.held.length then s.respond p x.opid x.pseq 5
  else
    let s := { s with cx := { s.cx with signals := rememberSignal s.cx.signals key } }
    let s :=
      if later then { s with syn := { s.syn with held := s.syn.held ++ [({ ctr := x.rctr, add := x.value, step := p.step } : Held)] } }
      else s.signal x.rctr x.value
    s.respond p x.opid x.pseq 0

def execRemoteSignal (port : Nat) (p : Packet) (s : State) : Host.Outcome State Fault Refusal := .next (s.receive port p 0x12 fun s => s.takeSignal p)

/-- What an answer does to the packet it names (R254, R255). -/
def State.takeAnswer (s : State) (q : Pend) (reason : Nat) : State :=
  let put (s : State) (f : Pend → Pend) : State := { s with cx := { s.cx with pend := s.cx.pend.map fun x => if x = q then f x else x } }
  if reason = 0 then
    let ps := if q.pkt.ptype = 0x14 then s.cx.pend.filter (· ≠ q) else acceptRun s.cx.pend q
    (({ s with cx := { s.cx with pend := ps } }).settleOp q.opid).releaseSignals
  else if reason = 0x0C then { s with cx := { s.cx with pend := s.cx.pend.filter (· ≠ q) } }
  else if reason = 8 && s.fget F.CXE_CFG_RESENDS ≤ q.checks then s.endOp q.opid 0x24 0
  else if resendReason reason then put s fun x => { x with again := true, checks := x.checks + b2n (reason = 8) }
  else s.endOp q.opid (refusalResp reason).1 (refusalResp reason).2

/-- The waiting packet that an answer from a source names: by OPID and PSEQ, or a CX_READY by its COLL_ID and digest. -/
def State.answered (s : State) (src opid pseq : Nat) : Option Pend :=
  match s.cx.pend.find? fun q => q.pkt.dst = src && q.pkt.ptype ≠ 0x14 && q.opid % 2 ^ 32 = opid && q.pseq = pseq with
  | some q => some q
  | none => s.cx.pend.find? fun q => q.pkt.dst = src && q.pkt.ptype = 0x14 && (let n := leNat q.pkt.body; bits n 127 96 = opid && bits n 95 64 = pseq)

/-- PARAM_MISMATCH for a CX_READY that was accepted before the neighbour started its own command (R248). -/
def State.mismatchLate (s : State) (p : Packet) (collId digest : Nat) : State :=
  match s.cx.ops.find? fun o => coId o.word = collId && o.digest = digest && o.step = p.step with
  | some o => s.endOp o.rid 0x22 0x0B
  | none => s

/-- CX_RESP: one of another layout epoch is refused (R256); a fenced collective engine discards it (R340). -/
def execCxResp (port : Nat) (p : Packet) (s : State) : Host.Outcome State Fault Refusal :=
  .next (s.receive port p 0x13 fun s =>
    let n := leNat p.body
    if epochCheck p.epoch (s.rd R.CXE_EPOCH) ≠ 0 then s.count R.CXE_REFUSE_CNT
    else if s.fenced 0x1C then s
    else match s.answered p.src (bits n 127 96) (bits n 95 64) with
    | some q => if isLedgerType q.pkt.ptype then s else s.takeAnswer q (bits n 63 56)
    | none => if bits n 63 56 = 0x0B then s.mismatchLate p (bits n 127 96) (bits n 95 64) else s)

/-- CX_READY (R248, R254): the downstream neighbour of a ring is ready; it is kept until this member starts the collective. -/
def State.takeReady (s : State) (p : Packet) : State :=
  let n := leNat p.body
  let collId := bits n 127 96
  let digest := bits n 95 64
  let cut := bits n 63 62
  let down := bit n 61
  let b := bits n 60 60
  let x := { Sub.zero with run := bits n 59 56, stepped := p.step ≠ 0, cut := cut, part := b, down := down, collId := collId }
  let member := s.mapCoord (s.ringTo cut b down) = some p.src && (s.part cut b).size > 1
  let reason := firstReason [s.domReason 0x1C, epochCheck p.epoch (s.rd R.CXE_EPOCH), s.runStepCheck p x false, if member then 0 else 0x0A]
  if reason ≠ 0 then s.respond p collId digest reason
  else
    match s.opFor x.stepped p.step cut collId with
    | some o =>
      if o.digest ≠ digest then (s.respond p collId digest 0x0B).endOp o.rid 0x22 0x0B
      else
        let o := { o with ready := if o.ready.contains (b * 2 + b2n down) then o.ready else (b * 2 + b2n down) :: o.ready }
        ((s.setOp o).respond p collId digest 0).runRing ringFuel o.rid
    | none =>
      let r : Ready := { src := p.src, step := p.step, run := x.run, cut := cut, collId := collId, part := b, down := down, digest := digest }
      ({ s with cx := { s.cx with readies := if s.cx.readies.contains r then s.cx.readies else s.cx.readies ++ [r] } }).respond p collId digest 0

def execCxReady (port : Nat) (p : Packet) (s : State) : Host.Outcome State Fault Refusal :=
  .next ((s.receive port p 0x14 fun s => s.takeReady p).earlyFailure)

/-- RESEND (R254): the packets of an operation with a PSEQ that an answer asked for again, or, if none did, that have had no answer, are sent again. Two
share a PSEQ where a join shadows, the joiner's copy being the second (R304). -/
def State.resend (s : State) (opid pseq : Nat) : State :=
  let named := s.cx.pend.filter fun q => q.opid = opid && q.pseq = pseq
  let due := if named.any (·.again) then named.filter (·.again) else named
  let s := { s with cx := { s.cx with pend := s.cx.pend.map fun x => if due.contains x then { x with again := false } else x } }
  let s := due.foldl (fun s q => if isLedgerType q.pkt.ptype then s else s.count R.CXE_RESEND_CNT) s
  due.foldl (fun s q => s.launch none q.pkt) s

def execResend (opid pseq : Nat) (s : State) : Host.Outcome State Fault Refusal := .next (s.resend opid pseq)

/-! ### Layout changes (R231, R257) -/

/-- The coordinate map read from memory in blocks of 32 entries; a block that cannot be read gives invalid entries and sets ERR. -/
def State.reloadMap (s : State) : State :=
  let base := s.rd64 R.FAB_MAP_BASE / mib * mib
  let (s, t, err) := (List.range 8192).foldl (fun (s, t, err) b =>
    let a := base + 128 * b
    let (s, r) := if isStacked a then s.meetResp a 128 else (s, 0x11)
    if r ≠ 0 then (s, t, true)
    else
      let bs := s.bytes a 128
      if bs.all (· = 0) then (s, t, err)
      else (s, (List.range 32).foldl (fun t i => tset (fun _ => (0 : Word)) t (32 * b + i) (BitVec.ofNat 32 (leNat ((bs.drop (4 * i)).take 4)))) t, err))
    (s, ([] : Tbl Word), false)
  let s := ({ s with map := some t, cx := { s.cx with reload := false } }).fset F.FAB_MAP_CTL_PEND 0
  if err then s.fset F.FAB_MAP_CTL_ERR 1 else s

/-- CAUSE of a refused ARM: the lowest code that applies, 0 for none (R257, R260). -/
def State.armCause (s : State) : Nat :=
  let step := s.rd64 R.CXE_NEXT_STEP
  let e := s.rd R.CXE_NEXT_EPOCH
  lowest [
    (1, !s.cutsTile ((List.range 4).map fun k => s.rd (R.CXE_NEXT_CUT + 4 * k))),
    (2, step ≠ 0 && (match s.pos.lastSealed with | some n => step ≤ n | none => false)),
    (3, s.flag F.CXE_NEXT_STS_PEND),
    (4, epochCheck e (s.rd R.CXE_EPOCH) ≠ 2)]

/-- LAYOUT_ARM. -/
def State.armLayout (s : State) : State :=
  let c := s.armCause
  if c ≠ 0 then ((s.fset F.CXE_NEXT_STS_REFUSED 1).fset F.CXE_NEXT_STS_CAUSE c).raise 0x08A
  else ((s.fset F.CXE_NEXT_STS_PEND 1).fset F.CXE_NEXT_STS_CAUSE 0).fset F.CXE_NEXT_STS_REFUSED 0

def execLayoutArm (_ : Agent) (s : State) : Host.Outcome State Fault Refusal := .next s.armLayout

/-- LAYOUT_CANCEL. -/
def State.cancelLayout (s : State) : State := s.fset F.CXE_NEXT_STS_PEND 0

def execLayoutCancel (_ : Agent) (s : State) : Host.Outcome State Fault Refusal := .next s.cancelLayout

/-- The rest of R257's conditions: the collective engine has drained, and no sequence runs (R336). -/
def State.layoutReady (s : State) : Bool :=
  s.layoutDue && (s.que.flights.all fun f => queueEngine f.queue ≠ 12) && s.cx.pend.isEmpty && s.syn.held.isEmpty && s.recov.cur.isNone

/-- What the change does at once. -/
def State.applyLayout (s : State) : State :=
  let e := s.rd R.CXE_NEXT_EPOCH
  let s := (s.wr R.CXE_EPOCH e).wr R.CXE_LCOORD (s.rd R.CXE_NEXT_LCOORD)
  let s := s.forAll (List.range 4) fun k s => s.wr (R.CXE_CUT + 4 * k) (s.rd (R.CXE_NEXT_CUT + 4 * k))
  let s := s.forAll (List.range 64) fun n s => s.setC n { s.getC n with epoch := e }
  let s := if s.cx.reload then s.reloadMap else s
  ((s.fset F.CXE_NEXT_STS_PEND 0).fset F.CXE_NEXT_STS_APPLIED 1).raise 0x08A

end Sys2Proof.Machine
end

