-- ==== Sys2Proof/Machine/Ledger.lean ====
section
/-! DEFINITION. The ledger engine (11_step_ledger_and_replay): boundary records, forwards to the yoke partner, verdicts, update windows, the
packets that arrive for them, and the re-read of committed state. -/
namespace Sys2Proof.Machine

/-! ### Record fields (R264) -/

def lxAddr0 (w : RecWord) : Nat := fieldOf w 511 464
def lxAddr1 (w : RecWord) : Nat := fieldOf w 463 416
def lxLen (w : RecWord) : Nat := fieldOf w 415 384
def lxRecs (w : RecWord) : Nat := fieldOf w 383 368
def lxQueue (w : RecWord) : Nat := fieldOf w 367 354
def lxWin (w : RecWord) : Nat := fieldOf w 353 338
def lxSide (w : RecWord) : Nat := fieldOf w 337 337
def lxStage (w : RecWord) : Nat := fieldOf w 336 335
def lxKind (w : RecWord) : Nat := fieldOf w 334 331
def lxKey (w : RecWord) : Nat := lxSide w * 65536 + lxWin w

/-- Window digests are exchanged: MIRROR_EN, but not until the mirror load of R303 is complete. -/
def State.mirrorOn (s : State) : Bool := s.flag F.LXE_CFG_MIRROR_EN && s.fget F.HUB_JOIN_STS_STATE ≠ 5

/-- An open window of a side and index. -/
def State.openWin (s : State) (key : Nat) : Option Window := s.ledger.windows.find? fun w => w.side * 65536 + w.win = key

/-- The INVALID_FIELD detail of LX_RECORD, LX_FORWARD, LX_VERDICT and LX_WINDOW from a context (R264, R291). -/
def State.lxDetail (s : State) (ctx : Nat) (w : RecWord) : Nat :=
  let op := recOpcode w
  let window := op = 0x63
  let limit := if window then 268435456 else 4294967232
  lowest [
    (0x04, op ≠ 0x62 && (lxLen w = 0 || lxLen w % 64 ≠ 0 || limit < lxLen w)),
    (0x04, window && lxRecs w = 0),
    (0x0F, !recHeaderOk w || fieldOf w 259 128 ≠ 0),
    (0x11, (op ≠ 0x62 && lxAddr0 w % 64 ≠ 0) || ((op = 0x61 || window) && lxAddr1 w % 64 ≠ 0)),
    (0x16, op ≠ 0x61 && !(s.getC ctx).stepped),
    (0x1B, (op = 0x62 && lxStage w ≠ 1 && lxStage w ≠ 2) || (op = 0x60 && !(1 ≤ lxKind w && lxKind w ≤ 3))),
    (0x1C, window && (s.openWin (lxKey w)).isSome),
    (0x1D, window && !([1, 4, 7, 10].contains (queueEngine (lxQueue w)) && (s.getQ (lxQueue w)).ctx = ctx)),
    (0x1E, window && !(s.mpart.srCur.any fun r => rangeHolds r (lxAddr0 w) (lxLen w))),
    (0x1F, (op = 0x61 || window) && !s.flag F.FAB_YOKE_EN && s.flag F.LXE_CFG_MIRROR_EN),
    (0x2C, window && s.ledger.yokeLost && s.flag F.LXE_CFG_MIRROR_EN)]

/-- The address-error detail of a ledger record (R97); the partner checks a forward's destination (R264). -/
def State.lxAddress (s : State) (c : Ctx) (w : RecWord) : Nat :=
  if recOpcode w = 0x62 then 0 else s.rangeDetail c (lxAddr0 w) (lxLen w)

/-- An LX_WINDOW may start: the stage-1 verdict has passed, a window is free, no repair of the window is due and a join does not hold it
(R267, R283, R285, R303). -/
def State.windowMayStart (s : State) (w : RecWord) : Bool :=
  s.run.passed && s.ledger.windows.length < max 1 (s.fget F.LXE_CFG_WIN_MAX) && s.ledger.repairs.all (·.1 ≠ lxKey w) &&
    !s.rcv.join.unsent.contains (lxKey w)

/-- Runs g on a record of the ledger engine with an opcode whose work has not begun. -/
def State.lxWork (s : State) (rid op : Nat) (g : Flight → State → State) : State :=
  s.work rid (fun f => queueEngine f.queue = 14 && recOpcode f.word = op && s.cx.begun.all (·.1 ≠ rid)) g

/-! ### Boundary records (R265) -/

/-- LX_RECORD: the first run of the step writes the record; a later one compares, and replaces what differs. -/
def State.lxRecord (s : State) (f : Flight) : State :=
  let w := f.word
  let cmd := f.queue * 2 ^ 32 + f.entry * 2 ^ 16 + f.idx
  let old := s.ledger.bounds.find? fun b => b.step = f.step && b.cmd = cmd
  if old.isNone && !s.ledgerFits (64 + lxLen w) then s.finish f.rid 0x30 0
  else s.ifOpen f [(lxAddr0 w, lxLen w)] fun s =>
    let (s, bs, unc) := s.readAs (lxAddr0 w) (lxLen w)
    let r : BoundRec := { step := f.step, kind := lxKind w, origin := fieldOf w 277 260, mb := 0, cmd := cmd, crc := crc64 bs, bytes := bs }
    let put (s : State) (bs : List BoundRec) : State := { s with ledger := { s.ledger with bounds := bs } }
    let s :=
      match old with
      | some b => if b.crc = r.crc then s else (put s (s.ledger.bounds.map fun x => if x = b then r else x)).count R.LXE_RECDIFF_CNT
      | none => put s (s.ledger.bounds ++ [r])
    s.finish f.rid (if unc then 0x15 else 0) 0

def execLxRecord (rid : Nat) (s : State) : Host.Outcome State Fault Refusal := .next (s.lxWork rid 0x60 fun f s => s.lxRecord f)

/-! ### Packets to the yoke partner (R230, R266) -/

/-- A ledger packet with a sub-header. It goes to the yoke partner with Y = 1, or, for a join, over the torus. -/
def State.sendLx (s : State) (opid ptype vc : Nat) (torus : Option Nat) (step epoch : Nat) (sub : Sub) (data : List Byte) : State :=
  let dst := torus.getD (s.fget F.FAB_YOKE_PARTNER)
  let sub := { sub with check := crc32c data, opid := opid }
  s.sendE2E opid sub.pseq 0 (s.mkPacket vc ptype dst torus.isNone step epoch (sub.bytes ++ data))

/-- The device takes part in a join that shadows, as the joiner or as the target or partner (R304). -/
def State.shadowing (s : State) : Bool := s.rcv.join.shadow && (s.fget F.HUB_JOIN_STS_STATE = 2 || s.fget F.HUB_JOIN_STS_STATE = 3)
def State.shadowJoiner (s : State) : Bool := s.shadowing && s.fget F.HUB_JOIN_STS_ROLE = 1

/-- Where what the target and the partner send each other goes: by the Yoke port, and while a join shadows a copy to the joiner. -/
def State.copiesTo (s : State) : List (Option Nat) := none :: (if s.shadowing && !s.shadowJoiner then [some s.rcv.join.pj] else [])

/-- LX_FORWARD: the data goes to the partner in packets; the last one carries the signal. -/
def State.lxForward (s : State) (f : Flight) : State :=
  let w := f.word
  if s.ledger.yokeLost then s.finish f.rid 0x21 2
  else s.ifOpen f [(lxAddr0 w, lxLen w)] fun s =>
    let (s, bs, unc) := s.readAs (lxAddr0 w) (lxLen w)
    let s := s.beginOp f.rid unc
    let (step, run) := s.pktStep f
    let ps := pieces bs
    let signal := fieldOf w 310 310 = 1
    s.copiesTo.foldl (fun s torus =>
      ps.zipIdx.foldl (fun s p =>
        let last := p.2 + 1 = ps.length && signal
        let sub := { Sub.zero with
          addr := lxAddr1 w + p.1.1, pseq := p.2, run := run, stepped := (s.getC f.ctx).stepped, rctx := fieldOf w 330 325,
          rctr := if last then fieldOf w 324 311 else 0, value := if last then fieldOf w 309 278 else 0 }
        s.sendLx f.rid 0x80 1 torus step (s.pktEpoch f) sub p.1.2) s) s

def execLxForward (rid : Nat) (s : State) : Host.Outcome State Fault Refusal := .next (s.lxWork rid 0x61 fun f s => s.lxForward f)

/-- Operation numbers of packets that no record sends: run headers, windows that are handed over. -/
def headerOp (step run : Nat) : Nat := 2 ^ 31 + (step * 16 + run) % 2 ^ 28
def handOp (key : Nat) : Nat := 2 ^ 31 + 2 ^ 30 + key

/-- A run header goes out in packets of 4,096 bytes (R266, R304). -/
def State.sendHeader (s : State) (torus : Option Nat) (h : RunHdr) : State :=
  (pieces h.bytes).zipIdx.foldl (fun s p =>
    let sub := { Sub.zero with addr := p.1.1, pseq := p.2, run := h.run, stepped := true }
    s.sendLx (headerOp h.step h.run) 0x81 1 torus h.step h.epoch sub p.1.2) s

/-- A window digest goes out (R266). -/
def State.sendDigest (s : State) (torus : Option Nat) (key run attempt digest : Nat) : State :=
  let body := leBytes 16 (digest % 2 ^ 64 * 2 ^ 64 + key % 65536 * 2 ^ 48 + key / 65536 % 2 * 2 ^ 47 + attempt % 8 * 2 ^ 44 + run % 16 * 2 ^ 40)
  s.launch none (s.mkPacket 2 0x82 (torus.getD (s.fget F.FAB_YOKE_PARTNER)) torus.isNone s.currentStep (s.rd R.CXE_EPOCH) body)

/-- A window's bytes are handed over by LX_DATA. The spec gives no address for them at the other device: their ADDR counts from a free value. -/
def State.handOver (s : State) (torus : Option Nat) (key base len : Nat) : State :=
  let (a, s) := s.fresh
  (pieces (s.bytes base len)).zipIdx.foldl (fun s p =>
    s.sendLx (handOp key) 0x80 1 torus 0 (s.rd R.CXE_EPOCH) { Sub.zero with addr := a + p.1.1, pseq := p.2 } p.1.2) s

/-! ### Verdicts (R270, R274) -/

/-- LX_VERDICT: the stage's record is formed and its reduction starts. -/
def State.lxVerdict (s : State) (f : Flight) : State :=
  if s.run.red.isSome || s.run.failSent then s
  else if lxStage f.word = 1 then
    if (s.pre.held.any fun h => h < s.stepNum) then s
    else
      let c := s.run.causes &&& 0xBF
      let r : VRec := { fail := c ≠ 0, early := false, cause := c, origin := if c ≠ 0 then s.lcoord else 0x3FFFF, sum := 0 }
      if c ≠ 0 then s.failRun r else s.startVerdict 1 f.rid r
  else
    let bad := bit s.run.causes 6
    s.startVerdict 2 f.rid { fail := bad, early := false, cause := if bad then 64 else 0, origin := if bad then s.lcoord else 0x3FFFF, sum := s.ownSummary }

/-- The held step of a pre-emption rises to the step whose stage-1 verdict has passed (R327). -/
def State.preemptPassed (s : State) : State :=
  match s.pre.held with
  | some h => if s.run.passed && h < s.stepNum then ({ s with pre := { s.pre with held := some s.stepNum } }).wr64 R.HUB_PRE_STEP s.stepNum else s
  | none => s

/-! ### Update windows (R283) -/

def State.setWin (s : State) (w : Window) : State :=
  { s with ledger := { s.ledger with windows := s.ledger.windows.map fun x => if x.rid = w.rid then w else x } }

def Window.key (w : Window) : Nat := w.side * 65536 + w.win

/-- The window is open no more; what the partner sent for it goes too. -/
def State.dropWin (s : State) (w : Window) : State :=
  { s with ledger := { s.ledger with
    windows := s.ledger.windows.filter (·.rid ≠ w.rid), peer := s.ledger.peer.filter fun p => p.key ≠ w.key } }

/-- The pre-image goes back. -/
def State.restoreWin (s : State) (w : Window) : State := (s.putMem w.base w.pre 0).1

/-- The window closes without a commit. -/
def State.closeWin (s : State) (w : Window) (resp detail : Nat) : State := ((s.restoreWin w).dropWin w).finish w.rid resp detail

/-- The target of a shadow join compares the joiner's digest of a committed window with its own: where they differ the joiner fetches the window (R304). -/
def State.compareJoiner (s : State) (key digest : Nat) : State :=
  match tget (fun _ => (none : Option WinDig)) s.ledger.digests key with
  | some d => if d.digest = digest then s else s.handOver (some s.rcv.join.pj) key d.base d.len
  | none => s

/-- A digest of the joiner's that came before the window was committed here (R304). -/
def State.meetJoiner (s : State) (key : Nat) : State :=
  match s.rcv.join.early.find? (·.1 = key) with
  | some e => ({ s with rcv := { s.rcv with join := { s.rcv.join with early := s.rcv.join.early.filter (·.1 ≠ key) } } } : State).compareJoiner key e.2
  | none => s

/-- The joiner's digest of a window for a step: it is compared once this device has committed the window in that step. -/
def State.joinerDigest (s : State) (step key digest : Nat) : State :=
  if s.pos.lastSealed = some step || s.run.commits.contains key then s.compareJoiner key digest
  else { s with rcv := { s.rcv with join := { s.rcv.join with early := (key, digest) :: s.rcv.join.early.filter (·.1 ≠ key) } } }

/-- The window commits with a digest (R282, R283). -/
def State.commitWin (s : State) (w : Window) (d resp : Nat) : State :=
  let s := (s.dropWin w).finish w.rid resp 0
  let t := tset (fun _ => (none : Option WinDig)) s.ledger.digests w.key (some { digest := d, len := w.len, base := w.base })
  let s := { s with ledger := { s.ledger with digests := t }, run := { s.run with committed := true, commits := w.key :: s.run.commits } }
  s.meetJoiner w.key

/-- Step 3: the sub-waybill is rung on the vector queue. -/
def State.startAttempt (s : State) (w : Window) : State :=
  let x := s.getQ w.vqueue
  let tail := (x.tail + 1) % 2 ^ x.sizeLog2
  let (s, bad) := s.putMem (x.base + 16 * x.tail) (entryBytes s.stepNum w.wrecs w.sub) 0
  let s := s.setWin { w with entry := x.tail, unc := false, digested := false }
  if bad || tail = x.head || !s.innerBellOk x.ctx x.ctx w.vqueue tail then s.closeWin w 0x10 0x1D else s.setTail w.vqueue tail

/-- One side gave the same digest in every attempt. -/
def consistent (ds : List (Option Nat)) : Bool :=
  match ds with
  | some d :: rest => rest.all (· = some d)
  | _ => false

/-- Step 6, with both digests of an attempt. -/
def State.settleWin (s : State) (w : Window) (mine : Option Nat) (their : Nat) : State :=
  let theirs := w.theirs.map some
  if mine = some their then s.commitWin w their 0
  else if s.shadowJoiner then
    ({ s with rcv := { s.rcv with join := { s.rcv.join with clean := false } } } : State).setWin { w with fetching := true }
  else if w.mine.length ≤ s.fget F.LXE_CFG_WIN_RETRY then
    let s := (s.restoreWin w).count R.LXE_WIN_REDO_CNT
    s.startAttempt w
  else if consistent w.mine && !consistent theirs then
    let s := s.handOver none w.key w.base w.len
    s.commitWin w (mine.getD 0) 0
  else if consistent theirs && !consistent w.mine then (s.restoreWin w).setWin { w with fetching := true }
  else s.closeWin w 0x32 0

/-- The partner's digest of an attempt whose own digest is there is taken from those that have come, and judged. Attempts are numbered modulo 8 (R266), so
each digest is taken once. -/
def State.judgeWin (s : State) (w : Window) : State :=
  let here (p : PeerDig) : Bool := p.key = w.key && p.run = s.pos.run && p.attempt = w.theirs.length % 8
  if !w.digested || w.fetching || w.mine.length ≠ w.theirs.length + 1 then s
  else
    match s.ledger.peer.find? here with
    | none => s
    | some p =>
      let w := { w with theirs := w.theirs ++ [p.digest] }
      let s := ({ s with ledger := { s.ledger with peer := s.ledger.peer.filter fun q => !here q } } : State).setWin w
      s.settleWin w (w.mine.getLastD none) p.digest

/-- Steps 4 and 5: the sub-waybill of a window has retired; its digest is computed, entered or sent. While the input is below SUSPECT the window
waits, and an attempt that a dip has spoilt begins anew (R412). -/
def State.digestWin (s : State) (w : Window) : State :=
  if w.digested || !(s.getQ w.vqueue).passed w.entry || s.que.flights.any (fun f => f.queue = w.vqueue && f.entry = w.entry) then s
  else if s.ckpt.stalled.any fun x => w.base < x.addr + x.data.length && x.addr < w.base + w.len then s
  else if s.power.suspect then s
  else if w.redo then (s.restoreWin w).startAttempt { w with redo := false }
  else
    let (s, unread) := s.meet w.base w.len 0
    let (d, s) := if unread then s.fresh else (crc64 (s.bytes w.base w.len), s)
    let d := d % 2 ^ 64
    if !s.mirrorOn then s.commitWin w d 0
    else
      let w := { w with mine := w.mine ++ [if unread || w.unc then none else some d], digested := true }
      let join := s.rcv.join
      let send (s : State) (dest : Option Nat) : State := s.sendDigest dest w.key s.pos.run (w.mine.length - 1) d
      let s := s.setWin w
      let s :=
        if s.shadowJoiner then send s (some join.pt)
        else if s.fget F.HUB_JOIN_STS_ROLE = 2 then s.copiesTo.foldl send s
        else send s none
      s.judgeWin w

/-- Every open window goes on. -/
def State.runWindows (s : State) : State :=
  s.ledger.windows.foldl (fun s w => match s.openWin w.key with | some w => s.digestWin w | none => s) s

/-- R412: the current attempt of every open window is to be discarded. A window whose counterpart is being fetched runs none. -/
def State.spoilAttempts (s : State) : State :=
  let spoil (w : Window) : Window :=
    if w.fetching then w else { w with redo := true, digested := false, mine := if w.digested then w.mine.dropLast else w.mine }
  { s with ledger := { s.ledger with windows := s.ledger.windows.map spoil } }

/-- LX_WINDOW: the window opens once it may, with its pre-image in the ledger. -/
def State.lxWindow (s : State) (f : Flight) : State :=
  let w := f.word
  if !s.windowMayStart w || s.ledger.windows.any (·.rid = f.rid) then s
  else if !s.ledgerFits (64 + lxLen w) then s.finish f.rid 0x30 0
  else s.ifOpen f [(lxAddr0 w, lxLen w)] fun s =>
    let (s, pre, unc) := s.readAs (lxAddr0 w) (lxLen w)
    if unc then s.finish f.rid 0x15 0
    else
      let x : Window := { rid := f.rid, win := lxWin w, side := lxSide w, base := lxAddr0 w, len := lxLen w, vqueue := lxQueue w, entry := 0, sub := lxAddr1 w,
                          wrecs := lxRecs w, pre := pre, mine := [], theirs := [], unc := false, digested := false, fetching := false, redo := false }
      ({ s with ledger := { s.ledger with windows := s.ledger.windows ++ [x] } } : State).startAttempt x

/-! ### Arriving packets -/

/-- The current join names a device (R302). -/
def State.joinNames (s : State) (src : Nat) : Bool :=
  let j := s.rcv.join
  s.fget F.HUB_JOIN_STS_ROLE ≠ 0 && (src = j.pt || src = j.pp || src = j.pj)

/-- A ledger packet comes by the Yoke port, or by the torus from a device that the join names (R302). -/
def State.ledgerFrom (s : State) (port : Nat) (p : Packet) : Bool := port = 6 || s.joinNames p.src

/-- The window, open and fetching or due for repair, that an address lies in: its key, base, length and digest. -/
def State.fetchTarget (s : State) (a : Nat) : Option (Nat × Nat × Nat × Nat) :=
  match s.ledger.windows.find? fun w => w.fetching && w.base ≤ a && a < w.base + w.len with
  | some w => some (w.key, w.base, w.len, w.theirs.headD 0)
  | none =>
    s.ledger.repairs.findSome? fun r =>
      match tget (fun _ => (none : Option WinDig)) s.ledger.digests r.1 with
      | some d => if d.base ≤ a && a < d.base + d.len then some (r.1, d.base, d.len, d.digest) else none
      | none => none

/-- The last byte of a fetched window has come: it is checked, and commits or is repaired; data that fails its check aborts the step. -/
def State.fetched (s : State) (key base len digest : Nat) : State :=
  let (s, lost) := s.meet base len 0
  if crc64 (s.bytes base len) = digest && !lost then
    match s.ledger.windows.find? fun w => w.key = key && w.fetching with
    | some w => s.commitWin w digest 1
    | none =>
      let reread := s.ledger.repairs.any fun r => r.1 = key && r.2
      let s := ({ s with ledger := { s.ledger with repairs := s.ledger.repairs.filter (·.1 ≠ key) } }).count R.LXE_REREAD_FIX_CNT
      if reread then s.noteCause 4 else s
  else s.stepAbort 6 0xFF

/-- A signal that LX_DATA carries is applied or held, once. -/
def State.lxSignal (s : State) (p : Packet) (x : Sub) : State × Nat :=
  let key := (p.src, x.opid, x.pseq)
  let later := x.stepped && (p.step > s.currentStep || (p.step = s.currentStep && !s.inProgress))
  if x.value = 0 || s.cx.signals.contains key then (s, 0)
  else if later && 1024 ≤ s.syn.held.length then (s, 5)
  else
    let s := { s with cx := { s.cx with signals := rememberSignal s.cx.signals key } }
    (if later then { s with syn := { s.syn with held := s.syn.held ++ [({ ctr := x.rctr, add := x.value, step := p.step } : Held)] } }
     else s.signal x.rctr x.value, 0)

/-- A remote write has been performed, or refused: the packet is answered, and a signal that LX_DATA carries takes effect after its data (R251, R254, R315). -/
def State.written (s : State) (p : Packet) (reason : Nat) : State :=
  let x := Sub.ofBytes p.body
  let (s, r) := if reason = 0 && p.ptype = 0x80 then s.lxSignal p x else (s, reason)
  s.respond p x.opid x.pseq r

/-- Data of a window in a join's load: it extends the window that is arriving (R303, R304). -/
def State.joinData (s : State) (x : Sub) (data : List Byte) : State × Nat :=
  let got := match s.rcv.join.got with | some (b, n) => if x.addr = n then (b, n + data.length) else (x.addr, x.addr + data.length) | none => (x.addr, x.addr + data.length)
  let ok := isStacked x.addr && isStacked (x.addr + data.length) && !isReserved x.addr
  if !ok then (s, 7)
  else
    let (s, bad) := s.putMem x.addr data 0
    ({ s with rcv := { s.rcv with join := { s.rcv.join with got := some got } } }, if bad then 0x0E else 0)

/-- LX_DATA (R254, R266): written for a context of this device, for a window that is being fetched, or for a join. -/
def State.takeLxData (s : State) (port : Nat) (p : Packet) : State :=
  let x := Sub.ofBytes p.body
  let data := p.body.drop 32
  let fetch := if x.stepped then none else s.fetchTarget x.addr
  let loading := s.fget F.HUB_JOIN_STS_ROLE = 1 && (s.fget F.HUB_JOIN_STS_STATE = 1 || s.fget F.HUB_JOIN_STS_STATE = 5) && !x.stepped && s.joinNames p.src
  if !s.ledgerFrom port p then s.respond p x.opid x.pseq 0x0A
  else
    match fetch with
    | some (key, base, len, digest) =>
      let reason := firstReason [if checkOk p x then 0 else 8, if x.addr + data.length ≤ base + len then 0 else 7]
      if reason ≠ 0 then s.respond p x.opid x.pseq reason
      else
        let (s, bad) := s.putMem x.addr data 0
        let s := if bad then s.respond p x.opid x.pseq 0x0E else s.respond p x.opid x.pseq 0
        if x.addr + data.length = base + len then s.fetched key base len digest else s
    | none =>
      if loading then
        if !checkOk p x then s.respond p x.opid x.pseq 8
        else
          let (s, r) := s.joinData x data
          s.respond p x.opid x.pseq r
      else
        let signals := x.value ≠ 0
        let reason := firstReason [epochCheck p.epoch (s.getC x.rctx).epoch, s.runStepCheck p x true, s.remoteCtxCheck x.rctx x.stepped,
          if signals then s.remoteCtxCheck (ctrOwner x.rctr) x.stepped else 0,
          if s.rangeDetail (s.getC x.rctx) x.addr data.length = 0 then 0 else 7, if checkOk p x then 0 else 8]
        if reason ≠ 0 then s.respond p x.opid x.pseq reason
        else
          let (s, r) := s.remoteWrite p x.rctx x.addr data
          match r with | some r => s.written p r | none => s

/-- A window digest that a joiner compares: with the window just loaded, or with the target's in a shadow step (R303, R304). -/
def State.joinLoaded (s : State) : State :=
  let h := s.ledger.partner.getLastD RunHdr.none
  let own := s.sideDigest 0 = h.mirror
  let mirror := s.sideDigest 1 = h.own
  let join := s.rcv.join
  let state := s.fget F.HUB_JOIN_STS_STATE
  if state = 1 && own && (mirror || !join.shadow) then s.fset F.HUB_JOIN_STS_STATE (if join.shadow then 2 else 5)
  else if state = 5 && mirror then (s.fset F.HUB_JOIN_STS_STATE 0).fset F.HUB_JOIN_STS_ROLE 0
  else s

/-- A joiner's side of a window of its partner: the partner's mirror is its own state. -/
def joinKey (key : Nat) : Nat := (1 - key / 65536) * 65536 + key % 65536

def State.joinDigest (s : State) (key digest : Nat) : State :=
  match s.rcv.join.got with
  | some (b, n) =>
    let s := { s with rcv := { s.rcv with join := { s.rcv.join with got := none } } }
    if crc64 (s.bytes b (n - b)) = digest then
      let t := tset (fun _ => (none : Option WinDig)) s.ledger.digests (joinKey key) (some { digest := digest, len := n - b, base := b })
      ({ s with ledger := { s.ledger with digests := t } }).joinLoaded
    else s.fset F.HUB_JOIN_STS_STATE 4
  | none => s

/-- LX_DIGEST (R266, R283): the partner's digest of a counterpart is kept, and judged when this side's is there. -/
def State.takeDigest (s : State) (port : Nat) (p : Packet) : State :=
  let n := leNat p.body
  let digest := bits n 127 64
  let key := bits n 47 47 * 65536 + bits n 63 48
  let run := bits n 43 40
  let attempt := bits n 46 44
  let state := s.fget F.HUB_JOIN_STS_STATE
  let joiner := s.fget F.HUB_JOIN_STS_ROLE = 1 && s.joinNames p.src
  if !s.ledgerFrom port p then s.respond p 0 0 0x0A
  else if joiner && (state = 1 || state = 5) then s.joinDigest key digest
  else if (p.step = s.currentStep || s.pos.lastSealed = some p.step) && s.shadowing && s.fget F.HUB_JOIN_STS_ROLE = 2 && p.src = s.rcv.join.pj then
    s.joinerDigest p.step key digest
  else if p.step ≠ s.currentStep || (port ≠ 6 && !(s.shadowJoiner && p.src = s.rcv.join.pt)) then s
  else
    let k := if port = 6 then joinKey key else key
    let s := { s with ledger := { s.ledger with
      peer := ({ key := k, run := run, attempt := attempt, digest := digest } : PeerDig) :: s.ledger.peer.filter fun q => !(q.key = k && q.run = run && q.attempt = attempt) } }
    match s.openWin k with
    | some w => s.judgeWin w
    | none => s

def execLxDigest (port : Nat) (p : Packet) (s : State) : Host.Outcome State Fault Refusal :=
  .next ((s.receive port p 0x82 fun s => s.toLedger p fun s => s.takeDigest port p).earlyFailure)

/-- A complete run header: the partner's is compared with the mirror (R285); a joiner takes the load's or compares the target's (R304). -/
def State.useHeader (s : State) (h : RunHdr) (port src : Nat) : State :=
  let s := { s with ledger := { s.ledger with partner := (s.ledger.partner.filter fun (x : RunHdr) => !(x.step = h.step && x.run = h.run)) ++ [h] } }
  if s.shadowJoiner then
    if src = s.rcv.join.pt && !(h.own = s.sideDigest 0 && h.mirror = s.sideDigest 1) then
      { s with rcv := { s.rcv with join := { s.rcv.join with clean := false } } }
    else s
  else if s.fget F.HUB_JOIN_STS_ROLE = 1 then s.joinLoaded
  else if port ≠ 6 then s
  else if s.mirrorOn && h.step = s.currentStep && h.run = s.pos.run then
    let mirror := if s.run.hdr.step = h.step && s.run.hdr.run = h.run then s.run.hdr.mirror else s.sideDigest 1
    if h.own ≠ mirror then s.noteCause 4 else s
  else s

/-- LX_HEADER (R266, R285): pieces of a run header are kept until it is whole. -/
def State.takeHeaderPkt (s : State) (port : Nat) (p : Packet) : State :=
  let x := Sub.ofBytes p.body
  let data := p.body.drop 32
  let join := port ≠ 6
  let reason := firstReason [
    if join then 0 else epochCheck p.epoch (s.rd R.CXE_EPOCH), if join then 0 else s.runStepCheck p x true, if x.addr + data.length ≤ 12288 then 0 else 7,
    if checkOk p x then 0 else 8]
  if !s.ledgerFrom port p then s.respond p x.opid x.pseq 0x0A
  else if reason ≠ 0 then s.respond p x.opid x.pseq reason
  else
    let src := p.src * 2 ^ 32 + x.opid
    let s := s.respond p x.opid x.pseq 0
    let ps := (src, x.addr, data) :: s.ledger.hdrIn.filter fun q => !(q.1 = src && q.2.1 = x.addr)
    let mine := (ps.filter (·.1 = src)).mergeSort fun a b => a.2.1 ≤ b.2.1
    let bs := mine.flatMap (·.2.2)
    let whole := bs.length = 12288 && (mine.map (·.2.1)) = (pieces bs).map (·.1)
    let s := { s with ledger := { s.ledger with hdrIn := if whole then ps.filter (·.1 ≠ src) else ps } }
    if whole then s.useHeader (RunHdr.ofBytes bs) port p.src else s

def execLxHeader (port : Nat) (p : Packet) (s : State) : Host.Outcome State Fault Refusal :=
  .next ((s.receive port p 0x81 fun s => s.toLedger p fun s => s.takeHeaderPkt port p).earlyFailure)

/-- The windows that a partner of a join hands over next (R303, R304): a shadow join's all at once, from a boundary; a replacement's by the Yoke
link, its mirror first and its own state during the mirror load. -/
def State.handKeys (s : State) (boundary : Bool) : List Nat :=
  let join := s.rcv.join
  let state := s.fget F.HUB_JOIN_STS_STATE
  if s.fget F.HUB_JOIN_STS_ROLE ≠ 3 || !join.sending.isEmpty then []
  else if join.shadow then (if boundary && state = 1 then join.unsent else [])
  else if s.portState 6 ≠ 2 then []
  else join.unsent.filter fun k => (state = 1 && 65536 ≤ k) || (state = 5 && k < 65536)

/-- Where a join's transfers go: over the torus until the Yoke link is switched. -/
def State.handTo (s : State) : Option Nat := if s.rcv.join.shadow then some s.rcv.join.pj else none

/-- One window is handed over. -/
def State.handWindow (s : State) (key : Nat) : State :=
  match tget (fun _ => (none : Option WinDig)) s.ledger.digests key with
  | some d => s.handOver s.handTo key d.base d.len
  | none => s

/-- The partner hands over the next windows; before the first of them a header with its committed digests, by which the joiner knows the load to
be complete. -/
def State.handJoin (s : State) (boundary : Bool) : State :=
  let keys := s.handKeys boundary
  if keys.isEmpty then s
  else
    let s := if s.fget F.HUB_JOIN_STS_STATE = 1 then s.sendHeader s.handTo (s.makeHeader s.currentStep s.pos.run) else s
    let s := keys.foldl State.handWindow s
    { s with rcv := { s.rcv with join := { s.rcv.join with sending := keys } } }

/-- The digest of a window that has been handed over follows it. -/
def State.digestAfter (s : State) (key : Nat) : State :=
  match tget (fun _ => (none : Option WinDig)) s.ledger.digests key with
  | some d => s.sendDigest s.handTo key s.pos.run 0 d.digest
  | none => s

/-- A join of this device ends. -/
def State.endJoin (s : State) : State :=
  (({ s with rcv := { s.rcv with join := Join.none } } : State).fset F.HUB_JOIN_STS_ROLE 0).fset F.HUB_JOIN_STS_STATE 0

/-- What a partner of a join has handed over goes off its list (R303, R304): a replacement's partner then turns to the mirror load, and then the
join ends; a shadow join's partner begins to send copies. -/
def State.handedOver (s : State) : State :=
  let join := s.rcv.join
  let done := join.sending.filter fun k => s.cx.pend.all (·.opid ≠ handOp k)
  let s := done.foldl State.digestAfter s
  let left := join.unsent.filter fun k => !done.contains k
  let s := { s with rcv := { s.rcv with join := { join with unsent := left, sending := join.sending.filter fun k => !done.contains k } } }
  let state := s.fget F.HUB_JOIN_STS_STATE
  if s.fget F.HUB_JOIN_STS_ROLE ≠ 3 then s
  else if join.shadow then (if state = 1 && join.begun && left.isEmpty then s.fset F.HUB_JOIN_STS_STATE 2 else s)
  else if left.isEmpty && (state = 1 || state = 5) then s.endJoin
  else if state = 1 && left.all (· < 65536) then (s.fset F.HUB_JOIN_STS_STATE 5).handJoin false
  else s

/-- The windows that a partner has to hand over: all committed ones of both sides. -/
def State.committedKeys (s : State) : List Nat := s.ledger.digests.filterMap fun p => if p.2.isSome && p.1 < 131072 then some p.1 else none

/-- The load of a join begins. -/
def State.beginLoad (s : State) : State :=
  (({ s with rcv := { s.rcv with join := { s.rcv.join with begun := true, unsent := s.committedKeys } } } : State).handedOver)

/-- A join at a boundary: a shadow join's load begins at the first one, and goes on (R304). -/
def State.joinBoundary (s : State) : State :=
  let s := { s with rcv := { s.rcv with join := { s.rcv.join with early := [] } } }
  let s := if s.fget F.HUB_JOIN_STS_ROLE = 3 && s.rcv.join.shadow && !s.rcv.join.begun then s.beginLoad else s
  s.handJoin true

/-- LX_RESP (R266): as CX_RESP, for the ledger engine's packets. One over the torus counts only from a device that the join names, unless it answers a
packet of a checkpoint (R302; that it is then discarded, since answers are not answered, is DEDUCED). -/
def State.takeLxResp (s : State) (port : Nat) (p : Packet) : State :=
  let n := leNat p.body
  match s.answered p.src (bits n 127 96) (bits n 95 64) with
  | some q =>
    if isLedgerType q.pkt.ptype && (0x88 ≤ q.pkt.ptype || s.ledgerFrom port p) then (s.takeAnswer q (bits n 63 56)).handedOver else s
  | none => s

def execLxResp (port : Nat) (p : Packet) (s : State) : Host.Outcome State Fault Refusal :=
  .next (s.receive port p 0x83 fun s => s.toLedger p fun s => s.takeLxResp port p)

/-- CX_VERDICT (R271 to R273): a FAIL record of the current run gives it up; any other record waits for its round. -/
def State.takeVerdict (s : State) (p : Packet) : State :=
  let n := leNat (p.body.take 32)
  let stage := bits n 187 186
  let r : VRec := { fail := bit n 185, early := bit n 184, cause := bits n 183 176, origin := bits n 145 128, sum := if stage = 2 then leNat (p.body.drop 32) else 0 }
  let x : VIn := { step := bits n 255 192, run := bits n 191 188, stage := stage, cut := bits n 159 158, part := bits n 157 157, round := bits n 175 160,
                   dir := bits n 156 156, body := r }
  let old := x.step < s.currentStep || (x.step = s.currentStep && x.run < s.pos.run)
  if epochCheck p.epoch (s.rd R.CXE_EPOCH) ≠ 0 then s.count R.CXE_REFUSE_CNT
  else if old then
    (match s.run.failure with
     | some f => if r.fail && stage = 1 && !s.pos.issued && x.step = s.stepNum && x.run + 1 = s.pos.run then s.joinFailure f r else s
     | none => s)
  else if r.fail && stage = 1 && s.pos.issued && x.step = s.stepNum && x.run = s.pos.run then
    if s.run.failSent then s else s.failRun r
  else
    let s := { s with run := { s.run with inbox := if s.run.inbox.contains x then s.run.inbox else s.run.inbox ++ [x] } }
    s.runVerdict 512

/-- R304: a step of the shadow has ended. -/
def State.joinSealed (s : State) : State :=
  if !s.shadowJoiner then s
  else if s.rcv.join.clean then
    let s := s.fadd F.HUB_JOIN_STS_CLEAN
    if max 1 (s.fget F.HUB_JOIN_CFG_SHADOW_STEPS) ≤ s.fget F.HUB_JOIN_STS_CLEAN then s.fset F.HUB_JOIN_STS_STATE 3 else s
  else
    let s := ({ s with rcv := { s.rcv with join := { s.rcv.join with clean := true } } } : State).fset F.HUB_JOIN_STS_CLEAN 0
    let s := s.fadd F.HUB_JOIN_STS_FAILS
    if max 1 (s.fget F.HUB_JOIN_CFG_SHADOW_FAILS) ≤ s.fget F.HUB_JOIN_STS_FAILS then s.fset F.HUB_JOIN_STS_STATE 4 else s

/-! ### The state re-read (R285) -/

/-- STATE_REREAD: one committed window (side × 65,536 + WIN) is read again and compared with the table. -/
def State.reread (s : State) (key : Nat) : State :=
  match tget (fun _ => (none : Option WinDig)) s.ledger.digests key with
  | none => s
  | some d =>
    if !s.flag F.LXE_CFG_REREAD_EN || !s.pos.issued || (s.openWin key).isSome || s.ledger.repairs.any (·.1 = key) then s
    else
      let (s, unread) := s.meet d.base d.len 0
      if !unread && crc64 (s.bytes d.base d.len) = d.digest then s
      else { s with ledger := { s.ledger with repairs := s.ledger.repairs ++ [(key, true)] } }

def execStateReread (window : Nat) (s : State) : Host.Outcome State Fault Refusal := .next (s.reread window)

end Sys2Proof.Machine
end

