-- ==== Sys2Proof/Machine/PageCoder.lean ====
section
/-! DEFINITION. The checkpoint coder (13_checkpoint, R316 to R319): planes of a page, their range coding, chunks and the manifest. -/
namespace Sys2Proof.Machine

/-! ### Planes (R316) -/

/-- The planes E, S, M1 and M0 of a run of little-endian words. -/
structure Planes where
  e  : List Byte
  s  : List Byte
  m1 : List Byte
  m0 : List Byte
deriving DecidableEq, Repr

def splitPlanes : List Byte → Planes
  | b0 :: b1 :: b2 :: b3 :: bs =>
    let p := splitPlanes bs
    { e := BitVec.ofNat 8 (b3.toNat % 128 * 2 + b2.toNat / 128) :: p.e, s := BitVec.ofNat 8 (b3.toNat / 128 * 128 + b2.toNat % 128) :: p.s, m1 := b1 :: p.m1,
      m0 := b0 :: p.m0 }
  | _ => ⟨[], [], [], []⟩

/-- The words again. -/
def joinPlanes : List Byte → List Byte → List Byte → List Byte → List Byte
  | e :: es, s :: ss, m1 :: m1s, m0 :: m0s =>
    m0 :: m1 :: BitVec.ofNat 8 (e.toNat % 2 * 128 + s.toNat % 128) :: BitVec.ofNat 8 (s.toNat / 128 * 128 + e.toNat / 2) :: joinPlanes es ss m1s m0s
  | _, _, _, _ => []

/-! ### Frequencies (R317) -/

def byteCounts (p : List Byte) : List Nat := (List.range 256).map fun b => p.countP fun x => x.toNat = b

def maxOf (ns : List Nat) : Nat := ns.foldl max 0

/-- f of every byte value: a plane of 262,144 bytes gives a sum of 65,536. -/
def frequencies (p : List Byte) : List Nat :=
  let cs := byteCounts p
  let fs := cs.map fun c => if c = 0 then 0 else max 1 (c / 4)
  let m := cs.findIdx (· = maxOf cs)
  fs.set m (fs.getD m 0 + 65536 - fs.sum)

/-- c[b], the sum of the frequencies below b. -/
def cumulative (fs : List Nat) (b : Nat) : Nat := (fs.take b).sum

/-! ### The stream (R318) -/

def ransPush : Nat → Nat → Nat → List Byte → Nat × List Byte
  | 0, x, _, out => (x, out)
  | n + 1, x, f, out => if 2 ^ 15 * f ≤ x then ransPush n (x / 256) f (BitVec.ofNat 8 x :: out) else (x, out)

/-- The encoder runs from the last symbol to the first; its output, last pushed first, follows the 4 bytes of x. -/
def ransEncode (fs : List Nat) (p : List Byte) : List Byte :=
  let r := p.foldr (fun b (r : Nat × List Byte) =>
    let f := fs.getD b.toNat 0
    let q := ransPush 4 r.1 f r.2
    (q.1 / f * 2 ^ 16 + q.1 % f + cumulative fs b.toNat, q.2)) (2 ^ 23, [])
  leBytes 4 r.1 ++ r.2

def ransPull : Nat → Nat → List Byte → Nat × List Byte
  | 0, x, bs => (x, bs)
  | n + 1, x, bs => if x < 2 ^ 23 then ransPull n (x * 256 + (bs.headD 0).toNat) (bs.drop 1) else (x, bs)

/-- The symbol whose range holds t. -/
def symbolOf (fs : List Nat) (t : Nat) : Nat := ((List.range 256).find? fun b => cumulative fs b ≤ t && t < cumulative fs b + fs.getD b 0).getD 0

def ransSymbols (fs : List Nat) : Nat → Nat → List Byte → List Byte
  | 0, _, _ => []
  | n + 1, x, bs =>
    let t := x % 2 ^ 16
    let b := symbolOf fs t
    let q := ransPull 4 (fs.getD b 0 * (x / 2 ^ 16) + t - cumulative fs b) bs
    BitVec.ofNat 8 b :: ransSymbols fs n q.1 q.2

/-- The decoder, for n symbols. -/
def ransDecode (fs : List Nat) (n : Nat) (stream : List Byte) : List Byte := ransSymbols fs n (leNat (stream.take 4)) (stream.drop 4)

/-! ### Plane bodies (R317) -/

def planeLen : Nat := 262144

/-- MODE, the constant, and the body of a plane. -/
structure PlaneBody where
  mode  : Nat
  const : Nat
  body  : List Byte
deriving DecidableEq, Repr

def codePlane (p : List Byte) : PlaneBody :=
  match p with
  | [] => ⟨0, 0, []⟩
  | b :: bs =>
    if bs.all (· = b) then ⟨1, b.toNat, []⟩
    else
      let fs := frequencies p
      let body := fs.flatMap (leBytes 2) ++ ransEncode fs p
      if body.length < planeLen then ⟨2, 0, body⟩ else ⟨0, 0, p⟩

/-- The plane that a body stands for; none for a MODE that R317 does not give. -/
def PlaneBody.decode (x : PlaneBody) : Option (List Byte) :=
  match x.mode with
  | 0 => some x.body
  | 1 => some (List.replicate planeLen (BitVec.ofNat 8 x.const))
  | 2 => some (ransDecode ((List.range 256).map fun i => leNat ((x.body.drop (2 * i)).take 2)) planeLen (x.body.drop 512))
  | _ => none

/-! ### Chunks (R319) -/

def planeDesc (x : PlaneBody) : List Byte := leBytes 1 x.mode ++ leBytes 1 x.const ++ leBytes 2 0 ++ leBytes 4 x.body.length

def chunkHeader (page len pdigest gen : Nat) (descs : List Byte) : List Byte :=
  leBytes 4 page ++ leBytes 4 len ++ leBytes 8 pdigest ++ padTo 32 descs ++ leBytes 4 gen ++ leBytes 12 0

def chunkNonce (gen coord page : Nat) : BitVec 96 := BitVec.ofNat 96 (gen % 2 ^ 32 * 2 ^ 64 + coord % 2 ^ 32 * 2 ^ 32 + page % 2 ^ 32)

/-- A chunk: header, encrypted body, tag, padding to 64 bytes. -/
def sealChunk (key : List Byte) (gen coord page pdigest : Nat) (descs body : List Byte) : List Byte :=
  let len := 64 + body.length + 16
  let h := chunkHeader page len pdigest gen descs
  padTo (up64 len) (h ++ padTo (body.length + 16) (Config.gcmSeal key (chunkNonce gen coord page) h body))

/-- The chunk of a page. -/
def pageChunk (key : List Byte) (gen coord page : Nat) (plain : List Byte) : List Byte :=
  let p := splitPlanes plain
  let bs := [codePlane p.e, codePlane p.s, codePlane p.m1, codePlane p.m0]
  sealChunk key gen coord page (crc64 plain) (bs.flatMap planeDesc) (bs.flatMap (·.body))

def manifestPage : Nat := 0xFFFFFFFF

/-- The chunk of the manifest. -/
def manifestChunk (key : List Byte) (gen coord : Nat) (manifest : List Byte) : List Byte :=
  sealChunk key gen coord manifestPage (crc64 manifest) [] manifest

/-- What a chunk's header says. -/
structure ChunkHdr where
  page    : Nat
  len     : Nat
  pdigest : Nat
  gen     : Nat
  planes  : List (Nat × Nat × Nat)
deriving DecidableEq, Repr

def ChunkHdr.ofBytes (bs : List Byte) : ChunkHdr :=
  let f (o n : Nat) : Nat := leNat ((bs.drop o).take n)
  { page := f 0 4, len := f 4 4, pdigest := f 8 8, gen := f 48 4, planes := (List.range 4).map fun i => (f (16 + 8 * i) 1, f (17 + 8 * i) 1, f (20 + 8 * i) 4) }

/-- The body of a chunk, decrypted; none when its tag fails. -/
def openChunk (key : List Byte) (coord : Nat) (bs : List Byte) : Option (List Byte) :=
  let h := ChunkHdr.ofBytes bs
  if h.len < 80 || bs.length < h.len then none
  else Config.gcmOpen key (chunkNonce h.gen coord h.page) (bs.take 64) ((bs.take h.len).drop 64)

/-- The page of a chunk; none when its tag, a MODE or its digest fails. -/
def openPage (key : List Byte) (coord : Nat) (bs : List Byte) : Option (List Byte) :=
  let h := ChunkHdr.ofBytes bs
  match openChunk key coord bs with
  | none => none
  | some body =>
    let cut (i : Nat) : Option (List Byte) :=
      let (mode, const, n) := h.planes.getD i (3, 0, 0)
      let skip := ((h.planes.take i).map (·.2.2)).sum
      ({ mode := mode, const := const, body := (body.drop skip).take n } : PlaneBody).decode
    match cut 0, cut 1, cut 2, cut 3 with
    | some e, some s, some m1, some m0 => let plain := joinPlanes e s m1 m0; if crc64 plain = h.pdigest then some plain else none
    | _, _, _, _ => none

end Sys2Proof.Machine
end

