-- ==== Sys2Proof/Machine/Checkpoint.lean ====
section
/-! DEFINITION. Checkpoint, rebuild and restore (13_checkpoint): the snapshot, the background copy, parity striping, the seal of a generation and
its reduction, draining, and the restore. -/
namespace Sys2Proof.Machine

/-! ### Records (R330, R331) -/

def ckStep (w : RecWord) : Nat := fieldOf w 511 448
def ckGen (w : RecWord) : Nat := fieldOf w 447 416
def ckAreaA (w : RecWord) : Nat := fieldOf w 415 368
def ckAreaB (w : RecWord) : Nat := fieldOf w 367 320
def ckTwo (w : RecWord) : Bool := fieldOf w 319 319 = 1

def State.ckState (s : State) : Nat := s.fget F.LXE_CKPT_STS_STATE
/-- STATE changes, which is an event of its own (R353). -/
def State.setCk (s : State) (n : Nat) : State := if s.ckState = n then s else (s.fset F.LXE_CKPT_STS_STATE n).raise 0x089

/-! ### The stripe group (R320) -/

def State.stripeG (s : State) : Nat := max 3 (s.fget F.LXE_CKPT_CFG_GM1) + 1
def State.stripeAxis (s : State) : Nat := s.fget F.LXE_CKPT_CFG_AXIS

/-- This device's member number, and the logical coordinate of member m. -/
def State.stripeMe (s : State) : Nat := axisOf s.lcoord s.stripeAxis % s.stripeG
def State.stripeCoord (s : State) (m : Nat) : Nat :=
  let a := s.stripeAxis
  setBits s.lcoord (6 * a + 5) (6 * a) (axisOf s.lcoord a / s.stripeG * s.stripeG + m)

/-- The other members. -/
def State.stripeOthers (s : State) : List Nat := (List.range s.stripeG).filter (· ≠ s.stripeMe)

/-- The member that a physical coordinate is. -/
def State.stripeFrom (s : State) (src : Nat) : Option Nat := s.stripeOthers.find? fun m => s.mapCoord (s.stripeCoord m) = some src

/-- The parity row of unit j of member m, and the unit of member m in row r. -/
def unitRow (g m j : Nat) : Nat :=
  let i := j % (g - 1)
  j / (g - 1) * g + i + (if m ≤ i then 1 else 0)

def rowUnit (g m r : Nat) : Option Nat :=
  let p := r % g
  if p = m then none else some (r / g * (g - 1) + (if p < m then p else p - 1))

/-- Where unit j and the parity of row r lie. -/
def State.unitAt (s : State) (j : Nat) : Nat := s.rd64 R.LXE_CKPT_BASE / mib * mib + j * mib
def State.parityAt (s : State) (r : Nat) : Nat := s.unitAt 0 + (s.rd R.LXE_CKPT_SIZE - (r / s.stripeG + 1)) * mib

/-- INVALID_FIELD details of the checkpoint commands (R313, R320, R331). -/
def State.ckDetail (s : State) (ctx : Nat) (w : RecWord) : Nat :=
  let op := recOpcode w
  let srcs := s.mpart.srcCur.filter fun r => bit r.1 31
  let empty (r : Nat × Nat) : Bool := bits r.2 19 0 < bits r.1 19 0
  let inside (r : Nat × Nat) : Bool :=
    empty r || s.mpart.srCur.any fun q => rangeHolds q (bits r.1 19 0 * mib) ((bits r.2 19 0 + 1 - bits r.1 19 0) * mib)
  lowest [
    (0x0F, !recHeaderOk w || fieldOf w 318 128 ≠ 0),
    (0x11, op = 0x6A && (ckAreaA w % mib ≠ 0 || (ckTwo w && ckAreaB w % mib ≠ 0))),
    (0x26, (s.getC ctx).stepped),
    (0x27, srcs.isEmpty || !srcs.all inside || (op ≠ 0x6A && (s.stripeAxis = 3 || s.dimOf s.stripeAxis % s.stripeG ≠ 0)))]

/-- Address errors: the first unit of a shard to be restored (R97). -/
def State.ckAddress (s : State) (c : Ctx) (w : RecWord) : Nat :=
  if recOpcode w = 0x6A then
    lowest [(s.rangeDetail c (ckAreaA w) mib, true), (if ckTwo w then s.rangeDetail c (ckAreaB w) mib else 0, ckTwo w)]
  else 0

/-- A checkpoint command ends (R331, R333). -/
def State.endCk (s : State) (rid resp detail : Nat) : State := (s.finish rid resp detail).fset F.LXE_CKPT_STS_RESP resp

/-- The command in service ends, if there is one. -/
def State.endService (s : State) (resp : Nat) : State :=
  match s.ckpt.rid with
  | some rid => ({ s with ckpt := { s.ckpt with rid := none } }).endCk rid resp (if resp = 0x11 then 5 else 0)
  | none => s

/-! ### The snapshot (R311 to R313) -/

/-- Pages of the source ranges, ascending. -/
def rangePages (rs : List (Nat × Nat)) : List Nat :=
  ((rs.filter fun r => bit r.1 31).flatMap fun r => (List.range (bits r.2 19 0 + 1 - bits r.1 19 0)).map (bits r.1 19 0 + ·)).mergeSort (· ≤ ·) |>.eraseDups

/-- The manifest's 266,304 bytes, with its units and digests (R312). -/
def State.manifestOf (s : State) (gen step pages : Nat) : List Byte :=
  let word (n : Nat) : List Byte := leBytes 4 n
  padTo 128 (word 1 ++ word gen ++ leBytes 8 step ++ word (s.ckpt.ran.headD (s.rd R.CXE_EPOCH)) ++ word s.lcoord ++ word (s.rd R.FAB_DIMS) ++
    ((List.range 4).flatMap fun k => word (s.ckpt.ran.getD (k + 1) (s.cutWord k))) ++ word (s.rd R.LXE_CKPT_CFG) ++
    ((s.mpart.srcCur.take 4).flatMap fun r => word r.1 ++ word r.2) ++ List.replicate (32 - 8 * min 4 s.mpart.srcCur.length) 0 ++ word pages) ++
  padTo 512 ((List.range 64).flatMap fun n => let c := s.getC n; leBytes 8 (if c.stepped then c.srkey else 0)) ++
  padTo 64 ((List.range 10).flatMap fun i => word (s.rd (R.IXE_SHUF_N + 4 * i))) ++ List.replicate 3392 0 ++
  ((List.range 4097).flatMap fun l => leBytes 64 (s.watchEntry l))

def manifestLen : Nat := 266304

/-- The manifest with UNITS, the shard digest and the group digest. -/
def manifestDone (m : List Byte) (units shard group : Nat) : List Byte :=
  m.take 84 ++ leBytes 4 units ++ leBytes 8 shard ++ leBytes 8 group ++ m.drop 104

/-- A held LX_CKPT meets its boundary: the snapshot. -/
def State.snapshot (s : State) (rid : Nat) (w : RecWord) : State :=
  let pages := rangePages s.mpart.srcCur
  let m := s.manifestOf (ckGen w) (ckStep w) pages.length
  let s := ((s.wr R.LXE_CKPT_GEN (ckGen w)).wr64 R.LXE_CKPT_STEP (ckStep w)).setCk 1
  let s := (s.wr R.LXE_CKPT_PROG 0).wr R.LXE_CKPT_UNITS 0
  { s with ckpt := { s.ckpt with
      rid := some rid, uncopied := pages, taken := [], manifest := m, digests := [], len := mib, sent := 1, rows := [], asked := [],
      ends := s.ckpt.ends.filter fun e => e.1 = ckGen w, bad := false, formed := false, red := none, group := none } }

/-! ### The reduction (R322) -/

def ckBytes (gen kind : Nat) (a b : CkSlot) (cut part round : Nat) (down : Bool) : List Byte :=
  let slot (x : CkSlot) : Nat :=
    x.stepMin % 2 ^ 64 * 2 ^ 256 + x.stepMax % 2 ^ 64 * 2 ^ 192 + x.gdMin % 2 ^ 64 * 2 ^ 128 + x.gdMax % 2 ^ 64 * 2 ^ 64 + x.hx % 2 ^ 64
  leBytes 96 (slot a * 2 ^ 448 + slot b * 2 ^ 128 + gen % 2 ^ 32 * 2 ^ 96 + kind % 16 * 2 ^ 92 + b2n a.bad * 2 ^ 91 + b2n b.bad * 2 ^ 90 +
    round % 65536 * 2 ^ 74 + cut % 4 * 2 ^ 72 + part % 2 * 2 ^ 71 + b2n down * 2 ^ 70)

def ckOfBytes (bs : List Byte) : CkIn :=
  let n := leNat bs
  let slot (o : Nat) (bad : Bool) : CkSlot :=
    { stepMin := bits n (o + 319) (o + 256), stepMax := bits n (o + 255) (o + 192), gdMin := bits n (o + 191) (o + 128), gdMax := bits n (o + 127) (o + 64),
      hx := bits n (o + 63) o, bad := bad }
  { gen := bits n 127 96, kind := bits n 95 92, a := slot 448 (bit n 91), b := slot 128 (bit n 90), cut := bits n 73 72, part := bits n 71 71,
    round := bits n 89 74, down := bit n 70 }

def CkSlot.join (x y : CkSlot) : CkSlot :=
  { stepMin := min x.stepMin y.stepMin, stepMax := max x.stepMax y.stepMax, gdMin := min x.gdMin y.gdMin, gdMax := max x.gdMax y.gdMax,
    hx := x.hx ^^^ y.hx, bad := x.bad || y.bad }

/-- One record to both ring neighbours of the part that runs. -/
def State.sendCk (s : State) (r : CkRed) : State :=
  match r.phases with
  | [] => s
  | (cut, part) :: _ =>
    [false, true].foldl (fun s down => s.sendRing 0x8A cut part down 0 (ckBytes r.gen r.kind r.a r.b cut part r.round down)) s

/-- One turn of the reduction. -/
def State.turnCk (s : State) (r : CkRed) : State :=
  match r.phases with
  | [] => s
  | (cut, part) :: rest =>
    let here (x : CkIn) : Bool := x.gen = r.gen && x.kind = r.kind && x.cut = cut && x.part = part && x.round = r.round
    match s.ckpt.inbox.filter fun x => here x && !x.down, s.ckpt.inbox.filter fun x => here x && x.down with
    | u :: _, d :: _ =>
      let last := r.round + 1 ≥ ringRounds (s.part cut part).size
      let r := { r with a := (r.a.join u.a).join d.a, b := (r.b.join u.b).join d.b, phases := if last then rest else r.phases, round := if last then 0 else r.round + 1 }
      ({ s with ckpt := { s.ckpt with red := some r, inbox := s.ckpt.inbox.filter fun x => !here x } }).sendCk r
    | _, _ => s

/-- The reduction as far as the records that have arrived take it. -/
def State.runCk : Nat → State → State
  | 0, s => s
  | n + 1, s =>
    match s.ckpt.red with
    | none => s
    | some r =>
      let s' := s.turnCk r
      if s'.ckpt.red = some r then s' else State.runCk n s'

def State.startCk (s : State) (gen kind : Nat) (a b : CkSlot) : State :=
  let r : CkRed := { gen := gen, kind := kind, a := a, b := b, phases := s.verdictParts, round := 0 }
  State.runCk 512 (({ s with ckpt := { s.ckpt with red := some r } } : State).sendCk r)

/-! ### Units and parity (R320, R321) -/

/-- A packet of the ledger engine to a member of the stripe group. -/
def State.toMember (s : State) (m ptype opid : Nat) (sub : Sub) (data : List Byte) : State :=
  match s.mapCoord (s.stripeCoord m) with
  | none => s.count R.FAB_UNREACH_CNT
  | some d =>
    let sub := { sub with check := crc32c data, opid := opid }
    s.sendE2E opid sub.pseq 0 (s.mkPacket 1 ptype d false 0 (s.rd R.CXE_EPOCH) (sub.bytes ++ data))

/-- A packet without a sub-header. -/
def State.tellMember (s : State) (m ptype : Nat) (body : List Byte) : State :=
  match s.mapCoord (s.stripeCoord m) with
  | none => s.count R.FAB_UNREACH_CNT
  | some d => s.launch none (s.mkPacket 1 ptype d false 0 (s.rd R.CXE_EPOCH) body)

/-- Operation number of the packets of a generation. -/
def ckOp (gen : Nat) : Nat := 2 ^ 31 + 2 ^ 30 + 2 ^ 29 + gen % 2 ^ 28

/-- CKPT_END to every other member. -/
def State.sendEnds (s : State) (n : Nat) : State :=
  s.forAll s.stripeOthers fun m s => s.tellMember m 0x8B (leBytes 4 (s.rd R.LXE_CKPT_GEN) ++ leBytes 4 n)

/-- The generation fails here (R320, R321): the command ends, stalled writes may go, the other members get this one's end marker, and the
reduction will say so. -/
def State.failGen (s : State) (resp : Nat) : State :=
  let s := (s.endService resp).setCk 5
  ({ s with ckpt := { s.ckpt with uncopied := [], taken := [], bad := true } } : State).sendEnds s.ckpt.sent

/-- The bytes of a row go to a member in CKPT_UNIT packets. A unit that cannot be read is a failure of this member, while its generation is sealed. -/
def State.sendRow (s : State) (m row a opid : Nat) : State :=
  let (s, r) := s.meetResp a mib
  if r ≠ 0 then (if s.ckState = 3 then s else s.failGen r)
  else (pieces (s.bytes a mib)).foldl (fun s p => s.toMember m 0x88 opid { Sub.zero with addr := row * mib + p.1, pseq := row % 4096 * 256 + p.1 / 4096 } p.2) s

/-- Unit j goes to the holder of its row. -/
def State.sendUnit (s : State) (j : Nat) : State :=
  let r := unitRow s.stripeG s.stripeMe j
  s.sendRow (r % s.stripeG) r (s.unitAt j) (ckOp (s.rd R.LXE_CKPT_GEN))

/-- The rows whose parity this device holds and that have had a byte, in MiB of the parity area that they take. -/
def State.parityRows (s : State) : Nat := s.ckpt.rows.foldl (fun n p => if p.1 / 32 % s.stripeG = s.stripeMe then max n (p.1 / 32 / s.stripeG + 1) else n) 0

def State.rowGot (s : State) (r m : Nat) : Nat := tget (fun _ => 0) s.ckpt.rows (r * 32 + m)

/-- Units of member m, once its end marker is here. -/
def State.endOf (s : State) (m : Nat) : Option Nat := (s.ckpt.ends.find? fun e => e.1 = s.rd R.LXE_CKPT_GEN && e.2.1 = m).map (·.2.2)

/-- A row held here is complete, with unit 0 or without it. -/
def State.rowComplete (s : State) (r : Nat) (zero : Bool) : Bool :=
  s.stripeOthers.all fun m =>
    match rowUnit s.stripeG m r, s.endOf m with
    | some j, some n => n ≤ j || (j = 0 && !zero) || mib ≤ s.rowGot r m
    | some _, none => false
    | none, _ => true

/-- The rows held here that some member's units reach. -/
def State.heldRows (s : State) : List Nat :=
  let g := s.stripeG
  let top := s.stripeOthers.foldl (fun n m => max n ((s.endOf m).getD 0)) 0
  let rows := (List.range (ceilDiv (top + 1) (g - 1) + 1)).map fun b => b * g + s.stripeMe
  rows.filter fun r => s.stripeOthers.any fun m =>
    0 < s.rowGot r m || (match rowUnit g m r, s.endOf m with | some j, some n => j < n | _, _ => false)

/-- PAR_PEND (R333). -/
def State.parityPending (s : State) : Nat := min 0xFFFF ((s.heldRows.filter fun r => !s.rowComplete r true).length)

/-- The shard digest and h (R321). -/
def State.shardDigest (s : State) : Nat := crc64 ((s.ckpt.digests.mergeSort fun a b => a.1 ≤ b.1).flatMap fun d => leBytes 8 d.2)

def shardHash (coord step digest : Nat) : Nat := crc64 (leBytes 4 coord ++ leBytes 8 step ++ leBytes 8 digest)

/-- Unit 0 is written and sent once the group digest is held. -/
def State.writeUnit0 (s : State) (group : Nat) : State :=
  let gen := s.rd R.LXE_CKPT_GEN
  let units := s.rd R.LXE_CKPT_UNITS
  let m := manifestDone s.ckpt.manifest units s.shardDigest group
  let bs := padTo mib (manifestChunk (s.slotKey (s.fget F.LXE_CKPT_CFG_KEYSLOT)) gen s.lcoord m)
  let (s, r) := s.putResp (s.unitAt 0) bs
  if r ≠ 0 then s.failGen r else s.sendUnit 0

/-- R321, step 7. -/
def State.completeGen (s : State) : State :=
  if s.ckState = 2 && s.ckpt.group.isSome && s.heldRows.all (fun r => s.rowComplete r true) then (s.setCk 3).endService 0 else s

/-- R321, step 4: this member's record, once the end markers and the parity are here; a member that has failed does not wait. -/
def State.formCk (s : State) : State :=
  let ready := s.stripeOthers.all (fun m => (s.endOf m).isSome) && s.heldRows.all fun r => s.rowComplete r false
  if s.ckpt.formed || !((s.ckState = 2 && ready) || (s.ckState = 5 && s.ckpt.bad)) then s
  else
    let step := s.rd64 R.LXE_CKPT_STEP
    let a : CkSlot := { stepMin := step, stepMax := step, gdMin := 0, gdMax := 0, hx := shardHash s.lcoord step s.shardDigest, bad := s.ckpt.bad }
    ({ s with ckpt := { s.ckpt with formed := true } } : State).startCk (s.rd R.LXE_CKPT_GEN) 1 a CkSlot.zero

/-- R321, step 5 onwards: the result of a seal's reduction. -/
def State.sealResult (s : State) (r : CkRed) : State :=
  let s := { s with ckpt := { s.ckpt with red := none } }
  if r.a.bad || r.a.stepMin ≠ r.a.stepMax then (s.endService 0x37).setCk 5
  else
    let s := (s.wr64 R.LXE_CKPT_GDIG r.a.hx).writeUnit0 r.a.hx
    ({ s with ckpt := { s.ckpt with group := some r.a.hx } } : State).completeGen

/-! ### The background copy (R314, R315, R319) -/

/-- The units that have filled are sent, as long as they and the parity do not meet. -/
def State.fillUnits : Nat → State → State
  | 0, s => s
  | n + 1, s =>
    let j := s.ckpt.sent
    if s.ckpt.len < (j + 1) * mib || s.ckpt.bad then s
    else if s.rd R.LXE_CKPT_SIZE < j + 1 + s.parityRows then s.failGen 0x35
    else State.fillUnits n (({ s with ckpt := { s.ckpt with sent := j + 1 } } : State).sendUnit j)

/-- A rebuilding member gets this member's units and held parity rows of the generation, then its end marker (R324). -/
def State.answerFetch (s : State) (m : Nat) : State :=
  let gen := s.rd R.LXE_CKPT_GEN
  let n := s.rd R.LXE_CKPT_UNITS
  let js := (List.range n).filter fun j => j ≠ 0 || s.ckpt.group.isSome
  let s := s.forAll js fun j s => s.sendRow m (unitRow s.stripeG s.stripeMe j) (s.unitAt j) (ckOp gen)
  let s := s.forAll s.heldRows fun r s => s.sendRow m r (s.parityAt r) (ckOp gen)
  s.tellMember m 0x8B (leBytes 4 gen ++ leBytes 4 n)

/-- R321, step 2: the last page is coded. -/
def State.endCopy (s : State) : State :=
  if s.ckState ≠ 1 || !s.ckpt.uncopied.isEmpty || s.ckpt.bad then s
  else
    let units := ceilDiv s.ckpt.len mib
    let pad := units * mib - s.ckpt.len
    let (s, r) := s.putResp (s.unitAt 0 + s.ckpt.len) (List.replicate pad 0)
    if r ≠ 0 then s.failGen r
    else
      let s := State.fillUnits 4 { s with ckpt := { s.ckpt with len := units * mib } }
      if s.ckState ≠ 1 then s
      else
        let s := (((s.wr R.LXE_CKPT_UNITS units).setCk 2).sendEnds units)
        s.forAll s.ckpt.asked fun m s => s.answerFetch m

/-- The bytes of an uncopied page: those that the copy has read ahead of a write, or what the page holds. -/
def State.pageBytes (s : State) (page : Nat) : State × List Byte × Nat :=
  match s.ckpt.taken.find? (·.page = page) with
  | some x => (s, x.data, x.resp)
  | none => s.readPage page

/-- One page is copied: coded into a chunk and appended. A page that cannot be read, or a chunk that cannot be written, is a failure of this member. -/
def State.copyPage (s : State) (page : Nat) : State :=
  let (s, plain, resp) := s.pageBytes page
  let c := pageChunk (s.slotKey (s.fget F.LXE_CKPT_CFG_KEYSLOT)) (s.rd R.LXE_CKPT_GEN) s.lcoord page plain
  let room := s.ckpt.len + c.length ≤ s.rd R.LXE_CKPT_SIZE * mib
  let s := { s with ckpt := { s.ckpt with uncopied := s.ckpt.uncopied.filter (· ≠ page), taken := s.ckpt.taken.filter (·.page ≠ page) } }
  if resp ≠ 0 then (s.failGen resp).formCk
  else if !room then (s.failGen 0x35).formCk
  else
    let (s, r) := s.putResp (s.unitAt 0 + s.ckpt.len) c
    if r ≠ 0 then (s.failGen r).formCk
    else
      let s := s.count R.LXE_CKPT_PROG
      let s := { s with ckpt := { s.ckpt with digests := s.ckpt.digests ++ [(page, crc64 plain)], len := s.ckpt.len + c.length } }
      (State.fillUnits 4 s).endCopy.formCk

/-- The copy may take a page: the lowest uncopied one, or one that a write waits for or that has been read ahead of a write. -/
def State.copies (s : State) (page : Nat) : Bool :=
  s.ckState = 1 && s.ckpt.uncopied.contains page &&
    (s.ckpt.uncopied.all (page ≤ ·) || s.ckpt.taken.any (·.page = page) || s.ckpt.stalled.any fun w => w.addr / mib ≤ page && page ≤ (w.addr + w.data.length - 1) / mib)

/-- After a step of a seal: the reduction may end. -/
def State.settleCk (s : State) : State :=
  match s.ckpt.red with
  | some r => if r.phases.isEmpty && r.kind = 1 then s.sealResult r else s
  | none => s

/-- CKPT_PAGE_COPY. -/
def execCkptPageCopy (page : Nat) (s : State) : Host.Outcome State Fault Refusal := .next (if s.copies page then (s.copyPage page).settleCk else s)

/-- A write that has waited is performed: its record's response follows from it, or its packet is answered (R251, R315). -/
def State.perform (s : State) (w : Stall) : State :=
  let (s, bad) := s.writeMem w.addr w.data 0
  match w.pkt with
  | some p => s.written p (if bad then 0x0E else 0)
  | none =>
    match w.rid.bind s.flight? with
    | some f => if bad && (match f.resp with | some (r, _) => r ≤ 1 | none => true) then s.setFlight { f with resp := some (0x15, 0) } else s
    | none => s

/-- A write that waits for a page may be performed: the copy has read every page of its range. -/
def State.stallDue (s : State) (page : Nat) (w : Stall) : Bool :=
  w.addr / mib ≤ page && page ≤ (w.addr + w.data.length - 1) / mib && (s.unread w.addr w.data.length).isEmpty

/-- STALLED_WRITE_PERFORMED (R315): the writes that waited for a page are performed, in the order in which they came. -/
def State.performStalled (s : State) (page : Nat) : State :=
  let ws := s.ckpt.stalled.filter (s.stallDue page)
  ws.foldl State.perform { s with ckpt := { s.ckpt with stalled := s.ckpt.stalled.filter fun w => !s.stallDue page w } }

def execStalledWritePerformed (page : Nat) (s : State) : Host.Outcome State Fault Refusal := .next (s.performStalled page)

/-! ### LX_CKPT (R313) -/

/-- A held LX_CKPT ends, is applied, or stays held. -/
def State.tryCkpt (s : State) (rid : Nat) : State :=
  match s.flight? rid with
  | none => { s with ckpt := { s.ckpt with held := s.ckpt.held.filter (· ≠ rid) } }
  | some f =>
    let n := ckStep f.word
    let off (s : State) : State := { s with ckpt := { s.ckpt with held := s.ckpt.held.filter (· ≠ rid) } }
    match s.pos.lastSealed with
    | some l =>
      if n < l then (off s).endCk rid 0x36 0
      else if n = l && s.standsAtBoundary && !s.layoutDue then
        if s.ckState ≠ 0 && s.ckState ≠ 4 then (off s).endCk rid 0x39 0
        else (((off s).snapshot rid f.word).endCopy).formCk.settleCk
      else s
    | none => s

/-- LX_CKPT: held until the device stands at the boundary after its step. -/
def State.lxCkpt (s : State) (f : Flight) : State :=
  if s.pos.lastSealed.any (ckStep f.word < ·) then s.endCk f.rid 0x36 0
  else if s.ckState ≠ 0 && s.ckState ≠ 4 then s.endCk f.rid 0x39 0
  else if s.ckpt.held.contains f.rid || s.ckpt.rid = some f.rid then s
  else ({ s with ckpt := { s.ckpt with held := s.ckpt.held ++ [f.rid] } }).tryCkpt f.rid

def execLxCkpt (rid : Nat) (s : State) : Host.Outcome State Fault Refusal :=
  .next (s.lxWork rid 0x68 fun f s => if s.ckpt.rid = some rid then s else s.lxCkpt f)

/-- The LX_CKPT records that a boundary finds held (R313). -/
def State.boundaryCkpt (s : State) : State := s.forAll s.ckpt.held fun rid s => s.tryCkpt rid

/-- An abort has brought the device back to its last boundary: what is held for that one is applied (R313, R347). -/
def State.resumeCkpt (s : State) : State := if s.recov.aborted.isSome && s.standsAtBoundary then s.boundaryCkpt else s

/-! ### Arriving packets -/

/-- XORs bytes into memory; a row's first bytes find it at zero. The number is the response of a block that cannot be read or written. -/
def State.xorInto (s : State) (a : Nat) (fresh : Option Nat) (data : List Byte) : State × Nat :=
  let (s, r) := match fresh with | some base => s.putResp base (List.replicate mib 0) | none => (s, 0)
  if r ≠ 0 then (s, r)
  else
    let (s, r) := s.meetResp a data.length
    if r ≠ 0 then (s, r) else s.putResp a (List.zipWith (· ^^^ ·) (s.bytes a data.length) data)

/-- Where the bytes of a row go: the parity row held here, or, in a rebuild, the lost unit. -/
def State.rowTarget (s : State) (r : Nat) : Option Nat :=
  if r % s.stripeG = s.stripeMe then some (s.parityAt r)
  else if s.ckState = 7 then (rowUnit s.stripeG s.stripeMe r).map s.unitAt
  else none

/-- The units and the parity rows, in MiB, that the region holds with the bytes of one more row: in a rebuild the units arrive (R320, R324). -/
def State.unitsWith (s : State) (row : Nat) : Nat :=
  if s.ckState ≠ 7 then s.ckpt.sent
  else
    let units (r : Nat) : Nat := match rowUnit s.stripeG s.stripeMe r with | some j => j + 1 | none => 0
    s.ckpt.rows.foldl (fun n p => max n (units (p.1 / 32))) (units row)

def State.parityWith (s : State) (row : Nat) : Nat :=
  if row % s.stripeG = s.stripeMe then max s.parityRows (row / s.stripeG + 1) else s.parityRows

/-- CKPT_UNIT (R321): a member's bytes of a row are XORed in, in their order; a repeated packet is answered and not applied again. A packet that
comes before this device has a region for it is asked for again. -/
def State.takeUnit (s : State) (p : Packet) : State :=
  let x := Sub.ofBytes p.body
  let data := p.body.drop 32
  let row := x.addr / mib
  let off := x.addr % mib
  match s.stripeFrom p.src with
  | none => s.respond p x.opid x.pseq 0x0A
  | some m =>
    let reason := firstReason [epochCheck p.epoch (s.rd R.CXE_EPOCH), if checkOk p x then 0 else 8]
    if reason ≠ 0 then s.respond p x.opid x.pseq reason
    else if s.ckState = 5 then s.respond p x.opid x.pseq 0
    else if !(s.ckState = 1 || s.ckState = 2 || s.ckState = 7) then
      s.respond p x.opid x.pseq (if s.ckState = 3 && x.opid = ckOp (s.rd R.LXE_CKPT_GEN) && off + data.length ≤ s.rowGot row m then 0 else 5)
    else
      let got := s.rowGot row m
      match s.rowTarget row with
      | none => s.respond p x.opid x.pseq 7
      | some base =>
        if off + data.length ≤ got then s.respond p x.opid x.pseq 0
        else if off ≠ got then s.respond p x.opid x.pseq 5
        else if s.rd R.LXE_CKPT_SIZE < s.unitsWith row + s.parityWith row then
          ((s.respond p x.opid x.pseq 0).failGen 0x35).formCk.settleCk
        else
          let first := s.stripeOthers.all fun m => s.rowGot row m = 0
          let (s, r) := s.xorInto (base + off) (if first then some base else none) data
          let s := if r = 0 then s else s.failGen r
          let s := { s with ckpt := { s.ckpt with rows := tset (fun _ => 0) s.ckpt.rows (row * 32 + m) (got + data.length) } }
          (s.respond p x.opid x.pseq 0).formCk.settleCk.completeGen

def execCkptUnit (port : Nat) (p : Packet) (s : State) : Host.Outcome State Fault Refusal := .next (s.receive port p 0x88 fun s => s.toLedger p fun s => s.takeUnit p)

/-! ### Reading a shard (R319, R329) -/

/-- The chunks of a shard from an offset: offset and header of each, up to one that is empty. -/
def State.shardChunks (s : State) : Nat → Nat → Nat → List (Nat × ChunkHdr)
  | 0, _, _ => []
  | n + 1, a, endA =>
    if endA < a + 64 then []
    else
      let h := ChunkHdr.ofBytes (s.bytes a 64)
      if h.len < 80 then [] else (a, h) :: s.shardChunks n (a + up64 h.len) endA

/-- The bytes of an area that its manifest gives the shard, or its first unit alone. -/
def State.areaLen (s : State) (area coord : Nat) : Nat :=
  let m := (openChunk (s.slotKey (s.fget F.LXE_CKPT_CFG_KEYSLOT)) coord (s.bytes area mib)).getD []
  max 1 (leNat ((m.drop 84).take 4)) * mib

/-- A shard as it lies in memory. -/
structure Shard where
  ok     : Bool
  step   : Nat
  gdig   : Nat
  digest : Nat
  pages  : List (Nat × Nat)
  manifest : List Byte
deriving DecidableEq, Repr

/-- R329, pass 1, without the comparison of the manifest. The area's units are those that the manifest names. -/
def State.readShard (s : State) (area coord : Nat) : Shard :=
  let key := s.slotKey (s.fget F.LXE_CKPT_CFG_KEYSLOT)
  let m := (openChunk key coord (s.bytes area mib)).getD []
  let f (o n : Nat) : Nat := leNat ((m.drop o).take n)
  let units := f 84 4
  let endA := area + units * mib
  let cs := s.shardChunks (f 80 4) (area + mib) endA
  let good := cs.all fun c => (openPage key coord (s.bytes c.1 c.2.len)).isSome
  let pages := cs.map fun c => (c.2.page, c.1)
  let digest := crc64 ((cs.mergeSort fun a b => a.2.page ≤ b.2.page).flatMap fun c => leBytes 8 c.2.pdigest)
  { ok := m.length = manifestLen && good && cs.length = f 80 4 && !s.rangeUnreadable area (units * mib), step := f 8 8, gdig := f 96 8, digest := digest,
    pages := pages, manifest := m }

/-- The manifest fits this device as it now is (R329). -/
def State.shardFits (s : State) (x : Shard) : Bool :=
  let f (o n : Nat) : Nat := leNat ((x.manifest.drop o).take n)
  f 0 4 = 1 && f 20 4 % 2 ^ 18 = s.lcoord && f 24 4 = s.rd R.FAB_DIMS && ((List.range 4).all fun k => f (28 + 4 * k) 4 = s.cutWord k) &&
    ((List.range 4).all fun k => let r := s.mpart.srcCur.getD k (0, 0); f (48 + 8 * k) 4 = r.1 && f (52 + 8 * k) 4 = r.2)

def State.slotOf (s : State) (x : Shard) : CkSlot :=
  { stepMin := x.step, stepMax := x.step, gdMin := x.gdig, gdMax := x.gdig, hx := shardHash s.lcoord x.step x.digest, bad := !(x.ok && s.shardFits x) }

/-- The areas that an LX_RESTORE reads, and the source ranges that it writes. -/
def State.restoreAreas (s : State) (w : RecWord) : List (Nat × Nat) :=
  (ckAreaA w, s.areaLen (ckAreaA w) s.lcoord) :: (if ckTwo w then [(ckAreaB w, s.areaLen (ckAreaB w) s.lcoord)] else [])

def State.sourceSpans (s : State) : List (Nat × Nat) := (rangePages s.mpart.srcCur).map fun p => (p * mib, mib)

/-- LX_RESTORE: verify, then reduce (R329). -/
def State.lxRestore (s : State) (f : Flight) : State :=
  let w := f.word
  let phase := s.fget F.HUB_STEP_STS_PHASE
  let st := s.ckState
  if s.ckpt.rid = some f.rid then s
  else if !(s.standsAtBoundary && (phase = 0 || phase = 7)) || st = 1 || st = 2 || st = 6 || st = 7 then s.endCk f.rid 0x39 0
  else
    let areas := s.restoreAreas w
    let out := lowest (areas.map fun r => (s.rangeDetail (s.getC f.ctx) r.1 r.2, true))
    if out ≠ 0 then s.endCk f.rid 0x11 out
    else
    match s.barred (areas ++ s.sourceSpans) with
    | some r => s.endCk f.rid r.1 r.2
    | none =>
    let s := areas.foldl (fun s r => (s.meet r.1 r.2 0).1) s
    let a := s.slotOf (s.readShard (ckAreaA w) s.lcoord)
    let b := if ckTwo w then s.slotOf (s.readShard (ckAreaB w) s.lcoord) else { CkSlot.zero with bad := true }
    let s := ({ s with ckpt := { s.ckpt with rid := some f.rid, back := st, slots := (b2n a.bad + 2 * b2n (ckTwo w && b.bad), ckTwo w) } } : State).setCk 6
    s.startCk 0 2 a b

/-- R329, pass 3: the chosen shard is written. The flag says that some page could not be written. -/
def State.restoreFrom (s : State) (x : Shard) : State × Bool :=
  let key := s.slotKey (s.fget F.LXE_CKPT_CFG_KEYSLOT)
  let (s, lost) := x.pages.foldl (fun (s, lost) p =>
    let h := ChunkHdr.ofBytes (s.bytes p.2 64)
    match openPage key s.lcoord (s.bytes p.2 h.len) with
    | some bs => let (s, e) := s.putMem (p.1 * mib) bs 0; (s, lost || e)
    | none => (s, lost)) (s, false)
  let f (o n : Nat) : Nat := leNat ((x.manifest.drop o).take n)
  let s := s.forAll (List.range 4097) fun l s =>
    let v := f (4096 + 64 * l) 64
    let s := { s with watch := { s.watch with table := tdel s.watch.table l } }
    [(223, 208), (207, 192), (183, 176), (167, 166), (165, 164), (160, 160)].foldl (fun s r => s.wset l r.1 r.2 (bits v r.1 r.2)) s
  let s := s.forAll (List.range 64) fun n s => s.setC n { s.getC n with srkey := f (128 + 8 * n) 8 }
  let s := s.forAll (List.range 10) fun i s => s.wr (R.IXE_SHUF_N + 4 * i) (f (640 + 4 * i) 4)
  let s := { s with
    pos := { s.pos with lastSealed := some x.step, firstSet := true, run := 0 }, ledger := { s.ledger with digests := [] },
    run := { RunPart.reset with carried := s.run.carried, inbox := s.run.inbox }, recov := { s.recov with aborted := none, reissued := none } }
  ((s.wr64 R.HUB_STEP_NUM x.step).fset F.HUB_STEP_STS_BOUNDARY 1, lost)

/-- An LX_RESTORE writes the shard of its choice, unless its memory is retired or fenced by then. -/
def State.restoreArea (s : State) (f : Flight) (area : Nat) : State :=
  match s.barred ((area, s.areaLen area s.lcoord) :: s.sourceSpans) with
  | some r => s.endCk f.rid r.1 r.2
  | none =>
    let (s, lost) := s.restoreFrom (s.readShard area s.lcoord)
    s.endCk f.rid (if lost then 0x15 else 0) 0

/-- A slot is consistent (R329). -/
def CkSlot.consistent (x : CkSlot) : Bool := !x.bad && x.stepMin = x.stepMax && x.gdMin = x.gdMax && x.gdMax = x.hx

/-- The result of a restore's reduction: the choice and the write, or RESTORE_NONE. -/
def State.restoreResult (s : State) (r : CkRed) : State :=
  let s := ({ s with ckpt := { s.ckpt with red := none } } : State).setCk s.ckpt.back
  match s.ckpt.rid.bind s.flight? with
  | none => { s with ckpt := { s.ckpt with rid := none } }
  | some f =>
    let a := r.a.consistent
    let b := s.ckpt.slots.2 && r.b.consistent
    let detail := s.ckpt.slots.1
    let s := { s with ckpt := { s.ckpt with rid := none } }
    if a && !(b && r.a.stepMin < r.b.stepMin) then s.restoreArea f (ckAreaA f.word)
    else if b then s.restoreArea f (ckAreaB f.word)
    else s.endCk f.rid 0x38 detail

/-- A reduction that has run through its phases ends. -/
def State.endRed (s : State) : State :=
  match s.ckpt.red with
  | some r => if r.phases.isEmpty then (if r.kind = 1 then s.sealResult r else s.restoreResult r) else s
  | none => s

def execLxRestore (rid : Nat) (s : State) : Host.Outcome State Fault Refusal := .next (s.lxWork rid 0x6A fun f s => (s.lxRestore f).endRed)

/-! ### Rebuild (R324) -/

/-- LX_CKPT_REBUILD: every other member is asked for its units and parity rows. -/
def State.lxRebuild (s : State) (f : Flight) : State :=
  let w := f.word
  if s.ckpt.rid = some f.rid then s
  else if s.ckState ≠ 0 && s.ckState ≠ 4 then s.endCk f.rid 0x39 0
  else
    let m := s.manifestOf (ckGen w) (ckStep w) (rangePages s.mpart.srcCur).length
    let s := ((s.wr R.LXE_CKPT_GEN (ckGen w)).wr64 R.LXE_CKPT_STEP (ckStep w)).setCk 7
    let s := { s with ckpt := { s.ckpt with
      rid := some f.rid, uncopied := [], taken := [], manifest := m, digests := [], len := mib, sent := 1, rows := [], asked := [], ends := s.ckpt.ends.filter fun e => e.1 = ckGen w,
      bad := false, formed := false, red := none, group := none } }
    s.forAll s.stripeOthers fun m s => s.tellMember m 0x8C (leBytes 4 (ckGen w) ++ leBytes 8 (ckStep w))

def execLxCkptRebuild (rid : Nat) (s : State) : Host.Outcome State Fault Refusal := .next (s.lxWork rid 0x69 fun f s => s.lxRebuild f)

/-- A lost member that had written unit 0 had taken part in the reduction: its group digest stands there, and the seal goes on from step 7 (DEDUCED). -/
def State.takeUnit0 (s : State) : State :=
  match openChunk (s.slotKey (s.fget F.LXE_CKPT_CFG_KEYSLOT)) s.lcoord (s.bytes (s.unitAt 0) mib) with
  | some m =>
    let group := leNat ((m.drop 96).take 8)
    ({ s with ckpt := { s.ckpt with group := some group, formed := true } } : State).wr64 R.LXE_CKPT_GDIG group
  | none => s

/-- Everything has come: the lost shard is read from its rebuilt units, and the seal goes on in the lost member's place; a shard without every
page was never ended by the lost member. -/
def State.rebuilt (s : State) : State :=
  if s.ckState ≠ 7 || !(s.stripeOthers.all fun m => (s.endOf m).isSome) then s
  else
    let pages := rangePages s.mpart.srcCur
    let cs := s.shardChunks pages.length (s.unitAt 1) (s.unitAt (s.rd R.LXE_CKPT_SIZE))
    let len := cs.foldl (fun n c => n + up64 c.2.len) mib
    let (s, r) := s.meetResp (s.unitAt 1) (len - mib)
    if r ≠ 0 then (s.failGen r).formCk.endRed
    else if (cs.map (·.2.page)).mergeSort (· ≤ ·) ≠ pages then (s.endService 0x37).setCk 5
    else
      let units := ceilDiv len mib
      let s := { s with ckpt := { s.ckpt with digests := cs.map fun (c : Nat × ChunkHdr) => (c.2.page, c.2.pdigest), len := units * mib, sent := units } }
      let s := ((s.wr R.LXE_CKPT_UNITS units).wr R.LXE_CKPT_PROG pages.length).setCk 2
      (s.sendEnds units).takeUnit0.formCk.endRed.completeGen

/-- CKPT_END (R321): a member's end marker. -/
def State.takeEnd (s : State) (p : Packet) : State :=
  match s.stripeFrom p.src with
  | none => s
  | some m =>
    if epochCheck p.epoch (s.rd R.CXE_EPOCH) ≠ 0 then s
    else
      let gen := leNat (p.body.take 4)
      let n := leNat ((p.body.drop 4).take 4)
      let s := { s with ckpt := { s.ckpt with ends := (gen, m, n) :: s.ckpt.ends.filter fun e => !(e.1 = gen && e.2.1 = m) } }
      s.formCk.endRed.completeGen.rebuilt

def execCkptEnd (port : Nat) (p : Packet) (s : State) : Host.Outcome State Fault Refusal := .next (s.receive port p 0x8B fun s => s.toLedger p fun s => s.takeEnd p)

/-- CKPT_REDUCE (R322). -/
def State.takeReduce (s : State) (p : Packet) : State :=
  if epochCheck p.epoch (s.rd R.CXE_EPOCH) ≠ 0 then s
  else
    let x := ckOfBytes p.body
    (State.runCk 512 { s with ckpt := { s.ckpt with inbox := if s.ckpt.inbox.contains x then s.ckpt.inbox else s.ckpt.inbox ++ [x] } }).endRed

def execCkptReduce (port : Nat) (p : Packet) (s : State) : Host.Outcome State Fault Refusal := .next (s.receive port p 0x8A fun s => s.toLedger p fun s => s.takeReduce p)

/-- CKPT_FETCH (R324): it is answered at once, or when this member's last page is coded. -/
def State.takeFetch (s : State) (p : Packet) : State :=
  match s.stripeFrom p.src with
  | none => s
  | some m =>
    let gen := leNat (p.body.take 4)
    if epochCheck p.epoch (s.rd R.CXE_EPOCH) ≠ 0 || gen ≠ s.rd R.LXE_CKPT_GEN then s
    else if s.ckState = 1 then { s with ckpt := { s.ckpt with asked := m :: s.ckpt.asked.filter (· ≠ m) } }
    else if s.ckState = 2 || s.ckState = 3 then s.answerFetch m
    else s

def execCkptFetch (port : Nat) (p : Packet) (s : State) : Host.Outcome State Fault Refusal := .next (s.receive port p 0x8C fun s => s.toLedger p fun s => s.takeFetch p)

/-! ### Draining (R323) -/

/-- DRAINED: in STATE complete the region is drained; ignored otherwise. -/
def State.drained (s : State) : State := if s.ckState = 3 then s.setCk 4 else s

def execCkptDrained (s : State) : Host.Outcome State Fault Refusal := .next s.drained

/-- DISCARD: the region is freed, except while it is in use. -/
def State.discardGen (s : State) : State :=
  let st := s.ckState
  if st = 1 || st = 2 || st = 6 || st = 7 then s
  else
    let s := { s with ckpt := { s.ckpt with rows := [], ends := [], digests := [], manifest := [], bad := false, formed := false, group := none } }
    s.setCk 0

def execCkptDiscard (s : State) : Host.Outcome State Fault Refusal := .next s.discardGen

end Sys2Proof.Machine
end

