-- ==== Sys2Proof/Machine/Fabric.lean ====
section
/-! DEFINITION. The commands of the fabric ports (09_fabric_links): training, link loss, flits of every type, packets in transit, the
coordinate map's reload. -/
namespace Sys2Proof.Machine

/-! ### Training -/

/-- PORT_TRAIN_COMPLETE (R218, R219, R230): the lanes that failed and the partner's parameters decide what the port becomes. -/
def execPortTrainComplete (port : Nat) (failed : List Nat) (p : Params) (s : State) : Host.Outcome State Fault Refusal :=
  .next (
    if port < 7 && s.portState port = 1 then
      let s := s.noteLanes port 0x08 failed
      match laneMap failed with
      | none => s.trainFail port 2
      | some m =>
        let s := s.emit (.params port (s.ownParams port m))
        let cause := s.judge port p
        if cause = 3 then s.trainFail port 3 else (s.portUp port m p cause).handJoin false
    else s)

/-- TRAINING_TIMEOUT (R218, R221): event 0 is the detection of the partner. -/
def execTrainingTimeout (port event : Nat) (s : State) : Host.Outcome State Fault Refusal :=
  .next (if port < 7 && s.portState port = 1 then s.trainFail port (if event = 0 then 1 else 8) else s)

/-- LINK_LOST (R238): the partner's lanes go idle and the port enters training. -/
def execLinkLost (port : Nat) (s : State) : Host.Outcome State Fault Refusal :=
  .next (if port < 7 && s.linkUp port then s.startTraining port else s)

/-- LANE_ERROR_WINDOW (R220, R235): the corrected symbols of each physical lane in the window, and the corrected codewords. -/
def execLaneErrorWindow (port : Nat) (counts : List Nat) (codewords : Nat) (s : State) : Host.Outcome State Fault Refusal :=
  .next (
    if port < 7 && s.linkUp port then
      let zero (_ : Nat) : Nat := 0
      let limit := s.fget (F.FAB_PORT_CTL_LANE_LIMIT.page port) * 256
      let s := s.wr64 (pageReg R.FAB_CW_CORR port) ((s.rd64 (pageReg R.FAB_CW_CORR port) + codewords) % 2 ^ 64)
      let s := s.setLink port { s.getLink port with viol := 0 }
      (counts.take 18).zipIdx.foldl (fun s c =>
        let k := port * 32 + c.2
        let s := { s with lanes := tset zero s.lanes k (min (tget zero s.lanes k + c.1) 0xFFFFFFFF) }
        if limit < c.1 then (s.fset (F.FAB_PORT_STS_RETRAIN_PEND.page port) 1).noteLanes port 0x09 [c.2] else s) s
    else s)

/-- PORT_RETRAIN_REQUEST (R220, R238): the retrain waits for the next step boundary; one already reached is that boundary. -/
def execPortRetrainRequest (port : Nat) (s : State) : Host.Outcome State Fault Refusal :=
  .next (
    if port < 7 then
      let s := s.fset (F.FAB_PORT_STS_RETRAIN_PEND.page port) 1
      if s.standsAtBoundary && s.recov.cur.isNone && !s.layoutDue then s.retrainPort port else s
    else s)

/-- FAB_PORT_CTL (R238): EN, RETRAIN, and the limits, VIOL_LIMIT and LANE_LIMIT until the seal. EN = 0 stops the port, EN = 1 lets it train again. -/
def State.portCtl (s : State) (port data : Nat) : State :=
  let k := pageReg R.FAB_PORT_CTL port
  let limits := if s.flag F.HUB_SEAL_STS_SEALED then bits (s.rd k) 23 0 else bits data 23 0
  let s := s.wr k (bits data 31 31 * 2 ^ 31 + limits)
  let s :=
    if !bit data 31 then (if s.portState port ≤ 3 then s.setPort port 0 0 else s)
    else if s.portState port = 0 then s.startTraining port
    else s
  if bit data 30 then
    let s := s.fset (F.FAB_PORT_STS_RETRAIN_PEND.page port) 1
    if s.standsAtBoundary && s.recov.cur.isNone && !s.layoutDue then s.retrainPort port else s
  else s

/-- PORT_CTL_WRITE. -/
def execPortCtlWrite (_ : Agent) (port data : Nat) (s : State) : Host.Outcome State Fault Refusal := .next (if port < 7 then s.portCtl port data else s)

/-! ### Flits -/

/-- IDLE (R224, R226): acknowledgement and credits. A retrain that waited for the last acknowledgement begins. -/
def execIdle (port : Nat) (h : FlitHdr) (s : State) : Host.Outcome State Fault Refusal := .next (s.controlFlit port h false id)

/-- DISCARDED_FLIT (R225): a flit that is not accepted is answered by one NAK with the expected SEQ. -/
def execDiscardedFlit (port codewords : Nat) (s : State) : Host.Outcome State Fault Refusal :=
  .next (
    if port < 8 && s.linkUp port then
      let l := s.getLink port
      let s := if port = hostLink then s else s.count (pageReg R.FAB_CW_UNCORR port) codewords
      if l.nakOut then s else (s.setLink port { l with nakOut := true }).emitIdle port true l.rxExp
    else s)

/-- NAK_REPEAT (R225): the expected flit has not arrived 1 µs after the NAK. -/
def execNakRepeat (port : Nat) (s : State) : Host.Outcome State Fault Refusal :=
  .next (if port < 8 && s.linkUp port && (s.getLink port).nakOut then s.emitIdle port true (s.getLink port).rxExp else s)

/-- LINKERR (R235, R240): only recorded. -/
def execLinkErr (port : Nat) (h : FlitHdr) (code seq : Nat) (s : State) : Host.Outcome State Fault Refusal :=
  .next (s.controlFlit port h true fun s =>
    if port = hostLink then s else s.wr (pageReg R.FAB_PEER_ERR port) (2 ^ 31 + code % 256 * 2 ^ 16 + seq % 1024))

/-- RETRAIN_REQ (R220): the port stops after its current flit and trains; the generation stays. One that crosses this end's own finds the port training. -/
def execRetrainReq (port : Nat) (h : FlitHdr) (s : State) : Host.Outcome State Fault Refusal :=
  .next (s.controlFlit port h true fun s =>
    if port = hostLink then s.retrainHost
    else if s.portState port = 1 then s
    else (s.setPort port 1 0).setLink port { s.getLink port with retrain := true })

/-- KEY (R233, R235): the next generation. One that lowers or skips it is a violation; the first after a training that was no retrain may name
any; the current generation, named again, changes nothing (DEDUCED). -/
def execKey (port : Nat) (h : FlitHdr) (gen : Nat) (s : State) : Host.Outcome State Fault Refusal :=
  .next (s.controlFlit port { h with bad := h.bad || port = hostLink } true fun s =>
    let l := s.getLink port
    if l.rxFresh || gen = l.rxGen + 1 then s.setLink port { l with rxGen := gen, rxPctr := none, rxFresh := false }
    else if gen = l.rxGen then s
    else s.violate port 0x0B h.seq 0)

/-- ABORT (R349): for the step in progress or the next one, and not older than its last reissue, it is forwarded once and aborts the step. -/
def execAbort (port : Nat) (h : FlitHdr) (step reason run domain origin : Nat) (s : State) : Host.Outcome State Fault Refusal :=
  .next (s.controlFlit port { h with bad := h.bad || port = hostLink } true fun s =>
    if s.abortable = some step && s.reissueRun step ≤ run then
      let key := (step, s.reissueRun step)
      let s :=
        if s.recov.forwarded.contains key then s
        else ({ s with recov := { s.recov with forwarded := key :: s.recov.forwarded } }).floodAbort (some port) step reason run domain origin
      if s.fget F.HUB_STEP_STS_PHASE = 7 then s else (s.abortTo step reason run domain origin false).resumeCkpt
    else s)

/-! ### Packets -/

/-- PACKET_FORWARD (R229, R230, R232, R234): a packet for another device goes on towards it; nothing from the Yoke port goes on. -/
def execPacketForward (port : Nat) (p : Packet) (s : State) : Host.Outcome State Fault Refusal :=
  let (s', ok) := s.arrive port p
  .next (
    if ok && port < 6 && p.dst ≠ s'.fget F.FAB_COORD_COORD then s'.launch (some port) p
    else if ok && port < 7 then s'.doneWith port p else s')

/-- The packet header fields that a FAB_UNREACH carries back name a waiting packet of this device. -/
def sameHeader (h : Nat) (q : Packet) : Bool :=
  bits h 17 0 = q.dst && bits h 71 64 = q.ptype && bits h 85 72 = q.bodyLen && bits h 191 128 = q.step % 2 ^ 64

/-- FAB_UNREACH (R234, R255): the record whose packet was dropped ends with UNREACHABLE. -/
def execFabUnreach (port : Nat) (p : Packet) (s : State) : Host.Outcome State Fault Refusal :=
  .next (s.receive port p 0x01 fun s =>
    match s.cx.pend.find? fun q => sameHeader (leNat (p.body.take 32)) q.pkt with
    | some q => s.endOp q.opid 0x21 2
    | none => s)

/-! ### The coordinate map (R231) -/

/-- RELOAD of FAB_MAP_CTL: the reload is held until the layout epoch changes. -/
def State.holdReload (s : State) : State := ({ s with cx := { s.cx with reload := true } }).fset F.FAB_MAP_CTL_PEND 1

/-- MAP_RELOAD. -/
def execMapReload (_ : Agent) (s : State) : Host.Outcome State Fault Refusal := .next s.holdReload

end Sys2Proof.Machine
end

