-- ==== Sys2Proof/Machine/Interrupt.lean ====
section
/-! DEFINITION. The interrupt controller's commands (15_interrupts): timers, deliveries, ends of interrupt, mask words, and the writes of
its configuration registers. -/
namespace Sys2Proof.Machine

/-- The target of a group (R355, R367). -/
def State.groupTarget (s : State) (g : Nat) : Nat :=
  if g < 128 then 0
  else
    let t := bits (s.getGrp g).cfg1.toNat 18 16
    if t = 0 then 7 else t

/-- Priority of a group: class first, then PRIO (R359). -/
def State.groupPrio (s : State) (g : Nat) : Nat := (if (s.getGrp g).express then 8 else 0) + (s.getGrp g).prio

/-- The plane's mask hold (R365). -/
def State.maskHold (s : State) (plane : Nat) : Bool := if plane = 0 then s.flag F.ICU_CFG_HMHOLD else s.flag F.ICU_CFG_FMHOLD

def groupPlane (g : Nat) : Nat := if g < 128 then 0 else 1

/-- R359, R360, R365, R367: a ready group may deliver. While the controller's domain is out of service nothing is delivered. -/
def State.mayDeliver (s : State) (g : Nat) : Bool :=
  let x := s.getGrp g
  let t := s.groupTarget g
  let st := s.getTarget t
  x.en && x.ready && s.flag F.ICU_CFG_EN && !s.fenced 0x42 && !st.frozen && st.stack.length < 8 &&
    (match st.stack.getLast? with | none => true | some top => s.groupPrio top < s.groupPrio g) &&
    !(t ≠ 0 && x.express && st.stack.any fun v => (s.getGrp v).express) &&
    !(x.autoMask && s.maskHold (groupPlane g))

/-- The group of a target that delivers next: highest priority, then lowest number. -/
def State.nextGroup (s : State) (t : Nat) : Option Nat :=
  (s.icu.groups.map (·.1)).foldl (fun best g =>
    if s.groupTarget g = t && s.mayDeliver g then
      match best with
      | none => some g
      | some b => if s.groupPrio b < s.groupPrio g then some g else some b
    else best) none

/-- The INT message of a vector (R358, R379); an express one goes ahead of what waits. -/
def State.sendInt (s : State) (express : Bool) (vector : Nat) : State :=
  let addr := s.rd64 (if express then R.ICU_MSIX_ADDR else R.ICU_MSI_ADDR)
  s.sendHost (mkHost 0x20 0 addr ((s.rd R.ICU_MSI_DATA + vector) % 2 ^ 32) 0 0) express

/-- R360: the MASK bit of every source routed to the group is set in its plane. -/
def State.autoMask (s : State) (g : Nat) : State :=
  s.forAll (s.icu.src.map (·.1)) fun n s =>
    if s.srcGroup (groupPlane g) n = some g then s.setRegBit (maskReg (groupPlane g) (n / 32)) (n % 32) true else s

/-- A group delivers: its vector is pushed, its count and timer clear, its sources are masked where it says so (R356, R358 to R360). -/
def State.deliver (s : State) (g : Nat) : State :=
  let x := s.getGrp g
  let t := s.groupTarget g
  let st := s.getTarget t
  let s := s.setTarget t { st with stack := st.stack ++ [g] }
  let s := s.setGrp g { x with count := 0, timing := false, ready := false }
  let s := if x.autoMask then s.autoMask g else s
  if t = 0 then s.sendInt x.express g else s.emit (.coreEntry t g)

/-- INTERRUPT_DELIVERY (R358 to R360, R365): the ready group of the target that may deliver and has the highest priority delivers. -/
def execInterruptDelivery (target : Nat) (s : State) : Host.Outcome State Fault Refusal :=
  match s.nextGroup target with
  | some g => .next (s.deliver g)
  | none => .next s

/-- GROUP_TIMER_EXPIRE (R356): a running timer reaches TIME_US and its group becomes ready. -/
def execGroupTimerExpire (g : Nat) (s : State) : Host.Outcome State Fault Refusal :=
  let x := s.getGrp g
  .next (if x.en && x.timing then s.setGrp g { x with timing := false, ready := true } else s)

/-- On page 3, host software's writes reach target 0 alone (R366). -/
def targetAllowed (a : Agent) (t : Nat) : Bool := t < 8 && (a = .firmware || t = 0)

/-- END_OF_INTERRUPT (R361, R362): the write of a vector to ICU_Tt_EOI pops the top entry it names, or is a nesting fault; while the stack is
frozen it is discarded and counted. -/
def State.endInterrupt (s : State) (t v : Nat) : State :=
  let st := s.getTarget t
  if st.frozen then s.setTarget t { st with faults := min (st.faults + 1) 255 }
  else if st.stack.getLast? = some v then s.setTarget t { st with stack := st.stack.dropLast }
  else
    let s := (s.setTarget t { st with frozen := true, faultVec := v }).setLevel (0x0A8 + t) true
    if t = 0 then s.sendInt true 0x100 else s.emit (.coreFault t)

def execEndOfInterrupt (a : Agent) (t v : Nat) (s : State) : Host.Outcome State Fault Refusal :=
  .next (if targetAllowed a t then s.endInterrupt t (v % 256) else s)

/-- R362: CLEAR empties and unfreezes the stack and zeroes FAULTS. -/
def State.clearStack (s : State) (t : Nat) : State :=
  let st := s.getTarget t
  (s.setTarget t { st with stack := [], frozen := false, faults := 0 }).setLevel (0x0A8 + t) false

def execStackClear (a : Agent) (t : Nat) (s : State) : Host.Outcome State Fault Refusal :=
  .next (if targetAllowed a t then s.clearStack t else s)

/-- R362: POPTOP pops the top entry without a check and leaves a frozen stack frozen. -/
def State.popTop (s : State) (t : Nat) : State :=
  let st := s.getTarget t
  s.setTarget t { st with stack := st.stack.dropLast }

def execStackPoptop (a : Agent) (t : Nat) (s : State) : Host.Outcome State Fault Refusal :=
  .next (if targetAllowed a t then s.popTop t else s)

/-- R354, R363: a write replaces a mask word; a source whose PEND is 1 and that becomes unmasked counts one event. -/
def State.writeMask (s : State) (plane i data : Nat) : State :=
  let old := s.rd (maskReg plane i)
  let pend := s.rd (pendReg plane i)
  let s := s.wr (maskReg plane i) data
  s.forAll (List.range 32) fun k s =>
    if bit old k && !bit data k && bit pend k then
      match s.srcGroup plane (32 * i + k) with
      | some g => s.countEvent g
      | none => s
    else s

/-- Host software writes only plane H (R364). -/
def planeAllowed (a : Agent) (plane : Nat) : Bool := plane = 0 || (plane = 1 && a = .firmware)

/-- ICU_MASK_WRITE (R354, R363, R364). -/
def execIcuMaskWrite (a : Agent) (plane i data : Nat) (s : State) : Host.Outcome State Fault Refusal :=
  .next (if planeAllowed a plane && i < 64 then s.writeMask plane i data else s)

/-- The bits of word i whose sources R353 names. -/
def namedWord (i : Nat) : Nat := (List.range 32).foldl (fun n k => n + (if srcNamed (32 * i + k) then 2 ^ k else 0)) 0

/-- R354, R363: a write replaces a pending word, and sources whose level is high set their bits again. The bits of reserved sources read 0 (R353). -/
def State.writePend (s : State) (plane i data : Nat) : State := (s.wr (pendReg plane i) (data &&& namedWord i)).repend plane i

/-! ### Configuration writes (R356, R366, R367) -/

/-- ICU_CFG: host software does not write FMHOLD. -/
def State.writeIcuCfg (s : State) (a : Agent) (data : Nat) : State :=
  let fm := if a = .host then s.fget F.ICU_CFG_FMHOLD else bits data 29 29
  s.wr R.ICU_CFG (bits data 31 30 * 2 ^ 30 + fm * 2 ^ 29)

/-- ICU_SRC_CFG of the selected source: host software does not write FEN and FGROUP. -/
def State.writeSrcCfg (s : State) (a : Agent) (data : Nat) : State :=
  let n := s.fget F.ICU_SRC_SEL_SOURCE
  let old := s.srcCfg n
  let f := if a = .host then bits old 23 16 else bits data 23 16
  { s with icu := { s.icu with src := tset (fun _ => (0 : Word)) s.icu.src n (BitVec.ofNat 32 (bits data 31 24 * 2 ^ 24 + f * 2 ^ 16)) } }

def grpAllowed (a : Agent) (g : Nat) : Bool := a = .firmware || g < 128

/-- ICU_GRP_CFG0: a count already held that reaches the new COUNT makes the group ready. -/
def State.writeGrpCfg0 (s : State) (a : Agent) (data : Nat) : State :=
  let g := s.fget F.ICU_GRP_SEL_GROUP
  if grpAllowed a g then
    let x := { s.getGrp g with cfg0 := BitVec.ofNat 32 data }
    s.setGrp g { x with ready := x.ready || (x.en && x.count ≠ 0 && x.limit ≤ x.count) }
  else s

/-- ICU_GRP_CFG1: TARGET of groups 0 to 127 is not writable. -/
def State.writeGrpCfg1 (s : State) (a : Agent) (data : Nat) : State :=
  let g := s.fget F.ICU_GRP_SEL_GROUP
  if grpAllowed a g then
    let t := if g < 128 then 0 else bits data 18 16
    s.setGrp g { s.getGrp g with cfg1 := BitVec.ofNat 32 (bits data 31 26 * 2 ^ 26 + t * 2 ^ 16) }
  else s

/-- ICU_GRP_STS of the selected group. -/
def State.grpSts (s : State) : Nat :=
  let x := s.getGrp (s.fget F.ICU_GRP_SEL_GROUP)
  b2n x.ready * 2 ^ 31 + b2n x.timing * 2 ^ 30 + x.count

/-- ICU_Tt_STK. -/
def State.targetStk (s : State) (t : Nat) : Nat :=
  let x := s.getTarget t
  b2n x.frozen * 2 ^ 31 + x.stack.length * 2 ^ 24 + x.faults * 2 ^ 16 + x.faultVec * 2 ^ 8 + x.stack.getLast?.getD 0

/-- ICU_Tt_VEC: entries 0 to 7, a byte each, as 64 bits. -/
def State.targetVec (s : State) (t : Nat) : Nat := leNat ((s.getTarget t).stack.map (BitVec.ofNat 8))

/-- An interrupt controller reset (R343, R367): every register of the chapter to its reset value except the message addresses and data;
a level that is high sets PEND again. -/
def State.resetIcu (s : State) : State :=
  let raw := (List.range 64).map fun i => (i, s.rd (R.ICU_HRAW + 4 * i))
  let s := s.clearRegs fun k => k / 65536 = 8 && k % 65536 ≥ 0x40 && !(R.ICU_MSI_ADDR ≤ k && k ≤ R.ICU_MSI_DATA)
  let s := { s with icu := { src := [], groups := [], targets := [] } }
  raw.foldl (fun s x =>
    let v := if x.1 = 5 then x.2 &&& 0xFFFF00FF else x.2
    ((s.wr (R.ICU_HRAW + 4 * x.1) v).wr (R.ICU_FRAW + 4 * x.1) v |>.repend 0 x.1).repend 1 x.1) s

end Sys2Proof.Machine
end

