-- ==== Sys2Proof/Machine/Preempt.lean ====
section
/-! DEFINITION. Pre-emption (13_checkpoint, R325 to R328): notices, the choice of the step after which to stop, and the stop. -/
namespace Sys2Proof.Machine

/-- The device has sealed the held step and stands at its boundary, or the step above it has been aborted: it stops (R328). -/
def State.stopNow (s : State) : State := (s.setPhase 7).fset F.HUB_PRE_STS_STATE 2

/-- R327: what a held S asks of the step in progress. -/
def State.actOnHeld (s : State) : State :=
  match s.pre.held with
  | none => s
  | some h =>
    if s.fget F.HUB_PRE_STS_STATE = 2 then s
    else if s.standsAtBoundary && s.recov.cur.isNone then
      (if s.pos.lastSealed.any (h ≤ ·) then s.stopNow else s)
    else if s.inProgress && !s.sealing && h < s.stepNum && !s.run.formed && !s.run.failSent && s.fget F.HUB_STEP_STS_PHASE ≠ 7 then
      ((s.stepAbort 7 0xFF).fset F.HUB_PRE_STS_ABORTED 1).stopNow
    else s

/-! ### Commands of the ledger engine by which a run may pass or fail -/

def execLxVerdict (rid : Nat) (s : State) : Host.Outcome State Fault Refusal :=
  .next ((s.lxWork rid 0x62 fun f s => s.lxVerdict f).preemptPassed.actOnHeld.resumeCkpt)

def execLxData (port : Nat) (p : Packet) (s : State) : Host.Outcome State Fault Refusal :=
  .next ((s.receive port p 0x80 fun s => s.toLedger p fun s => s.takeLxData port p).earlyFailure.actOnHeld.resumeCkpt)

def execCxVerdict (port : Nat) (p : Packet) (s : State) : Host.Outcome State Fault Refusal :=
  .next ((s.receive port p 0x15 fun s => s.takeVerdict p).preemptPassed.actOnHeld.resumeCkpt)

/-! ### Decisions -/

/-- A decision S of this device, or one received (R326): the least one is kept, and told to the rings when it falls. S = 0 has no effect while no step is
in progress. -/
def State.decideStop (s : State) (n : Nat) (pin remote : Bool) : State :=
  let idle := s.atBoundary || !s.inProgress
  if n = 0 && idle then s
  else if s.pre.held.any (· ≤ n) then s
  else
    let n := if s.inProgress && !s.sealing && s.run.passed then max n s.stepNum else n
    let s := if s.pre.held.isSome then s else s.fset F.HUB_PRE_STS_ABORTED 0
    let s := ({ s with pre := { held := some n } } : State).wr64 R.HUB_PRE_STEP n
    let s := ((s.fset F.HUB_PRE_STS_STATE 1).fset F.HUB_PRE_STS_PIN (b2n pin)).fset F.HUB_PRE_STS_REMOTE (b2n remote)
    let body := leBytes 16 (n % 2 ^ 64 * 2 ^ 64 + s.lcoord)
    let s := s.verdictParts.foldl (fun s p => [false, true].foldl (fun s down => s.sendRing 0x89 p.1 p.2 down 0 body) s) s
    s.actOnHeld.resumeCkpt

/-- A notice with a deadline in ms (R325, R326). The time since the step's first issue is measured, not stored: it is a free value. -/
def State.notice (s : State) (deadline : Nat) (pin : Bool) : State :=
  let s := s.raise 0x088
  let sealed := s.pos.lastSealed.getD 0
  if s.atBoundary then s.decideStop sealed pin false
  else if s.run.passed then s.decideStop s.stepNum pin false
  else
    let (elapsed, s) := s.fresh
    let left := s.rd R.HUB_SCHED_T_STEP / 1000 - elapsed
    s.decideStop (if left + s.fget F.HUB_PRE_CFG_MARGIN_MS ≤ deadline then s.stepNum else sealed) pin false

/-- PRE_NOTICE: a write of HUB_PRE_NOTICE. -/
def State.writePreNotice (s : State) (data : Nat) : State := if bit data 31 then s.notice (bits data 15 0) false else s

def execPreNotice (_ : Agent) (data : Nat) (s : State) : Host.Outcome State Fault Refusal := .next (s.writePreNotice data)

/-- PREEMPT_N: the pin has been asserted for long enough. -/
def execPreemptN (s : State) : Host.Outcome State Fault Refusal :=
  .next (if s.flag F.HUB_PRE_CFG_PIN_EN then s.notice (s.fget F.HUB_PRE_CFG_PIN_DEADLINE_MS) true else s)

/-- CKPT_STOP (R326): a decision of another device. -/
def execCkptStop (port : Nat) (p : Packet) (s : State) : Host.Outcome State Fault Refusal :=
  .next (s.receive port p 0x89 fun s =>
    if epochCheck p.epoch (s.rd R.CXE_EPOCH) ≠ 0 then s else s.decideStop (bits (leNat p.body) 127 64) false true)

/-- RELEASE (R328): the stop ends, and with it an abort whose reason is PREEMPT (R350). -/
def State.release (s : State) : State :=
  let s := ({ s with pre := { held := none } } : State).fset F.HUB_PRE_STS_STATE 0
  if s.fget F.HUB_ABORT_STS_REASON = 7 then { s with recov := { s.recov with aborted := none } } else s

def execRelease (s : State) : Host.Outcome State Fault Refusal := .next s.release

end Sys2Proof.Machine
end

