-- ==== Sys2Proof/Machine/HostIf.lean ====
section
/-! DEFINITION. The host transport (16_host_attachment): its records, DMA messages and their answers, pre-emption messages, protocol violations
and the training of the host link. Register messages are in Regs. -/
namespace Sys2Proof.Machine

/-! ### Records (R376 to R378) -/

def htHost (w : RecWord) : Nat := fieldOf w 511 448
def htDev (w : RecWord) : Nat := fieldOf w 447 400
def htLen (w : RecWord) : Nat := fieldOf w 399 368
def htBell (w : RecWord) : Nat := fieldOf w 367 336

/-- The INVALID_FIELD detail of a host transport record from a context; a context that may use no DMA key has no DMA (R377, R401). -/
def State.htDetail (s : State) (ctx : Nat) (w : RecWord) : Nat :=
  let op := recOpcode w
  let copy := op = 0x70 || op = 0x71
  lowest [
    (0x04, copy && (htLen w = 0 || htLen w % 16 ≠ 0)),
    (0x0F, !recHeaderOk w || fieldOf w 335 128 ≠ 0),
    (0x11, copy && (htHost w % 16 ≠ 0 || htDev w % 16 ≠ 0)),
    (0x28, (s.dmaKey ctx).isNone)]

def State.htAddress (s : State) (c : Ctx) (w : RecWord) : Nat :=
  if recOpcode w = 0x72 then 0 else s.rangeDetail c (htDev w) (htLen w)

/-- Runs g on a host transport record with an opcode whose copying has not begun. -/
def State.htWork (s : State) (rid op : Nat) (g : Flight → State → State) : State :=
  s.work rid (fun f => queueEngine f.queue = 15 && recOpcode f.word = op && s.host.copies.all (·.rid ≠ rid)) g

def State.setCopy (s : State) (c : Copy) : State :=
  { s with host := { s.host with copies := s.host.copies.map fun x => if x.rid = c.rid then c else x } }

/-- A record ends, with its copying. -/
def State.endCopying (s : State) (rid resp detail : Nat) : State :=
  ({ s with host := { s.host with copies := s.host.copies.filter (·.rid ≠ rid) } } : State).finish rid resp detail

/-- DMA_RD requests outstanding (R375). -/
def State.readsOut (s : State) : Nat :=
  (s.host.reqs.filter fun r => match r.kind with | .ring _ => true | .copyIn _ _ => true | _ => false).length

/-- The next requests of an HT_TO_DEV, as far as 256 outstanding allow. -/
def State.askPieces : Nat → Nat → State → State
  | 0, _, s => s
  | n + 1, rid, s =>
    match s.host.copies.find? (·.rid = rid), s.flight? rid with
    | some c, some f =>
      let len := htLen f.word
      if len ≤ c.next || 256 ≤ s.readsOut then s
      else
        let k := min 4096 (len - c.next)
        let s := s.dmaRead f.ctx f.queue (htHost f.word + c.next) k (.copyIn rid (htDev f.word + c.next))
        State.askPieces n rid (s.setCopy { c with next := c.next + k })
    | _, _ => s

/-- Every transfer gets what requests are free. -/
def State.askAll (s : State) : State := s.host.copies.foldl (fun s c => State.askPieces 256 c.rid s) s

/-- An answer for a record has been used: with all of it asked for and answered, the record ends. -/
def State.settleCopy (s : State) (rid : Nat) : State :=
  match s.host.copies.find? (·.rid = rid), s.flight? rid with
  | some c, some f =>
    let mine (r : HostReq) : Bool := match r.kind with | .copyIn x _ => x = rid | .copyOut x => x = rid | _ => false
    if htLen f.word ≤ c.next && !(s.host.reqs.any mine) then s.endCopying rid (if c.unc then 0x15 else 0) 0 else s
  | _, _ => s

/-- HT_TO_DEV: the data is asked for in pieces of up to 4,096 bytes. -/
def State.htToDev (s : State) (f : Flight) : State :=
  s.ifOpen f [(htDev f.word, htLen f.word)] fun s => State.askPieces 256 f.rid { s with host := { s.host with copies := s.host.copies ++ [({ rid := f.rid, next := 0, unc := false } : Copy)] } }

def execHtToDev (rid : Nat) (s : State) : Host.Outcome State Fault Refusal := .next (s.htWork rid 0x70 fun f s => s.htToDev f)

/-- HT_TO_HOST: the bytes go out as DMA_WR messages of up to 4,096 bytes. -/
def State.htToHost (s : State) (f : Flight) : State :=
  let w := f.word
  s.ifOpen f [(htDev w, htLen w)] fun s =>
    let (s, bs, unc) := s.readAs (htDev w) (htLen w)
    let s := { s with host := { s.host with copies := s.host.copies ++ [({ rid := f.rid, next := htLen w, unc := unc } : Copy)] } }
    (pieces bs).foldl (fun s p => s.dmaWrite f.ctx f.queue (htHost w + p.1) p.2 (.copyOut f.rid)) s

def execHtToHost (rid : Nat) (s : State) : Host.Outcome State Fault Refusal := .next (s.htWork rid 0x71 fun f s => s.htToHost f)

/-- HT_RING: the doorbell of DBWORD, for a queue whose context shares the record's GROUP. -/
def State.htRing (s : State) (f : Flight) : State :=
  let q := bits (htBell f.word) 29 16
  let tail := bits (htBell f.word) 15 0
  let c := (s.getQ q).ctx
  if (s.getC c).group = (s.getC f.ctx).group && s.innerBellOk f.ctx c q tail then (s.setTail q tail).finish f.rid 0 0
  else (s.setC c { s.getC c with dbRej := min ((s.getC c).dbRej + 1) 0xFFFF }).finish f.rid 0x3D 0

/-! ### Messages from the host (R371, R372, R382) -/

/-- An ERR message. The spec gives the STATUS only for register writes: otherwise it is a free value. -/
def State.sendErr (s : State) (tag status : Nat) : State := s.sendHost (mkHost 0x3F 2 0 0 tag status)

/-- A violation by the host (R382): codes 5 to 8 and 0x0A are answered with ERR; at VIOL_LIMIT the host attachment is reset. -/
def State.hostViolate (s : State) (code tag : Nat) : State :=
  let s := s.countViolation hostLink code tag 0
  let (v, s) := s.fresh
  let s := if (5 ≤ code && code ≤ 8) || code = 0x0A then s.sayOnce hostLink fun s => s.sendErr tag (v % 256) else s
  if s.violLimit hostLink ≤ (s.getLink hostLink).viol then s.requestSeq 0x43 false 0x0A else s

/-- Message types that the host sends, with their classes. -/
def hostClass (mtype : Nat) : Option Nat :=
  match mtype with
  | 0x01 => some 1 | 0x02 => some 0 | 0x12 => some 2 | 0x13 => some 2 | 0x30 => some 2 | _ => none

/-- A message enters, unless the host attachment is out of service (R345): its flits are accepted, their link headers read and their buffer is freed;
codes 1 to 7 of R382, the lowest. -/
def State.hostArrive (s : State) (m : HostMsg) (mtype : Nat) : State × Bool :=
  if !s.linkUp hostLink || s.domOos 0x43 then (s, false)
  else
    let n := hostFlits m
    let seq := (s.getLink hostLink).rxExp
    let (s, w) := (s.takeFlits hostLink n).readHeaders hostLink m.hdrs
    let s := if m.credit then s.freeBuffer hostLink (m.cls * 2) n else s
    let code :=
      if !m.credit then 2 else match hostClass m.mtype with
      | none => 5
      | some c =>
        if m.resv || !m.lastOk || m.len % 16 ≠ 0 || 4096 < m.len || (m.body.length ≠ m.len && !(m.body.isEmpty && m.mtype ≠ 0x12) && m.status = 0) then 6
        else if c ≠ m.cls then 7 else 0
    let v := if w = 0 then code else if code = 0 then w else min w code
    let s := if v = 0 then s else if v ≤ 4 then s.violate hostLink v seq (m.cls * 2) else s.hostViolate v m.tag
    (s.serveLink hostLink, code = 0 && w ≠ 1 && m.mtype = mtype)

/-- An answer that no one takes: the fence of the host attachment is complete, or that of the engine whose request it answers (R340). -/
def State.answerLost (s : State) (tag : Nat) : Bool :=
  s.fenceDone 0x43 || (s.halted 15 && s.host.reqs.any fun r => r.tag = tag && (match r.kind with | .compl _ => false | _ => true))

def State.dropReq (s : State) (tag : Nat) : State := { s with host := { s.host with reqs := s.host.reqs.filter (·.tag ≠ tag) } }

/-- What a failed request does: its record ends, a fetch stops its queue, a completion record is dropped (R98, R378). -/
def State.failReq (s : State) (r : HostReq) (resp detail : Nat) : State :=
  let s := s.dropReq r.tag
  match r.kind with
  | .copyIn rid _ => if s.host.copies.any (·.rid = rid) then s.endCopying rid resp detail else s
  | .copyOut rid => if s.host.copies.any (·.rid = rid) then s.endCopying rid resp detail else s
  | .compl c =>
    let x := s.getC c
    (s.setC c { x with crOvf := true, crWait := x.crWait.drop 1 }).sendCompl c 0
  | .ring q =>
    let x := s.getQ q
    if !x.fetching then s
    else
      let i := x.got - 1
      let s := s.setQ q { x with fetching := false, mode := .error, resp := resp, detail := detail, failed := [], next := if x.entryOk then i else x.next }
      let s := s.complete x.ctx (s.entryD q).step x.head i q 0 resp detail true
      if (s.getC x.ctx).stepped then s.stepAbort 4 0xFF else s

/-- Data that a request asked for. -/
def State.useData (s : State) (r : HostReq) (bs : List Byte) : State :=
  let s := s.dropReq r.tag
  match r.kind with
  | .copyIn rid daddr =>
    match s.host.copies.find? (·.rid = rid), s.flight? rid with
    | some c, some f =>
      let (s, wr) := s.writeAs f daddr bs
      (match wr with
       | .ok => s.settleCopy rid
       | .unc => (s.setCopy { c with unc := true }).settleCopy rid
       | _ => s.endCopying rid wr.resp 0).askAll
    | _, _ => s.askAll
  | .ring q =>
    let x := s.getQ q
    if x.fetching then
      let t := (List.range bs.length).foldl (fun t i => tset memDefault t (r.addr + i) (bs.getD i 0)) x.host
      (s.setQ q { x with host := t, got := x.got + 1, fetching := false }).askAll
    else s.askAll
  | _ => s

/-- DMA_RD_DATA (R377, R382). -/
def State.takeData (s : State) (m : HostMsg) : State :=
  match s.host.reqs.find? fun r => r.tag = m.tag && (match r.kind with | .ring _ => true | .copyIn _ _ => true | _ => false) with
  | none => s.hostViolate 8 m.tag
  | some r =>
    let last := tget (fun _ => (none : Option Nat)) s.host.rxCtr r.ctx
    if m.status ≠ 0 then s.failReq r 0x3A m.status
    else if m.len ≠ r.len then (s.hostViolate 9 m.tag).failReq r 0x3A 0
    else if last.any (m.mctr ≤ ·) then s.hostViolate 0x0A m.tag
    else if !m.tagOk then ((s.count R.UCI_AUTH_CNT).hostViolate 0x0B m.tag).failReq r 0x3C 0
    else ({ s with host := { s.host with rxCtr := tset (fun _ => (none : Option Nat)) s.host.rxCtr r.ctx (some m.mctr) } } : State).useData r m.body

/-- DMA_WR_ACK (R376, R382): a piece of a copy or a completion record is in host memory, or was refused. -/
def State.takeAck (s : State) (m : HostMsg) : State :=
  match s.host.reqs.find? fun r => r.tag = m.tag && (match r.kind with | .copyOut _ => true | .compl _ => true | _ => false) with
  | none => s.hostViolate 8 m.tag
  | some r =>
    if m.status ≠ 0 then s.failReq r 0x3A m.status
    else
      let s := s.dropReq r.tag
      match r.kind with
      | .copyOut rid => s.settleCopy rid
      | .compl c =>
        let x := s.getC c
        match x.crWait with
        | (_, err) :: rest => ((s.setC c { x with crTail := (x.crTail + 1) % 2 ^ x.crSize, crWait := rest }).complRaise c err).sendCompl c 0
        | [] => s
      | _ => s

/-- HOST_PRE (R381): a pre-emption notice, answered with HUB_PRE_STS as it then stands. -/
def execHostPre (m : HostMsg) (s : State) : Host.Outcome State Fault Refusal :=
  let (s', ok) := s.hostArrive m 0x30
  .next (
    if ok then
      let s' := s'.notice (bits m.data 15 0) false
      s'.sendHost (mkHost 0x31 2 0 (s'.rd R.HUB_PRE_STS) m.tag 0)
    else s')

/-! ### The link (R383) -/

/-- Records in flight of the host transport end with LINK_DOWN, and what is on its way is lost. -/
def State.hostDown (s : State) : State :=
  let rids := s.host.copies.map (·.rid)
  let s := s.setLink hostLink Link.reset
  let s := s.host.reqs.foldl (fun s r => s.failReq r 0x3E 0) s
  rids.foldl (fun s rid => if s.host.copies.any (·.rid = rid) then s.endCopying rid 0x3E 0 else s) s

/-- Training of the modules has ended with those of a bit mask (R369, R370, R383). A retrain loses nothing: what is unacknowledged is sent
again. -/
def State.hostTrained (s : State) (modules : Nat) : State :=
  let m := modules % 16
  let st := s.fget F.UCI_STS_LINK
  if st = 1 || st = 3 then s
  else if m = 0 then ((s.fset F.UCI_STS_LINK 3).fset F.UCI_STS_MODULES 0).hostDown
  else
    let s := (s.fset F.UCI_STS_LINK 1).fset F.UCI_STS_MODULES m
    if st = 2 then ((s.getLink hostLink).unacked.foldl (fun s f => s.emitFlit hostLink f) s).drainLink hostLink
    else
      let l := s.getLink hostLink
      (s.setLink hostLink { l with credits := [0, 2, 4].foldl (fun t b => tset (fun _ => 0) t b (bufSize hostLink b)) [], rxExp := 0, txNext := 0, unacked := [], viol := 0 }).drainLink
        hostLink

end Sys2Proof.Machine
end

