-- ==== Sys2Proof/Machine/Video.lean ====
section
/-! DEFINITION. Which coded pictures of a stream a sample takes, decodes and outputs, and the data errors that they meet (R194, R195, R197, R199, R206,
R211). -/
namespace Sys2Proof.Machine

open Config (Coded Parsed)

/-- R195: the kind of picture at which a decode of a codec may start. -/
def startOk (codec : Nat) (k : Config.Start) : Bool :=
  match codec, k with
  | 0, .sequenceI | 1, .idr | 1, .recovery | 2, .irap | 3, .shownKey => true
  | _, _ => false

/-- R194: the profile, level, chroma format and bit depth of a picture are among those that the engine accepts. -/
def accepted (codec : Nat) (c : Coded) : Bool :=
  match codec with
  | 0 => c.profile = .main && c.level ≤ 4 && c.chroma = 1 && c.depth = 8
  | 1 => [.constrainedBaseline, .main, .high].contains c.profile && c.level ≤ 52 && c.chroma ≤ 1 && c.depth = 8
  | 2 => ((c.profile = .main && c.depth = 8) || (c.profile = .main10 && 8 ≤ c.depth && c.depth ≤ 10)) && c.level ≤ 51 && c.chroma = 1
  | 3 => c.profile = .main && c.level ≤ 51 && c.chroma ≤ 1 && (c.depth = 8 || c.depth = 10)
  | _ => false

/-- The output pictures: those with a place from the random-access picture's on (leading pictures are never output), in output order, as far as
their places are final. -/
def outputs (p : Parsed) (ended : Bool) : List (Nat × Nat) :=
  let first := (p.pics.head?.bind (·.place)).getD 0
  let shown := p.pics.zipIdx.filterMap fun c => c.1.place.bind fun k => if first ≤ k && (ended || k < p.final) then some (k, c.2) else none
  shown.mergeSort fun a b => a.1 ≤ b.1

/-- Field pictures are paired into frames in output order (R199); a field that may still find its partner makes no frame yet. -/
def pairFields (field : Nat → Option Bool) (ended : Bool) : List Nat → List (List Nat)
  | [] => []
  | [a] => if (field a).isSome && !ended then [] else [[a]]
  | a :: b :: rest =>
    if (field a).isSome && (field b).isSome && field a ≠ field b then [a, b] :: pairFields field ended rest
    else [a] :: pairFields field ended (b :: rest)

/-- The coded picture of a number. -/
def codedAt (p : Parsed) (i : Nat) : Coded := p.pics.getD i default

/-- The frames of a stream in output order, each the coded pictures that it consists of. -/
def framesOf (codec : Nat) (p : Parsed) (ended : Bool) : List (List Nat) :=
  let out := (outputs p ended).map (·.2)
  if codec = 0 || codec = 2 then pairFields (fun i => (codedAt p i).field) ended out else out.map ([·])

/-- Pictures with all that they reference, directly or indirectly (R197): references go back in decode order. -/
def withRefs (p : Parsed) (sel : List Nat) : List Nat :=
  let add (set : List Nat) (i : Nat) : List Nat := if set.contains i then (codedAt p i).refs.filterMap id ++ set else set
  ((List.range p.pics.length).reverse.foldl add sel).eraseDups

/-- The data error that decoding a picture meets (R211), in a sample that takes monochrome pictures or not. -/
def pictureFault (codec : Nat) (mono : Bool) (c : Coded) : Option Nat :=
  if c.broken then some 0x30
  else if !accepted codec c || (c.chroma = 0 && !mono) then some 0x31
  else if c.width > 4096 || c.height > 2304 then some 0x32
  else if c.refs.any (·.isNone) then some 0x34
  else none

/-- The data error of the access units so far, for a sample that decodes a set of pictures: the first picture's in decode order. -/
def parseFault (codec : Nat) (mono : Bool) (p : Parsed) (set : List Nat) : Option Nat :=
  if p.broken || p.pics.head?.any (fun c => !startOk codec c.start) then some 0x30
  else (List.range p.pics.length).findSome? fun i => if set.contains i then pictureFault codec mono (codedAt p i) else none

/-- R206: bytes of work area that a picture's stream needs. -/
def workNeeded (codec : Nat) (c : Coded) : Nat :=
  let d := if codec = 3 then 8 else if codec = 0 then 2 else c.refBuf
  let up (n : Nat) : Nat := (n + 63) / 64 * 64
  (d + 2) * (up c.codedW * up c.codedH * 3 / 2 * (if c.depth = 8 then 1 else 2)) + 8 * 2 ^ 20

end Sys2Proof.Machine
end

