-- ==== Sys2Proof/Machine/Ingest.lean ====
section
/-! DEFINITION. The ingest engine (08_ingest_engine): the shuffle, streams and access units, geometry, colour, tokens, and the commands
IX_SAMPLE and IX_SHUFFLE. What the codecs decode is the codec standards' (R194) and enters as opaque constants of Config; which pictures of it a
sample takes is in Video. -/
namespace Sys2Proof.Machine

/-! ### The shuffle (R207, R208) -/

/-- The shuffle registers as a command uses them: a replayed run takes them from its header (R278). -/
structure Shuf where
  n       : Nat
  key     : Nat
  seed    : Nat
  step0   : Nat
  members : Nat
  rank    : Nat
  batch   : Nat
deriving DecidableEq, Repr

def State.shufWord (s : State) (stepped : Bool) (i : Nat) : Nat :=
  if stepped && s.pos.run ≠ 0 then s.run.hdr.shuf.getD i 0 else s.rd (R.IXE_SHUF_N + 4 * i)

/-- The registers' ten words as one value. -/
def Shuf.ofWords (f : Nat → Nat) : Shuf :=
  { n := (f 0 + f 1 * 2 ^ 32) % 2 ^ 48, key := f 2 + f 3 * 2 ^ 32, seed := f 4, step0 := f 5 + f 6 * 2 ^ 32, members := f 7 % 2 ^ 19,
    rank := f 8 % 2 ^ 18, batch := f 9 % 2 ^ 16 }

def State.shuf (s : State) (stepped : Bool) : Shuf := .ofWords (s.shufWord stepped)

/-- The shuffle as a command found it when it started (R212). -/
def Flight.shuffle (f : Flight) : Shuf := .ofWords fun i => f.shuf.getD i 0

/-- E, the steps of an epoch; 0 where D × B is 0 or above N. -/
def Shuf.epochLen (x : Shuf) : Nat := x.n / (x.members * x.batch)

/-- The smallest even n ≥ 2 with 2^n ≥ N, halved. -/
def Shuf.half (x : Shuf) : Nat := max 1 ((bitLen (x.n - 1) + 1) / 2)

/-- One round of the Feistel network. -/
def Shuf.round (x : Shuf) (e : Nat) (lr : Nat × Nat) (i : Nat) : Nat × Nat :=
  let c := x.seed * 2 ^ 96 + i * 2 ^ 92 + e % 2 ^ 28 * 2 ^ 64 + lr.2
  (lr.2, lr.1 ^^^ (generator c x.key % 2 ^ x.half))

def Shuf.perm (x : Shuf) (e v : Nat) : Nat :=
  let (l, r) := (List.range 8).foldl (x.round e) (v / 2 ^ x.half, v % 2 ^ x.half)
  l * 2 ^ x.half + r

/-- Cycle walking: perm again while the value is not below N. The walk ends within the cycle of its start, so 2^n turns suffice. -/
def Shuf.walk (x : Shuf) (e : Nat) : Nat → Nat → Nat
  | 0, y => y
  | k + 1, y => if x.n ≤ y then x.walk e k (x.perm e y) else y

def Shuf.permuted (x : Shuf) (e q : Nat) : Nat := x.walk e (2 ^ (2 * x.half)) (x.perm e q)

/-- The permutation is defined for a step (R207). -/
def Shuf.defined (x : Shuf) (step : Nat) : Bool := x.epochLen ≠ 0 && x.step0 % 2 ^ 48 ≤ step

/-- The sample that this member takes at local index j in a step. -/
def Shuf.sample (x : Shuf) (step j : Nat) : Nat :=
  let d := step - x.step0 % 2 ^ 48
  x.permuted (d / x.epochLen) ((d % x.epochLen * x.members + x.rank) * x.batch + j)

/-! ### The descriptor (R196) -/

structure Ix where
  sample  : Nat
  forStep : Nat
  stream  : Nat
  status  : Nat
  rap     : Nat
  tokOff  : Nat
  j       : Nat
  cropX   : Nat
  cropY   : Nat
  cropW   : Nat
  cropH   : Nat
  outW    : Nat
  outH    : Nat
  stride  : Nat
  frames  : Nat
  slot    : Nat
  ofmt    : Nat
  dkey    : Nat
  colour  : Nat
  range   : Nat
  ilace   : Nat
  patch   : Nat
  tpatch  : Nat
  norm    : Nat
  fill    : Bool
  dual    : Bool
  check   : Bool
deriving DecidableEq, Repr

def ixOf (w : RecWord) : Ix :=
  let f := fieldOf w
  { sample := f 511 464, forStep := f 463 416, stream := f 415 374 * 64, status := f 373 332 * 64, rap := f 331 300, tokOff := f 299 276, j := f 275 260,
    cropX := f 259 247, cropY := f 246 234, cropW := f 233 221, cropH := f 220 208, outW := f 207 195, outH := f 194 182, stride := f 181 174,
    frames := f 173 168 + 1, slot := f 167 164, ofmt := f 163 160, dkey := f 159 152, colour := f 151 149, range := f 148 147, ilace := f 146 144,
    patch := f 143 142, tpatch := f 141 140, norm := f 139 137, fill := f 136 136 = 1, dual := f 135 135 = 1, check := f 134 134 = 1 }

def Ix.side (x : Ix) : Nat := match x.patch with | 0 => 8 | 1 => 14 | 2 => 16 | _ => 32
def Ix.group (x : Ix) : Nat := match x.tpatch with | 0 => 1 | 1 => 2 | _ => 4
def Ix.channels (x : Ix) : Nat := if x.colour = 4 then 1 else 3

/-- Elements of a token, tokens of a frame group, tokens of the sample, bytes from one token's row to the next (R202). -/
def Ix.tokLen (x : Ix) : Nat := x.group * x.side * x.side * x.channels
def Ix.groupTokens (x : Ix) : Nat := x.outH / x.side * (x.outW / x.side)
def Ix.tokens (x : Ix) : Nat := x.frames / x.group * x.groupTokens
def Ix.pitch (x : Ix) : Nat := up64 (2 * x.tokLen)

/-- The slot's first byte, and its size in bytes; 0 for a disabled slot (R212). -/
def State.slotBase (s : State) (i : Nat) : Nat := s.fget (F.IXE_SLOT_BASE_BASE.nth i 8) * mib
def State.slotSize (s : State) (i : Nat) : Nat := if s.flag (F.IXE_SLOT_BASE_EN.nth i 8) then s.fget (F.IXE_SLOT_SIZE_SIZE.nth i 8) * mib else 0

/-- The sample is decoded on two cores. -/
def State.ixDual (s : State) (x : Ix) : Bool := x.dual || s.flag F.IXE_CFG_DUAL_FORCE

/-! ### Streams (R192, R193) -/

structure Stream where
  salt  : Nat
  id    : Nat
  cfgLen : Nat
  cfg   : Nat
  data  : Nat
  index : Nat
  count : Nat
  enc   : Bool
  codec : Nat
  resv  : Bool
deriving DecidableEq, Repr

def streamOf (n : Nat) : Stream :=
  { salt := bits n 415 384, id := bits n 383 320, cfgLen := bits n 287 256, cfg := bits n 239 192, data := bits n 175 128, index := bits n 111 64,
    count := bits n 63 32, enc := bit n 8, codec := bits n 3 0,
    resv := bits n 511 416 ≠ 0 || bits n 319 288 ≠ 0 || bits n 255 240 ≠ 0 || bits n 191 176 ≠ 0 || bits n 127 112 ≠ 0 || bits n 31 9 ≠ 0 || bits n 7 4 ≠ 0 }

/-- The key of a sample key slot that belongs to a context (R210, R401). -/
def State.sampleKey (s : State) (ctx slot : Nat) : Option (List Byte) :=
  match tget (fun _ => (none : Option Slot)) s.slots slot with
  | some k => if k.purpose = 2 && k.owner = ctx then some k.key else none
  | none => none

/-- The window of the slots: all of stacked memory, since a slot is named by a register and no address of the record (R196). -/
def openWindow (c : Ctx) : Ctx := { c with winBase := 0, winLimit := 0x5FFFF }

/-! ### The checks of R211 -/

/-- Memory at an address can be read for the checks of a record: its address stands the check of R97, and no fence or uncorrected block hides
it. -/
def State.seen (s : State) (c : Ctx) (a n : Nat) : Bool := s.rangeDetail c a n = 0 && (s.barred [(a, n)]).isNone && !s.rangeUnreadable a n

/-- R211's refusals. Those that need the stream header, or the index entry RAP, are found where it can be read. -/
def ixFieldDetail (s : State) (ctx : Nat) (x : Ix) (w : RecWord) : Nat :=
  let c := s.getC ctx
  let st := streamOf (s.num x.stream 64)
  let sh := s.shuf c.stepped
  let header := s.seen c x.stream 64
  let entry := header && s.seen c (st.index + 16 * x.rap) 16
  let aligned (n : Nat) : Bool := 1 ≤ n && n ≤ 4096 && n % x.side = 0
  lowest [
    (0x01, x.ofmt ≠ 4 && x.ofmt ≠ 5),
    (0x04, x.cropW = 0 || x.cropW > 4096 || x.cropH = 0 || x.cropH > 2304 || !aligned x.outW || !aligned x.outH || x.stride = 0 || x.frames % x.group ≠ 0),
    (0x0F, !recHeaderOk w || !reservedZero w [(133, 128)] || (header && st.resv)),
    (0x20, x.tpatch = 3 || x.colour > 5 || x.range = 3 || x.ilace > 4),
    (0x21, s.slotSize x.slot < (x.tokOff + x.tokens) * x.pitch),
    (0x22, header && st.enc && (s.sampleKey ctx x.dkey).isNone),
    (0x23, header && (st.codec > 3 || st.count = 0 || st.count = 0xFFFFFFFF || st.cfgLen > 65536 || st.count ≤ x.rap)),
    (0x24, entry && !bit (s.num (st.index + 16 * x.rap) 16) 48),
    (0x25, sh.batch ≤ x.j || (x.check && (!s.flag F.IXE_CFG_SHUF_EN || !sh.defined x.forStep)))]

/-- IX_SHUFFLE: DST, FIRST, COUNT. -/
def shuffleDst (w : RecWord) : Nat := fieldOf w 463 422 * 64
def shuffleFirst (w : RecWord) : Nat := fieldOf w 421 406
def shuffleCount (w : RecWord) : Nat := fieldOf w 405 390

/-- The INVALID_FIELD detail of an ingest record (R211). -/
def State.ixDetail (s : State) (ctx : Nat) (w : RecWord) : Nat :=
  if recOpcode w = 0x50 then ixFieldDetail s ctx (ixOf w) w
  else if recOpcode w = 0x51 then
    let sh := s.shuf (s.getC ctx).stepped
    lowest [
      (0x04, shuffleCount w = 0),
      (0x0F, !recHeaderOk w || !reservedZero w [(389, 128)]),
      (0x25, sh.batch < shuffleFirst w + shuffleCount w || !sh.defined (fieldOf w 511 464))]
  else 0x0E

/-- The address-error detail of an ingest record: its stream header, status record, slot or output array (R97, R196). -/
def State.ixAddress (s : State) (c : Ctx) (w : RecWord) : Nat :=
  let rs : List Nat :=
    if recOpcode w = 0x50 then
      let x := ixOf w
      [s.rangeDetail c x.stream 64, if x.status = 0 then 0 else s.rangeDetail c x.status 16,
       s.rangeDetail (openWindow c) (s.slotBase x.slot + x.tokOff * x.pitch) (x.tokens * x.pitch)]
    else [s.rangeDetail c (shuffleDst w) (8 * shuffleCount w)]
  lowest (rs.map fun d => (d, true))

/-- R207: SAMPLE_ID differs from the shuffle's sample. -/
def State.ixMismatch (s : State) (ctx : Nat) (w : RecWord) : Bool :=
  let x := ixOf w
  recOpcode w = 0x50 && x.check && (s.shuf (s.getC ctx).stepped).sample x.forStep x.j ≠ x.sample

/-! ### Reading access units (R193, R197, R210) -/

/-- What has been read of a sample: the access units, whether some read met an uncorrectable block, whether the index has ended, and what ended the
sample: a detail of R211, or the response and detail of an access that was refused. -/
structure IxRead where
  blob   : List Byte
  aus    : List (List Byte)
  unc    : Bool
  ended  : Bool
  err    : Option Nat
  barred : Option (Nat × Nat)
deriving DecidableEq, Repr

def IxRead.over (r : IxRead) : Bool := r.err.isSome || r.barred.isSome

/-- Bytes of the stream that a command reads under its context's window (R97, R211 0x40). -/
def State.ixBytes (s : State) (c : Ctx) (r : IxRead) (a n : Nat) : State × List Byte × IxRead :=
  if s.rangeDetail c a n ≠ 0 then (s, [], { r with err := some 0x40 })
  else
    match s.barred [(a, n)] with
    | some b => (s, [], { r with barred := some b })
    | none =>
      let (s, bs, u) := s.readAs a n
      (s, bs, { r with unc := r.unc || u })

/-- R210: the bytes in the clear, none where the tag fails. -/
def openUnit (key : Option (List Byte)) (st : Stream) (i : Nat) (bs : List Byte) : Option (List Byte) :=
  if st.enc then
    Config.gcmOpen (key.getD []) (BitVec.ofNat 96 (st.salt * 2 ^ 64 + i)) (leBytes 8 st.id ++ leBytes 8 i) bs
  else some bs

/-- Reads access unit k: its index entry, its bytes, its tag. -/
def State.ixUnit (s : State) (c : Ctx) (key : Option (List Byte)) (st : Stream) (r : IxRead) (k : Nat) : State × IxRead :=
  let (s, e, r) := s.ixBytes c r (st.index + 16 * k) 16
  if r.over then (s, r)
  else
    let len := bits (leNat e) 95 64
    if len = 0 || len > 67108864 then (s, { r with err := some 0x36 })
    else
      let (s, bs, r) := s.ixBytes c r (st.data + bits (leNat e) 39 0) len
      if r.over then (s, r)
      else
        match openUnit key st k bs with
        | some au => (s, { r with aus := r.aus ++ [au] })
        | none => (s, { r with err := some 0x35 })

/-! ### Pictures (R195, R197, R199) -/

/-- Under field output and bob, each picture in output order counts as two positions (R197, R199). -/
def Ix.fields (x : Ix) : Bool := 1 ≤ x.ilace && x.ilace ≤ 4

/-- The frame, in output order, of output frame i, and its field's parity. -/
def Ix.picture (x : Ix) (i : Nat) : Nat := if x.fields then i * x.stride / 2 else i * x.stride
def Ix.parity (x : Ix) (i : Nat) : Nat := if x.fields then (i * x.stride + (if x.ilace = 2 || x.ilace = 4 then 1 else 0)) % 2 else 0

def IxRead.parsed (r : IxRead) (codec : Nat) : Config.Parsed := Config.parse codec r.blob r.aus

/-- The coded pictures that output frame i takes: those of its frame, of a pair of fields only the field of its parity. None while the frame's place is
not final. -/
def IxRead.picks (r : IxRead) (codec : Nat) (x : Ix) (i : Nat) : Option (List Nat) :=
  let p := r.parsed codec
  ((framesOf codec p r.ended)[x.picture i]?).map fun m =>
    if x.fields && m.length = 2 then m.filter fun k => (codedAt p k).field = some (x.parity i == 1) else m

/-- The coded pictures that a sample decodes, as far as its positions are known (R197). -/
def IxRead.decodes (r : IxRead) (codec : Nat) (x : Ix) : List Nat :=
  withRefs (r.parsed codec) ((List.range x.frames).flatMap fun i => (r.picks codec x i).getD [])

/-- The data error that the access units so far give a sample. -/
def IxRead.fault (r : IxRead) (codec : Nat) (x : Ix) : Option Nat := parseFault codec (x.colour = 4) (r.parsed codec) (r.decodes codec x)

/-- Output frame i is complete: its place is final, and nothing that it is decoded from meets a data error. -/
def IxRead.complete (r : IxRead) (codec : Nat) (x : Ix) (i : Nat) : Bool :=
  match r.picks codec x i with
  | some m => (withRefs (r.parsed codec) m).all fun k => (pictureFault codec (x.colour = 4) (codedAt (r.parsed codec) k)).isNone
  | none => false

/-- Pictures decoded (R203): those of the sample's that met no data error. -/
def IxRead.decoded (r : IxRead) (codec : Nat) (x : Ix) : Nat :=
  ((r.decodes codec x).filter fun k => (pictureFault codec (x.colour = 4) (codedAt (r.parsed codec) k)).isNone).length

/-- Reads and decodes access units from the random-access point until every selected position is complete or an error ends it (R197, R206). -/
def State.ixUnits (s : State) (c : Ctx) (key : Option (List Byte)) (st : Stream) (x : Ix) : Nat → Nat → IxRead → State × IxRead
  | 0, _, r => (s, { r with err := some 0x33 })
  | n + 1, k, r =>
    let (s, r) := s.ixUnit c key st r k
    if r.over then (s, r)
    else
      let r := { r with ended := n = 0 }
      if (r.parsed st.codec).pics.any fun c => s.fget F.IXE_WORK_SIZE_SIZE * mib < workNeeded st.codec c then (s, { r with err := some 0x41 })
      else
        match r.fault st.codec x with
        | some d => (s, { r with err := some d })
        | none => if (List.range x.frames).all (r.complete st.codec x) then (s, r) else State.ixUnits s c key st x n (k + 1) r

/-- One output frame's source: the decoded samples and the picture's shape. -/
structure Pic where
  width  : Nat
  height : Nat
  depth  : Nat
  full   : Bool
  matrix : Nat
  sample : Nat → Nat → Nat → Nat

/-- The picture that coded pictures make: one frame, or the two fields of one. The lines of a field that has no partner are the device's. -/
def picOf (codec : Nat) (r : IxRead) (m : List Nat) (frame : List Nat) : Pic :=
  let p := r.parsed codec
  let c := codedAt p (m.headD 0)
  let fields := c.field.isSome
  let value (k plane row col : Nat) : Nat := Config.decodedSample codec r.blob r.aus k plane row col % 2 ^ c.depth
  { width := c.width, height := if fields then 2 * c.height else c.height, depth := c.depth, full := c.full, matrix := c.matrix,
    sample := fun plane row col =>
      if fields then
        match frame.find? fun k => (codedAt p k).field = some (row % 2 == 1) with
        | some k => value k plane (row / 2) col
        | none => value p.pics.length plane row col
      else value (m.headD 0) plane row col }

/-- The source of output frame i. -/
def IxRead.pic (r : IxRead) (codec : Nat) (x : Ix) (i : Nat) : Pic :=
  picOf codec r ((r.picks codec x i).getD []) ((framesOf codec (r.parsed codec) r.ended).getD (x.picture i) [])

/-- The crop of an output frame lies outside the display picture (R198, R199). -/
def Ix.picFault (x : Ix) (p : Pic) (i : Nat) : Option Nat :=
  let h := if x.ilace = 1 || x.ilace = 2 then (p.height + 1 - x.parity i) / 2 else p.height
  if x.cropX + x.cropW > p.width || x.cropY + x.cropH > h then some 0x32 else none

/-- R198: the source position of an output coordinate, in 2^−16 sample. -/
def lumaPos (crop len out v : Nat) : Int := (crop * 65536 + (2 * v + 1) * len * 65536 / (2 * out) : Nat) - 32768

def clampTo (i : Int) (n : Nat) : Nat := (max 0 (min i (n - 1))).toNat

/-- Bilinear interpolation in exact integers between rows and columns of a plane of w by h samples. -/
def bilinear (at' : Nat → Nat → Nat) (w h : Nat) (ph pv : Int) : Nat :=
  let i := ph / 65536
  let f := (ph % 65536).toNat
  let j := pv / 65536
  let g := (pv % 65536).toNat
  let row (r : Nat) : Nat := (at' r (clampTo i w) * (65536 - f) + at' r (clampTo (i + 1) w) * f + 128) / 256
  (row (clampTo j h) * (65536 - g) + row (clampTo (j + 1) h) * g + 32768) / 65536

/-- The exact value of a plane at an output pixel (R198, R199). -/
def Ix.planeValue (x : Ix) (p : Pic) (i plane col row : Nat) : Val :=
  let q := x.parity i
  let pl := lumaPos x.cropX x.cropW x.outW col
  let pv := lumaPos x.cropY x.cropH x.outH row
  let pv := if x.ilace = 3 || x.ilace = 4 then (pv - q * 65536) / 2 else pv
  let (w, h) := if plane = 0 then (p.width, p.height) else ((p.width + 1) / 2, (p.height + 1) / 2)
  let h := if x.fields then (h + 1 - q) / 2 else h
  let at' (r c : Nat) : Nat := p.sample plane (if x.fields then 2 * r + q else r) c
  let v := if plane = 0 then bilinear at' w h pl pv else bilinear at' w h (pl / 2) (pv / 2 - 16384)
  .fin false v (-8)

/-- A binary32 constant nearest to num / den. -/
def ratio (num den : Nat) : Val := roundQuot false num den 0

/-- kr, kgb, kgr, kb of a matrix (R200). -/
def colourRow (m : Nat) : Val × Val × Val × Val :=
  match m with
  | 2 => (ratio 1402 1000, ratio 344136 1000000, ratio 714136 1000000, ratio 1772 1000)
  | 3 => (ratio 14746 10000, ratio 164553 1000000, ratio 571353 1000000, ratio 18814 10000)
  | _ => (ratio 15748 10000, ratio 187324 1000000, ratio 468124 1000000, ratio 18556 10000)

/-- The channels of an output pixel (R200): each operation one binary32 operation. -/
def Ix.pixel (x : Ix) (p : Pic) (i col row : Nat) : List Val :=
  let full := x.range = 1 || (x.range = 2 && p.full)
  let k := 2 ^ (p.depth - 8)
  let nat (n : Nat) : Val := .fin false n 0
  let oy := if full then nat 0 else nat (16 * k)
  let sy := if full then ratio 1 (2 ^ p.depth - 1) else ratio 1 (219 * k)
  let oc := if full then nat (2 ^ (p.depth - 1)) else nat (128 * k)
  let sc := if full then ratio 1 (2 ^ p.depth - 1) else ratio 1 (224 * k)
  let y := fMul (fSub (x.planeValue p i 0 col row) oy) sy
  if x.colour = 4 then [y]
  else
    let cb := fMul (fSub (x.planeValue p i 1 col row) oc) sc
    let cr := fMul (fSub (x.planeValue p i 2 col row) oc) sc
    if x.colour = 0 then [y, cb, cr]
    else
      let m := if x.colour = 5 then (if p.matrix = 5 || p.matrix = 6 then 2 else if p.matrix = 9 then 3 else 1) else x.colour
      let (kr, kgb, kgr, kb) := colourRow m
      [fAdd y (fMul kr cr), fSub (fSub y (fMul kgb cb)) (fMul kgr cr), fAdd y (fMul kb cb)]

/-- R201: profile p of the normalisation registers. -/
def State.ixNorm (s : State) (p : Nat) (ch : List Val) : List Val :=
  if p = 0 then ch
  else ch.zipIdx.map fun v =>
    let k := R.IXE_NORM1_MEAN + 0x20 * (p - 1) + 4 * v.2
    fMul (fSub v.1 (ofF32 (s.rd k))) (ofF32 (s.rd (k + 12)))

/-- The values of token n of frame group g, in the element order of R202. -/
def State.ixToken (s : State) (x : Ix) (pic : Nat → Pic) (g n : Nat) : List Val :=
  let px := n % (x.outW / x.side) * x.side
  let py := n / (x.outW / x.side) * x.side
  (List.range x.group).flatMap fun t => (List.range x.side).flatMap fun y => (List.range x.side).flatMap fun c =>
    s.ixNorm x.norm (x.pixel (pic (g * x.group + t)) (g * x.group + t) (px + c) (py + y))

/-! ### IX_SAMPLE -/

/-- R213: what the ledger holds of a sample; the layout of its 64 bytes is the model's. -/
def ingestRecord (x : Ix) (st : Stream) (shuf : List Nat) : List Byte :=
  padTo 64 (leBytes 8 x.sample ++ leBytes 8 st.id ++ leBytes 2 x.j ++ leBytes 1 x.slot ++ leBytes 3 x.tokOff ++
    (List.range 10).flatMap fun i => leBytes 4 (shuf.getD i 0))

/-- Flips that a core's fault makes in its output. -/
def flipBytes (flips : List CoreFlip) (second : Bool) (first : Nat) (bs : List Byte) : List Byte :=
  flips.foldl (fun bs f =>
    if f.second = second && first ≤ f.byte && f.byte < first + bs.length then bs.modify (f.byte - first) (· ^^^ BitVec.ofNat 8 f.mask) else bs) bs

/-- The physical decode cores of a record in flight (R204): the first, and the second of a sample decoded twice. -/
def Flight.core1 (f : Flight) : Nat := f.unit % 16
def Flight.core2 (f : Flight) : Nat := f.unit / 16 % 16

/-- Words of a decode core's own memory are read with flipped bits (R204, R177): they show in the event bits of IXE and in the core's history. The flag
says that one of them is uncorrected. -/
def State.coreErrors (s : State) (f : Flight) (es : List MemErr) : State × Bool :=
  es.foldl (fun (s, e) x =>
    match x with
    | .core flips =>
      let w := flips % 2 ^ 39
      let ue := (wordFix w).isNone
      if w = 0 then (s, e) else ((s.event 5 (if ue then 4 else 2)).unitEcc (decodeUnit f.core1) ue (wordSyndrome w), e || ue)
    | _ => (s, e)) (s, false)

/-- How a sample has ended: its reading, the data error that counts with the output frame at which it struck, and whether a configuration error
ended it. -/
structure IxEnd where
  read   : IxRead
  fault  : Option (Nat × Nat)
  config : Bool
deriving DecidableEq, Repr

/-- The first output frame that cannot be formed, and why: a crop outside its picture, or what ended the reading. -/
def IxRead.finish (r : IxRead) (codec : Nat) (x : Ix) : IxEnd :=
  let ready := if r.err.isNone then x.frames else ((List.range x.frames).takeWhile (r.complete codec x)).length
  let bad := (List.range ready).findSome? fun i => (x.picFault (r.pic codec x i) i).map fun d => (d, i)
  let config := bad.isNone && (r.err = some 0x40 || r.err = some 0x41)
  { read := r, fault := match bad with | some b => some b | none => r.err.map fun d => (d, ready), config := config }

/-- Frame groups whose tokens are decoded, and tokens that the command writes (R211). -/
def IxEnd.goodGroups (e : IxEnd) (x : Ix) : Nat := match e.fault with | some (_, i) => i / x.group | none => x.frames / x.group
def IxEnd.shown (e : IxEnd) (x : Ix) : Nat := if x.fill && !e.config then x.tokens else e.goodGroups x * x.groupTokens

/-- The values of token n, converted; none for a token that is filled with +0. -/
def State.ixConv (s : State) (x : Ix) (codec : Nat) (e : IxEnd) (n : Nat) : List Conv :=
  if n / x.groupTokens < e.goodGroups x then
    (s.ixToken x (e.read.pic codec x) (n / x.groupTokens) (n % x.groupTokens)).map fun v => convScalar (fmtD x.ofmt) false .nearest v
  else []

/-- The bytes of token n as a decode core gives them. -/
def ixBytesOf (x : Ix) (cv : List Conv) (flips : List CoreFlip) (second : Bool) (n : Nat) : List Byte :=
  flipBytes flips second (n * 2 * x.tokLen) (padTo (2 * x.tokLen) (cv.flatMap fun k => leBytes 2 k.bits))

/-- The tokens of a sample are written: conversions, tokens written, what became of the writes, and whether the two cores' outputs differ. After a write
that the guard, a fence or a retired page refuses nothing further is written. -/
def State.ixTokens (s : State) (f : Flight) (x : Ix) (codec : Nat) (e : IxEnd) (flips : List CoreFlip) : State × Tally × Nat × Wrote × Bool :=
  let base := s.slotBase x.slot + x.tokOff * x.pitch
  (List.range (e.shown x)).foldl (fun (s, t, k, wr, differ) n =>
    if wr.refused then (s, t, k, wr, differ)
    else
      let cv := s.ixConv x codec e n
      let bs := ixBytesOf x cv flips false n
      let (s, w) := s.writeAs f (base + n * x.pitch) bs
      (s, t.plus (Tally.ofConvs cv), if w.refused then k else k + 1, wr.worse w, differ || (s.ixDual x && bs ≠ ixBytesOf x cv flips true n)))
    (s, Tally.zero, 0, Wrote.ok, false)

/-- The sample status record of R203. -/
def ixStatus (zmask detail pics tokens : Nat) : List Byte := leBytes 16 (zmask * 2 ^ 64 + detail * 2 ^ 56 + min pics 0xFFFF * 2 ^ 32 + tokens)

/-- A sample retires with a response: its status record is written (R203), unless that is refused. -/
def State.ixRetire (s : State) (f : Flight) (x : Ix) (zmask data pics tokens resp detail : Nat) : State :=
  if x.status = 0 then s.finish f.rid resp detail
  else
    let (s, w) := s.writeAs f x.status (ixStatus zmask data pics tokens)
    if resp ≤ 1 || resp = 0x2A || resp = 0x28 then
      (if w = .ok then s.finish f.rid resp detail else s.finish f.rid w.resp (endDetail w))
    else s.finish f.rid resp detail

/-- A sample whose reading is over: its tokens, counts and response (R203, R204, R211). Its conversions count and are logged under STREAM 0x0 (DEDUCED: R43 gives
them none, and R158 writes 0x0 where there is none). -/
def State.ixEnd (s : State) (f : Flight) (x : Ix) (codec : Nat) (r : IxRead) (core : Bool) (flips : List CoreFlip) : State :=
  let e := r.finish codec x
  let pics := r.decoded codec x
  let (s, cs, tokens, wr, differ) := s.ixTokens f x codec e flips
  let s := s.countConvs f x.ofmt deviceEntry 0 cs
  let s := s.wr64 R.IXE_PICS ((s.rd64 R.IXE_PICS + pics) % 2 ^ 64)
  let data := e.fault.isSome && !e.config
  let detail := (e.fault.map (·.1)).getD 0
  let s := if data then (s.count R.IXE_ERR_CNT).event 5 1 else s
  let s := if detail = 0x35 then s.count R.IXE_AUTH_CNT else s
  let s := if differ then (s.unitEvent (decodeUnit f.core1) 5 0).unitEvent (decodeUnit f.core2) 5 0 else s
  let zmask := if x.fill && data then 2 ^ x.frames - 2 ^ (e.goodGroups x * x.group) else 0
  let resp := endResp (r.unc || core) false wr
  let (resp, d) :=
    if resp ≠ 0 then (resp, endDetail wr)
    else if e.config || (data && !x.fill) then (0x28, detail)
    else if differ then (0x2A, 0)
    else if data then (1, detail) else (0, 0)
  let s := if resp = 0x2A then s.count R.IXE_DUAL_CNT else s
  s.ixRetire f x zmask (if data then detail else 0) pics tokens resp d

/-- The work area of a decode core (R206). -/
def State.workArea (s : State) (core : Nat) : Nat × Nat :=
  let n := s.fget F.IXE_WORK_SIZE_SIZE * mib
  (s.fget F.IXE_WORK_BASE_BASE * mib + core * n, n)

/-- The sample of the record in flight (R197 to R204, R211): the ledger's record of it (R213), its stream header, its configuration blob, its access units. -/
def State.ixSample (s : State) (f : Flight) (errs : List MemErr) (flips : List CoreFlip) : State :=
  let x := ixOf f.word
  let c := s.getC f.ctx
  let (s, core) := (s.memErrors errs).coreErrors f errs
  match s.barred ((x.stream, 64) :: s.workArea f.core1 :: (if s.ixDual x then [s.workArea f.core2] else [])) with
  | some b => s.ixRetire f x 0 0 0 0 b.1 b.2
  | none =>
    let (s, hd, lost) := s.readAs x.stream 64
    let st := streamOf (leNat hd)
    if lost then (s.spoilRun f).ixRetire f x 0 0 0 0 0x15 0
    else if c.stepped && !s.ledgerFits 64 then s.ixRetire f x 0 0 0 0 0x30 0
    else
      let s := if c.stepped then { s with ledger := { s.ledger with ingest := s.ledger.ingest ++ [(f.step, ingestRecord x st f.shuf)] } } else s
      let key := s.sampleKey f.ctx x.dkey
      let r : IxRead := { blob := [], aus := [], unc := false, ended := false, err := none, barred := none }
      let (s, blob, r) := if st.cfgLen = 0 then (s, [], r) else s.ixBytes c r st.cfg st.cfgLen
      let (s, r) :=
        if r.over then (s, r)
        else
          match (if st.cfgLen = 0 then some [] else openUnit key st 0xFFFFFFFFFFFFFFFF blob) with
          | none => (s, { r with err := some 0x35 })
          | some b => s.ixUnits c key st x (st.count - x.rap) x.rap { r with blob := b }
      let s := if r.unc then s.spoilRun f else s
      match r.barred with
      | some b => s.ixRetire f x 0 0 (r.decoded st.codec x) 0 b.1 b.2
      | none => s.ixEnd f x st.codec r core flips

/-- IX_SAMPLE: the sample of the record in flight, with the memory errors met and the faults of its decode cores. -/
def execIxSample (rid : Nat) (errs : List MemErr) (flips : List CoreFlip) (s : State) : Host.Outcome State Fault Refusal :=
  .next (s.work rid (fun f => queueEngine f.queue = 13 && recOpcode f.word = 0x50) fun f s => s.ixSample f errs flips)

/-! ### IX_SHUFFLE (R209) -/

/-- One 64-bit value per local index. -/
def State.ixShuffle (s : State) (f : Flight) : State :=
  let w := f.word
  let sh := f.shuffle
  let out := (List.range (shuffleCount w)).flatMap fun i => leBytes 8 (sh.sample (fieldOf w 511 464) (shuffleFirst w + i))
  let (s, wr) := s.writeAs f (shuffleDst w) out
  s.finish f.rid (endResp false false wr) (endDetail wr)

/-- IX_SHUFFLE: the shuffle's samples for the record in flight. -/
def execIxShuffle (rid : Nat) (s : State) : Host.Outcome State Fault Refusal :=
  .next (s.work rid (fun f => queueEngine f.queue = 13 && recOpcode f.word = 0x51) fun f s => s.ixShuffle f)

end Sys2Proof.Machine
end

