-- ==== Sys2Proof/Machine/MemSys.lean ====
section
/-! DEFINITION. The commands of the memory system (07): depot modes, cacheable and state ranges (R160, R162, R164, R288, R332), the patrol scrub (R176), and
the training of pseudo-channels (R179 to R181). -/
namespace Sys2Proof.Machine

/-! ### Modes and ranges (R160, R162, R288) -/

/-- DEP_MODE_WRITE: DEP_MODE0 or DEP_MODE1. -/
def State.writeDepMode (s : State) (word data : Nat) : State :=
  ((s.wr (R.DEP_MODE + 4 * word) data).fset F.DEP_STS_MODE_PEND 1).applyHeld

def execDepModeWrite (word data : Nat) (s : State) : Host.Outcome State Fault Refusal := .next (if word < 2 then s.writeDepMode word data else s)

/-- The bits that a range register holds: EN in a BASE, and twenty bits of MiB. -/
def rangeWord (i data : Nat) : Nat := if i % 2 = 0 then bits data 31 31 * 2 ^ 31 + bits data 19 0 else bits data 19 0

/-- DEP_CR_WRITE: register 2i is DEP_CRi_BASE, 2i + 1 is DEP_CRi_LIMIT. -/
def State.writeDepCr (s : State) (reg data : Nat) : State :=
  ((s.wr (R.DEP_CR_BASE + 4 * reg) (rangeWord reg data)).fset F.DEP_STS_CR_PEND 1).applyHeld

def execDepCrWrite (reg data : Nat) (s : State) : Host.Outcome State Fault Refusal := .next (if reg < 16 then s.writeDepCr reg data else s)

/-- STATE_RANGE_WRITE: registers 0 to 15 are the state ranges', 16 to 23 the checkpoint source ranges'. -/
def State.writeStateRange (s : State) (reg data : Nat) : State :=
  (s.wr (if reg < 16 then R.LXE_SR_BASE + 4 * reg else R.LXE_CKPT_SRC_BASE + 4 * (reg - 16)) (rangeWord reg data)).applyHeld

def execStateRangeWrite (reg data : Nat) (s : State) : Host.Outcome State Fault Refusal := .next (if reg < 24 then s.writeStateRange reg data else s)

/-! ### The patrol scrub (R176, R180) -/

/-- A carriage's scrub begins a pass at the first block of its range: the events of its rows and pins are counted anew. -/
def State.scrubPass (s : State) (n : Nat) : State :=
  { s with mpart := { s.mpart with
      rowEvents := tclear s.mpart.rowEvents fun r => rowStack r / 2 = n, pinErrs := tclear s.mpart.pinErrs fun k => k / 8192 = n } }

/-- SCRUB: a block is read at class 0, after bits that have flipped; a corrected codeword is written back, which leaves every value. -/
def State.scrub (s : State) (addr : Nat) (errs : List MemErr) : State :=
  let b := addr / 128
  if !isStacked addr || s.fget (F.MEM_CFG_SCRUB_HOURS.stack (addrLoc (b * 128)).stack) = 0 then s
  else
    let s := if b * 128 % carSpan = 0 then s.scrubPass (addrCarriage addr) else s
    let (s, lost) := (s.memErrors errs).meetBlock b 1
    if lost then s else s.setSyms b []

def execScrub (addr : Nat) (errs : List MemErr) (s : State) : Host.Outcome State Fault Refusal := .next (s.scrub addr errs)

/-! ### Pseudo-channel training (R179 to R181, R187) -/

/-- A retraining of a pseudo-channel is requested, and runs at once where the device stands at a boundary. -/
def State.requestRetrain (s : State) (stack pch : Nat) (immediate : Bool) : State :=
  let k := pchKey stack pch
  ((s.setPch k (setBits (s.pchSts k) 0 0 1)).holdTest { kind := 1, target := stack * 256 + pch, immediate := immediate }).startTests

/-- MEM_RETRAIN: RETRAIN of MEM_TRAIN_CTL, for the pseudo-channel that MEM_PCH_SEL selects. -/
def State.memRetrain (s : State) (stack : Nat) : State := s.requestRetrain stack (s.fget (F.MEM_PCH_SEL_PCH.stack stack)) false

def execMemRetrain (_ : Agent) (stack : Nat) (s : State) : Host.Outcome State Fault Refusal :=
  .next (if stack < 8 then s.memRetrain stack else s)

/-- MEM_PCH_STS after a training in which these pins failed: two steered to the spares, two erasures, five are too many. -/
def pchTrained (pins : List Nat) : Nat :=
  let p (i : Nat) : Nat := pins.getD i 0x7F
  let state := if 5 ≤ pins.length then 4 else if 3 ≤ pins.length then 3 else 2
  state * 2 ^ 29 + p 0 * 2 ^ 22 + p 1 * 2 ^ 15 + p 2 * 2 ^ 8 + p 3 * 2

/-- The pins that a pseudo-channel steers or erases. -/
def pchPins (v : Nat) : List Nat := [bits v 28 22, bits v 21 15, bits v 14 8, bits v 7 1].filter (· ≠ 0x7F)

/-- PCH_TRAIN_COMPLETE: the pins that failed their margin, besides those steered or erased before. -/
def State.pchTrain (s : State) (stack pch : Nat) (failed : List Nat) : State :=
  let k := pchKey stack pch
  let old := pchPins (s.pchSts k)
  let new := (failed.filter fun p => p < 72 && !old.contains p).eraseDups
  let s := s.forAll new fun p s => s.noteUnit 5 (stack / 2) (stack * 65536 + pch * 256 + p) 0x08 p
  let v := pchTrained (old ++ new)
  let s := s.setPch k v
  let s := if v / 2 ^ 29 = 4 then s.memOut stack else s
  let mine := (match s.test.running with | some x => x.kind = 1 && x.target = stack * 256 + pch | none => false)
  if mine then ({ s with test := { s.test with running := none } } : State).startTests else s

def execPchTrainComplete (stack pch : Nat) (failed : List Nat) (s : State) : Host.Outcome State Fault Refusal :=
  .next (if stack < 8 && pch < 32 && bits (s.pchSts (pchKey stack pch)) 31 29 ≤ 1 then s.pchTrain stack pch failed else s)

end Sys2Proof.Machine
end

