-- ==== Sys2Proof/Machine/Move.lean ====
section
/-! DEFINITION. The move engine (04, R116 to R119): copies, gathers, scatters, the packing of chunks, fills. -/
namespace Sys2Proof.Machine

/-! ### Records (R117) with the substitution of R140 -/

structure MvRec where
  op       : Nat
  sFmt     : Nat
  dFmt     : Nat
  raw      : Bool
  chunked  : Bool
  sSpace   : Nat
  dSpace   : Nat
  iFmt     : Nat
  rows     : Nat
  rowLen   : Nat
  table    : Nat
  src      : Nat
  dst      : Nat
  sPitch   : Nat
  dPitch   : Nat
  idx      : Nat
  strict   : Bool
deriving DecidableEq, Repr

def mvOf (rung0 : Nat) (w : RecWord) : MvRec :=
  let op := recOpcode w
  let raw := bit w.toNat 168
  let rung := if (op = 0x30 || op = 0x31 || op = 0x35) && !raw then rung0 else 0
  let sf := fieldOf w 163 160
  let df := fieldOf w 167 164
  let scale (p f : Nat) : Nat := if substFmt rung f = f then p else p * codeSize (substFmt rung f) / codeSize f
  { op := op, sFmt := substFmt rung sf, dFmt := substFmt rung df, raw := raw && (op = 0x30 || op = 0x31 || op = 0x35), chunked := op = 0x30 && bit w.toNat 169,
    sSpace := fieldOf w 171 170, dSpace := fieldOf w 173 172, iFmt := fieldOf w 177 174, rows := fieldOf w 207 192, rowLen := fieldOf w 231 208,
    table := fieldOf w 255 232, src := fieldOf w 303 256, dst := fieldOf w 367 320,
    sPitch := if op = 0x35 then fieldOf w 415 384 else scale (fieldOf w 415 384) sf, dPitch := scale (fieldOf w 447 416) df,
    idx := fieldOf w 479 448, strict := bit w.toNat 144 || rung = 2 }

/-- One side of a move: its space code, matrix, whether the matrix counts bytes (RAW) and whether it is chunks. -/
structure Side where
  space : Nat
  mat   : Mat
  raw   : Bool
  chunk : Bool
deriving DecidableEq, Repr

def Side.rowLen (x : Side) : Nat := if x.raw then x.mat.cols else rowBytes x.mat.fmt x.mat.cols

/-- The byte ranges that a side uses, as far as they are known when the record is checked: of a table that is gathered from or scattered to all
TABLE_ROWS rows, of chunks the room that R78 reserves (DEDUCED: R116 checks the bytes that the command reads or writes, which the indices and the
LEN fields tell only while it runs). -/
def Side.ranges (x : Side) : List (Nat × Nat) :=
  if x.chunk then [(x.mat.base, x.mat.rows * ((x.mat.cols + 255) / 256) * 576)]
  else if x.raw then (List.range x.mat.rows).map fun r => (x.mat.base + r * x.mat.pitch, x.mat.cols)
  else (List.range x.mat.rows).flatMap x.mat.rowRanges

def MvRec.sideMat (base pitch rows cols fmt : Nat) : Mat := { base := base, rows := rows, cols := cols, pitch := pitch, fmt := fmtD fmt }

/-- The source (none for MV_FILL) and the destination. -/
def MvRec.source (m : MvRec) : Option Side :=
  if m.op = 0x35 then none
  else some { space := m.sSpace, mat := MvRec.sideMat m.src m.sPitch (if m.op = 0x31 then m.table else m.rows) m.rowLen m.sFmt, raw := m.raw,
              chunk := m.chunked || m.op = 0x34 }

def MvRec.dest (m : MvRec) : Side :=
  { space := m.dSpace, mat := MvRec.sideMat m.dst m.dPitch (if m.op = 0x32 then m.table else m.rows) m.rowLen m.dFmt, raw := m.raw,
    chunk := m.chunked || m.op = 0x33 }

/-- The index array (R117): carriage-local. -/
def MvRec.index (m : MvRec) : Option (Nat × Nat) :=
  if m.op = 0x31 || m.op = 0x32 then some (m.idx, m.rows * (if m.iFmt = 8 then 2 else 4)) else none

def MvRec.sides (m : MvRec) : List Side := m.source.toList ++ [m.dest]

/-- Two sides share a byte. -/
def sidesMeet (a b : Side) : Bool :=
  a.space = b.space && a.ranges.any fun x => b.ranges.any fun y => overlaps x.1 x.2 y.1 y.2

/-- Alignment of a side's address and pitch (R116, R78). -/
def Side.aligned (x : Side) : Bool :=
  let q := if x.space = 1 || x.chunk then 64 else if x.raw then 4 else x.mat.fmt.size
  x.mat.base % q = 0 && (x.chunk || x.mat.pitch % q = 0)

/-- R119 for the move engine, 0 for none. -/
def mvDetail (stepped : Bool) (m : MvRec) (w : RecWord) : Nat :=
  let used := if m.raw then [] else [m.sFmt, m.dFmt]
  let isInt (c : Nat) : Bool := match Fmt.ofCode c with | some f => f.isInt | none => false
  let d := m.dest
  let chunkFmt := (m.sFmt = 4 || m.sFmt = 5) && m.sFmt = m.dFmt
  let locals' := m.sides.filter (·.space = 1)
  lowest [
    (0x01, (used.any fun c => (Fmt.ofCode c).isNone) || ((used.any isInt) && !((m.op = 0x30 || m.op = 0x31) && m.sFmt = m.dFmt)) ||
      (m.op = 0x32 && (bit w.toNat 168 || m.sFmt ≠ 6 || m.dFmt ≠ 6))),
    (0x03, fieldOf w 143 142 = 3),
    (0x04, m.rows = 0 || m.rowLen = 0 || ((m.op = 0x31 || m.op = 0x32) && m.table = 0)),
    (0x05, (locals'.any fun x => x.ranges.any fun r => !localMapped r.1 r.2) || (match m.index with | some r => !localMapped r.1 r.2 | none => false)),
    (0x06, (!d.chunk && d.mat.pitch < d.rowLen) || (match m.source with | some x => sidesMeet x d | none => false) ||
      (match m.index with | some r => d.space = 1 && d.ranges.any fun x => overlaps x.1 x.2 r.1 r.2 | none => false)),
    (0x0F, !vxReserved w || !reservedZero w [(383, 368), (319, 304), (191, 178)]),
    (0x11, (m.sides.any fun x => !x.aligned) || (match m.index with | some r => r.1 % 64 ≠ 0 | none => false)),
    (0x12, m.sides.any fun x => x.space > 1),
    (0x13, m.index.isSome && m.iFmt ≠ 8 && m.iFmt ≠ 9),
    (0x14, (m.op = 0x33 || m.op = 0x34) && !chunkFmt),
    (0x16, !stepped && (!locals'.isEmpty || m.index.isSome))]

/-- The detail code of a move record (R119). -/
def State.mvDetail (s : State) (stepped : Bool) (w : RecWord) : Nat :=
  if 0x30 ≤ recOpcode w && recOpcode w ≤ 0x35 then Machine.mvDetail stepped (mvOf (s.rungNow (mxLayer w)) w) w else 0x0E

/-- The address-error detail of a move record's device addresses (R97, R116). -/
def State.mvAddress (s : State) (c : Ctx) (w : RecWord) : Nat :=
  (((mvOf (s.rungNow (mxLayer w)) w).sides.filter (·.space = 0)).flatMap Side.ranges).foldl (fun d r =>
    let e := s.rangeDetail c r.1 r.2
    if e = 0 then d else if d = 0 then e else min d e) 0

/-! ### Execution -/

def Side.spaceOf (x : Side) (f : Flight) : Space := if x.space = 1 then .carriage f.carriage else .device

/-- The device ranges of sides. -/
def deviceRanges (xs : List Side) : List (Nat × Nat) := xs.flatMap fun x => if x.space = 0 then x.ranges else []

/-- Row r's bytes and scale bytes. -/
def State.readSide (s : State) (f : Flight) (x : Side) (r : Nat) : State × List Byte × List Byte × Bool :=
  let sp := x.spaceOf f
  let m := x.mat
  if x.raw then
    let (s, bs, u) := s.readSpace sp (m.base + r * m.pitch) m.cols
    (s, bs, [], u)
  else
    let (s, bs, u1) := s.readSpace sp (m.base + r * m.pitch) (rowBytes m.fmt m.cols)
    let (s, ss, u2) := if m.fmt.isBlock then s.readSpace sp (m.scaleBase + r * up64 m.scales) m.scales else (s, [], false)
    (s, bs, ss, u1 || u2)

/-- The writes that put a row's bytes and scale bytes at row r. -/
def Side.rowWrites (x : Side) (r : Nat) (bs ss : List Byte) : List (Nat × List Byte) :=
  (x.mat.base + r * x.mat.pitch, bs) :: (if ss.isEmpty then [] else [(x.mat.scaleBase + r * up64 x.mat.scales, ss)])

/-- A row converted: bits where the formats are the same (R29, R35), else each value rounded once. -/
def moveRow (m : MvRec) (x : RndCtx) (r : Nat) (bs ss : List Byte) : List Byte × List Byte × List Conv :=
  if m.raw || m.sFmt = m.dFmt then (bs, ss, [])
  else
    let vs := decodeRow (fmtD m.sFmt) m.rowLen bs ss
    encodeRow (fmtD m.dFmt) m.strict (vs.zipIdx.map fun p => (p.1, rndElem x (r * m.rowLen + p.2)))

def zeroRow (m : MvRec) : List Byte × List Byte :=
  if m.raw then (List.replicate m.rowLen 0, [])
  else
    let (bs, ss, _) := encodeRow (fmtD m.dFmt) m.strict (List.replicate m.rowLen (Val.zero, Rnd.nearest))
    (bs, ss)

/-- Moves rows; src i names the source row of destination row i, none for a zero row. -/
def State.moveRows (s : State) (f : Flight) (m : MvRec) (srcSide : Side) (src : Nat → Option Nat) : State × List Conv × Bool × Wrote :=
  let x := vxRnd f 7
  let d := m.dest
  (List.range m.rows).foldl (fun (s, cs, unc, wr) i =>
    let (s, bs, ss, c, u) : State × List Byte × List Byte × List Conv × Bool :=
      match src i with
      | some r =>
        let (s, bs, ss, u) := s.readSide f srcSide r
        let (bs, ss, c) := moveRow m x i bs ss
        (s, bs, ss, c, u)
      | none => let (bs, ss) := zeroRow m; (s, bs, ss, [], false)
    let (s, w) := s.writeSpace f (d.spaceOf f) (d.rowWrites i bs ss)
    (s, cs ++ c, unc || u, wr.worse w)) (s, [], false, .ok)

/-- The indices of a gather or scatter (R118), none where one lies outside the table. -/
def State.readIndex (s : State) (f : Flight) (m : MvRec) : State × List (Option Nat) × Bool :=
  let n := if m.iFmt = 8 then 2 else 4
  let (s, bs, u) := s.readSpace (.carriage f.carriage) m.idx (m.rows * n)
  (s, (List.range m.rows).map fun i =>
    let v := leNat ((bs.drop (n * i)).take n)
    if v < m.table && (n = 2 || v < 2 ^ 31) then some v else none, u)

/-- Ends a move with its counts. -/
def State.endMove (s : State) (f : Flight) (m : MvRec) (cs : List Conv) (unc exc : Bool) (wr : Wrote) : State :=
  let s := if cs.isEmpty then s else s.countConvs f m.dFmt (mxLayer f.word) 7 (Tally.ofConvs cs)
  s.finish f.rid (endResp unc exc wr) (endDetail wr)

/-- Copies or decodes chunks one after another (R118); put says what to write for the chunk at an address from its bytes. -/
def State.eachChunk (s : State) (f : Flight) (sp sp' : Space) (n a : Nat) (put : Nat → List Byte → List (Nat × List Byte)) : State × Bool × Bool × Wrote :=
  let (s, unc, broken, wr, _) := (List.range n).foldl (fun (s, unc, broken, wr, a) _ =>
    if broken then (s, unc, broken, wr, a)
    else
      let (s, hd, u1) := s.readSpace sp a 8
      if !chunkHeaderOk (leNat hd) then (s, unc || u1, true, wr, a)
      else
        let n := up64 (bits (leNat hd) 15 0)
        let (s, bs, u2) := s.readSpace sp a n
        let (s, w) := s.writeSpace f sp' (put a bs)
        (s, unc || u1 || u2, false, wr.worse w, a + n)) (s, false, false, Wrote.ok, a)
  (s, unc, broken, wr)

/-- MV_COPY. -/
def State.mvCopy (s : State) (f : Flight) (errs : List MemErr) : State :=
  let m := mvOf (s.rungNow (mxLayer f.word)) f.word
  let s := s.memErrors errs
  match m.source with
  | none => s
  | some src =>
    if m.chunked then
      let (s, unc, broken, wr) := s.eachChunk f (src.spaceOf f) (m.dest.spaceOf f) (m.rows * ((m.rowLen + 255) / 256)) m.src fun a bs => [(m.dst + (a - m.src), bs)]
      if broken then s.finish f.rid 0x18 0 else s.endMove f m [] unc false wr
    else
      let (s, cs, unc, wr) := s.moveRows f m src some
      s.endMove f m cs unc false wr

/-- MV_GATHER. -/
def State.mvGather (s : State) (f : Flight) : State :=
  let m := mvOf (s.rungNow (mxLayer f.word)) f.word
  match m.source with
  | none => s
  | some src =>
    let (s, idx, u) := s.readIndex f m
    let (s, cs, unc, wr) := s.moveRows f m src fun i => (idx[i]?).join
    s.endMove f m cs (u || unc) (idx.any (·.isNone)) wr

/-- MV_SCATTER_ADD: rows in ascending order, each addition one binary32 operation. -/
def State.mvScatterAdd (s : State) (f : Flight) : State :=
  let m := mvOf 0 f.word
  match m.source with
  | none => s
  | some src =>
    let d := m.dest
    let (s, idx, u) := s.readIndex f m
    let (s, unc, wr) := idx.zipIdx.foldl (fun (s, unc, wr) p =>
      match p.1 with
      | none => (s, unc, wr)
      | some r =>
        let (s, xs, _, u1) := s.readSide f src p.2
        let (s, ys, _, u2) := s.readSide f d r
        let out := List.zipWith (fun y x => toF32 (fAdd y x)) (decodeRow .f32 m.rowLen ys []) (decodeRow .f32 m.rowLen xs [])
        let (s, w) := s.writeSpace f (d.spaceOf f) (d.rowWrites r (out.flatMap (leBytes 4)) [])
        (s, unc || u1 || u2, wr.worse w)) (s, u, Wrote.ok)
    s.endMove f m [] unc (idx.any (·.isNone)) wr

/-- What the coder writes for a row, with the coder's faults. -/
def codeRow (faults : List CodeFault) (row : Nat) (bs : List Byte) : List Byte :=
  (faults.filter (·.row = row)).foldl (fun bs x => flipByte x.byte x.bit bs) bs

/-- MV_PACK: the engine decodes what it writes and compares; a difference gives 0x15. -/
def State.mvPack (s : State) (f : Flight) (faults : List CodeFault) : State :=
  let m := mvOf 0 f.word
  match m.source with
  | none => s
  | some src =>
    let (s, unc, wr, _) := (List.range m.rows).foldl (fun (s, unc, wr, a) r =>
      let (s, bs, _, u) := s.readSide f src r
      let xs := (List.range m.rowLen).map fun i => leNat ((bs.drop (2 * i)).take 2)
      let out := codeRow faults r (rowChunks (if m.sFmt = 5 then 4 else 5) xs)
      let (s, w) := s.writeSpace f (m.dest.spaceOf f) [(a, out)]
      (s, unc || u || !chunksHold xs out, wr.worse w, a + out.length)) (s, false, Wrote.ok, m.dst)
    s.endMove f m [] unc false wr

/-- MV_UNPACK. -/
def State.mvUnpack (s : State) (f : Flight) : State :=
  let m := mvOf 0 f.word
  match m.source with
  | none => s
  | some src =>
    let d := m.dest
    let (s, unc, broken, wr, _) := (List.range m.rows).foldl (fun (s, unc, broken, wr, a) r =>
      if broken then (s, unc, broken, wr, a)
      else
        let (s, rows, u, b, a') := s.readChunks (src.spaceOf f) a 1 m.rowLen
        let (s, w) := s.writeSpace f (d.spaceOf f) (d.rowWrites r ((rows.headD []).flatMap (leBytes 2)) [])
        (s, unc || u, b, wr.worse w, a')) (s, false, false, Wrote.ok, m.src)
    if broken then s.finish f.rid 0x18 0 else s.endMove f m [] unc false wr

/-- MV_FILL. A value that is to be F32 is its own bits (R29, R35). -/
def State.mvFill (s : State) (f : Flight) : State :=
  let m := mvOf (s.rungNow (mxLayer f.word)) f.word
  let x := vxRnd f 7
  let d := m.dest
  let pattern := leBytes 4 m.sPitch
  let v := ofF32 m.sPitch
  let (s, cs, wr) := (List.range m.rows).foldl (fun (s, cs, wr) r =>
    let (bs, ss, c) :=
      if m.raw || m.dFmt = 6 then ((List.range (if m.raw then m.rowLen else 4 * m.rowLen)).map fun j => pattern.getD (j % 4) 0, [], [])
      else encodeRow (fmtD m.dFmt) m.strict ((List.range m.rowLen).map fun j => (v, rndElem x (r * m.rowLen + j)))
    let (s, w) := s.writeSpace f (d.spaceOf f) (d.rowWrites r bs ss)
    (s, cs ++ c, wr.worse w)) (s, [], Wrote.ok)
  s.endMove f m cs false false wr

/-- Runs a move unless one of its addresses meets a fenced domain (R123). -/
def State.moveWork (s : State) (rid op : Nat) (g : Flight → State → State) : State :=
  s.work rid (·.onUnit 2 op) fun f s =>
    s.ifOpen f (deviceRanges (mvOf (s.rungNow (mxLayer f.word)) f.word).sides) (g f)

/-- MV_COPY: the copy of the record in flight, with the memory errors met on the way. -/
def execMvCopy (rid : Nat) (errs : List MemErr) (s : State) : Host.Outcome State Fault Refusal := .next (s.moveWork rid 0x30 fun f s => s.mvCopy f errs)

/-- MV_GATHER: the gather of the record in flight. -/
def execMvGather (rid : Nat) (s : State) : Host.Outcome State Fault Refusal := .next (s.moveWork rid 0x31 fun f s => s.mvGather f)

/-- MV_SCATTER_ADD: the scatter of the record in flight. -/
def execMvScatterAdd (rid : Nat) (s : State) : Host.Outcome State Fault Refusal := .next (s.moveWork rid 0x32 fun f s => s.mvScatterAdd f)

/-- MV_PACK: the packing of the record in flight. -/
def execMvPack (x : Packing) (s : State) : Host.Outcome State Fault Refusal :=
  .next (s.moveWork x.rid 0x33 fun f s => s.mvPack f x.faults)

/-- MV_UNPACK: the unpacking of the record in flight. -/
def execMvUnpack (rid : Nat) (s : State) : Host.Outcome State Fault Refusal := .next (s.moveWork rid 0x34 fun f s => s.mvUnpack f)

/-- MV_FILL: the fill of the record in flight. -/
def execMvFill (rid : Nat) (s : State) : Host.Outcome State Fault Refusal := .next (s.moveWork rid 0x35 fun f s => s.mvFill f)

end Sys2Proof.Machine
end

