-- ==== Sys2Proof/Machine/Queues.lean ====
section
/-! DEFINITION. Queues at work (04): the checks of entries and records (R86, R92, R95, R97, R119), starting (R95, R129), retirement, doorbells, and the
queue, context and counter registers (R104 to R110). -/
namespace Sys2Proof.Machine

/-! ### The checks of a record (R95, R97) -/

/-- The lowest detail of INVALID_FIELD that an engine finds in a record, 0 for none. NOP is every engine's (R94). -/
def State.fieldDetail (s : State) (e ctx step : Nat) (w : RecWord) : Nat :=
  let stepped := (s.getC ctx).stepped
  let op := recOpcode w
  if op = 0 then (if recHeaderOk w then 0 else 0x0F)
  else if e < 12 then (if e % 3 = 0 then s.mxDetail stepped w else if e % 3 = 1 then s.vxDetail stepped w else s.mvDetail stepped w)
  else if e = 12 then s.cxDetail step w
  else if e = 13 then s.ixDetail ctx w
  else if e = 14 then
    (if 0x60 ≤ op && op ≤ 0x63 then s.lxDetail ctx w else if 0x68 ≤ op && op ≤ 0x6A then s.ckDetail ctx w else 0x0E)
  else if 0x70 ≤ op && op ≤ 0x72 then s.htDetail ctx w else 0x0E

/-- The lowest detail of ADDRESS_ERROR of a record, 0 for none. -/
def State.addressDetail (s : State) (e ctx : Nat) (w : RecWord) : Nat :=
  let c := s.getC ctx
  if recOpcode w = 0 then 0
  else if e < 12 then (if e % 3 = 2 then s.mvAddress c w else 0)
  else if e = 12 then s.cxAddress c w
  else if e = 13 then s.ixAddress c w
  else if e = 14 then (if recOpcode w < 0x68 then s.lxAddress c w else s.ckAddress c w)
  else s.htAddress c w

/-- R87: a counter that the record waits on or signals is owned by a context of another GROUP. -/
def State.counterDenied (s : State) (ctx : Nat) (w : RecWord) : Bool :=
  let g (c : Nat) : Bool := (s.getC (ctrOwner c)).group ≠ (s.getC ctx).group
  (recWaitEn w && g (recWaitCtr w)) || (recSigEn w && g (recSigCtr w))

/-- The response and detail with which a record is refused before it starts; (0, 0) for none. -/
def State.recordCheck (s : State) (q ctx step : Nat) (w : RecWord) : Nat × Nat :=
  let e := queueEngine q
  let d := s.fieldDetail e ctx step w
  let a := s.addressDetail e ctx w
  if d ≠ 0 then (0x10, d)
  else if a ≠ 0 then (0x11, a)
  else if s.counterDenied ctx w then (0x12, 0)
  else if e = 13 && s.ixMismatch ctx w then (0x29, 0)
  else (0, 0)

/-! ### Refusals (R97) -/

/-- The queue stops on error; a stepped one aborts the step. -/
def State.refuse (s : State) (q idx tag resp detail : Nat) : State :=
  let x := s.getQ q
  let stepped := (s.getC x.ctx).stepped
  let s := s.complete x.ctx (s.entryD q).step x.head idx q tag resp detail true
  let s := (s.noteResp q resp detail).stopOnError q
  let s := if stepped && resp = 0x15 then s.noteCause 1 else s
  if stepped && !s.run.dead then s.stepAbort 4 0xFF else s

/-- The queue may read its ring: it is enabled, has not stopped, and its context runs. -/
def State.queueRuns (s : State) (q : Nat) : Bool :=
  let x := s.getQ q
  let c := s.ctxOf q
  x.en && x.mode = .run && x.head ≠ x.tail && c.en && c.mark = .none && !s.fenced (0x10 + queueEngine q)

/-- R404: the waybill at HEAD is measured: one entry for each waybill that is fetched, none for a replay's fetch. One entry more than the limit is
kept as the sign that some were dropped. -/
def State.measureEntry (s : State) (q : Nat) : State :=
  let c := s.ctxOf q
  let e := s.entryD q
  let head := (s.getQ q).head
  let n := e.step % 2 ^ 32
  let again := c.stepped && s.measure.entries.any fun m => m.queue = q && m.entry = head && m.step = n
  if !c.measure || again then s
  else
    let s := s.fetchSeen q e.addr (64 * e.count)
    let held := (s.measure.entries.filter (·.step = n)).length
    let recs := (List.range e.count).flatMap fun i => (match s.recordAt q i with | .ok w => leBytes 64 w.toNat | .error _ => List.replicate 64 0)
    let s := if held < 16384 then s else s.fset F.SEC_STS_MEAS_OVF 1
    if 16384 < held then s
    else { s with measure := { s.measure with entries := s.measure.entries ++ [({ queue := q, entry := head, step := n, sha := Config.sha256 recs } : Meas)] } }

/-! ### Entries as they become HEAD (R92, R95, R97) -/

/-- The entry passes its checks, or is refused: STALE_STEP before BAD_ENTRY. -/
def State.judgeEntry (s : State) (q : Nat) : State :=
  let s := s.fetchSeen q ((s.getQ q).base + 16 * (s.getQ q).head) 16
  match s.headEntry q with
  | .error (resp, detail) => s.refuse q 0 0 resp detail
  | .ok _ =>
    if s.staleStep q then s.refuse q 0 0 0x13 0
    else if s.badEntry q then s.refuse q 0 0 0x14 0
    else
      let s := s.setQ q { s.getQ q with entryOk := true }
      if isHostQueue q then s else s.measureEntry q

/-- R375: a queue of the host transport fetches its ring entry and then its records, one at a time as they are needed, from host memory. A
context without a DMA key has no transport (R377, R378, R401). -/
def State.fetchHost (s : State) (q : Nat) : State :=
  let x := s.getQ q
  let ask (s : State) (a n : Nat) : State := (s.setQ q { x with fetching := true }).dmaRead x.ctx q a n (.ring q)
  if x.fetching then s
  else if (s.dmaKey x.ctx).isNone then (if x.entryOk then s else s.refuse q 0 0 0x10 0x28)
  else if x.got = 0 then ask s (x.base + 16 * x.head) 16
  else if !x.entryOk then s.judgeEntry q
  else
    let e := s.entryD q
    if x.got ≤ e.count && x.got ≤ x.first + 1 then ask s (e.addr + 64 * (x.got - 1)) 64
    else if x.got = e.count + 1 then (s.measureEntry q).setQ q { x with got := x.got + 1 }
    else s

/-- A stepped queue waits for the issue of a run that has been rewound. -/
def State.awaitsIssue (s : State) (q : Nat) : Bool :=
  (s.ctxOf q).stepped && !s.pos.issued && (s.fget F.HUB_STEP_STS_PHASE = 6 || s.fget F.HUB_STEP_STS_PHASE = 7)

def State.checkHead (s : State) (q : Nat) : State :=
  if !s.queueRuns q || s.awaitsIssue q then s
  else if isHostQueue q then (let s := s.fetchHost q; if s.queueRuns q then s.fetchHost q else s)
  else if (s.getQ q).entryOk then s
  else s.judgeEntry q

/-! ### Records as they become first (R95) -/

/-- The record at an index has been fetched. -/
def State.recordHere (s : State) (q : Nat) : Bool := !isHostQueue q || (s.getQ q).first + 1 < (s.getQ q).got

/-- The queue's first unstarted record can be looked at: its entry has passed, and R92 permits it. -/
def State.firstReady (s : State) (q : Nat) : Bool :=
  s.queueRuns q && (s.getQ q).entryOk && s.hasUnstarted q && s.stepPermits q && s.recordHere q

def State.checkRecord (s : State) (q : Nat) : State :=
  let x := s.getQ q
  if !s.firstReady q || x.checked then s
  else
    let s := s.fetchSeen q ((s.entryD q).addr + 64 * x.first) 64
    match s.recordAt q x.first with
    | .error (resp, detail) => s.refuse q x.first 0 resp detail
    | .ok w =>
      let r := s.recordCheck q x.ctx (s.entryD q).step w
      if r.1 ≠ 0 then s.refuse q x.first (recTag w) r.1 r.2
      else s.setQ q { x with checked := true, waitMet := x.waitMet || !recWaitEn w || waitReached (s.getCtr (recWaitCtr w)) (recWaitValue w) }

/-- Every queue goes as far as nothing but an engine's choice holds it: windows, entries, records, an early failure that has arisen, and the checkpoints that an
abort has brought the device back to. -/
def State.settle (s : State) : State :=
  let s := s.runWindows
  let s := s.forAll s.queueNumbers fun q s => s.checkHead q
  let s := s.forAll s.queueNumbers fun q s => s.checkRecord q
  s.earlyFailure.actOnHeld.resumeCkpt

/-! ### Starting (R95, R129) -/

/-- The mark of a record that needs no unit. -/
def noUnit : Nat := 0xFFFF

/-- The decode cores in service that no sample occupies (R204): neither the spare, nor retired, nor standing aside. -/
def State.idleCores (s : State) : List Nat :=
  (List.range 9).filter fun p =>
    s.fget F.IXE_STS_SPARE ≠ p && !bit (s.fget F.IXE_STS_RETIRED) p && (s.spares.standin.all fun x => x.1 ≠ decodeUnit p) &&
      s.que.flights.all fun f => queueEngine f.queue ≠ 13 || f.unit = noUnit || (f.core1 ≠ p && f.core2 ≠ p)

/-- The unit that a record would take now, none while it is not free; the collective engine runs up to 32 records at once (R248). -/
def State.freeUnit (s : State) (e : Nat) (w : RecWord) : Option Nat :=
  let mine := s.que.flights.filter fun f => queueEngine f.queue = e && f.unit ≠ noUnit
  if recOpcode w = 0 then some noUnit
  else if e < 12 then
    (if e % 3 = 0 then (if mine.all (·.unit ≠ mxCore w) then some (mxCore w) else none)
     else if e % 3 = 1 then (if mine.isEmpty then some 0 else none)
     else (List.range 4).find? fun u => mine.all (·.unit ≠ u))
  else if e = 13 && recOpcode w = 0x50 then
    (match s.idleCores with
     | [] => none
     | a :: rest => if s.ixDual (ixOf w) then rest.head?.map fun b => a + 16 * b else some (a + 16 * 15))
  else if e = 15 then (List.range 16).find? fun u => mine.all (·.unit ≠ u)
  else if e = 12 && 32 ≤ (s.que.flights.filter fun f => queueEngine f.queue = 12 && recOpcode f.word ≠ 0).length then none
  else some noUnit

/-- R129: what the phase of its carriage says of a record: 0 it may start, 1 it waits, 2 it is refused. -/
def State.phaseHolds (s : State) (e : Nat) (w : RecWord) : Nat :=
  if 12 ≤ e || e % 3 ≠ 0 || recOpcode w = 0 || !s.pos.enforce then 0
  else
    let p := s.phaseOf (e / 3)
    let kind := if recOpcode w = 0x11 then 0 else mxKind w
    if kind = 0 then (if p = 0 then 0 else 2)
    else if kind = 1 then (if p = 0 then 1 else if p = 1 then 0 else 2)
    else if p = 3 then 2 else 0

/-- The engine may start records: it is not fenced, EN of its block is 1 (R448), no search of R346 runs on it, and the collective engine does not
drain for a layout change (R257). -/
def State.engineOpen (s : State) (e : Nat) : Bool :=
  !s.fenced (0x10 + e) &&
    (match domainWindow (0x10 + e) with | some w => bit (s.rd (w * 65536 + R.BLK_CTL)) 31 | none => true) &&
    (match s.recov.search with | some x => x.engine ≠ e | none => true) && !(e = 12 && s.layoutDue)

/-- The queue's first unstarted record, if it is eligible in every respect except the free unit. -/
def State.eligible (s : State) (q : Nat) : Option RecWord :=
  let x := s.getQ q
  if !s.firstReady q || !x.checked || !x.waitMet then none
  else
    match s.recordAt q x.first with
    | .error _ => none
    | .ok w =>
      if recSerial w && s.que.flights.any (·.queue = q) then none
      else if s.phaseHolds (queueEngine q) w = 1 then none
      else if queueEngine q = 14 && recOpcode w = 0x63 && !s.windowMayStart w then none
      else some w

/-- The first unstarted record, if everything but the engine's choice permits its start, with the unit it would take. -/
def State.startable (s : State) (q : Nat) : Option (RecWord × Nat) :=
  (s.eligible q).bind fun w => (s.freeUnit (queueEngine q) w).map fun u => (w, u)

/-- The first of the rising queue numbers from n on, else the first of all: the rotation within a PRIO. -/
def rotate (n : Nat) (qs : List Nat) : Option Nat :=
  match qs.find? (n ≤ ·) with
  | some q => some q
  | none => qs.head?

/-- The queue that an engine chooses: highest PRIO, round robin within it. -/
def State.choose (s : State) (e : Nat) : Option Nat :=
  let qs := s.queueNumbers.filter fun q => queueEngine q = e && (s.startable q).isSome
  [3, 2, 1, 0].findSome? fun p => rotate (tget (fun _ => 0) s.que.rr (e * 4 + p)) (qs.filter fun q => (s.getQ q).prio = p)

/-- A record as it starts: what it reads then goes with it. -/
def State.newFlight (s : State) (rid q : Nat) (w : RecWord) (unit : Nat) : Flight :=
  let x := s.getQ q
  let e := queueEngine q
  { rid := rid, queue := q, ctx := x.ctx, entry := x.head, idx := x.first, step := (s.entryD q).step, word := w, unit := unit, resp := none, suspect := false,
    loose := false, key := s.srKey x.ctx, inj := if e < 12 && e % 3 = 0 then s.armedInj (e / 3) w else none,
    shuf := if e = 13 then (List.range 10).map (s.shufWord (s.getC x.ctx).stepped) else [],
    cls := if e < 12 then recordClass (s.rungNow (mxLayer w)) w else 3 }

/-- The first unstarted record of a queue is in flight. -/
def State.launchRecord (s : State) (q : Nat) (w : RecWord) (unit : Nat) : State :=
  let x := s.getQ q
  let e := queueEngine q
  let f := s.newFlight s.que.nextRid q w unit
  let s := s.setQ q (if x.redo.isEmpty then { x with next := x.first + 1, waitMet := false, checked := false } else { x with redo := x.redo.drop 1, waitMet := false, checked := false })
  let s := { s with que := { s.que with
    flights := s.que.flights ++ [f], nextRid := s.que.nextRid + 1, rr := tset (fun _ => 0) s.que.rr (e * 4 + x.prio) (q + 1) } }
  if e < 12 && recOpcode w ≠ 0 && (s.getC x.ctx).stepped then
    s.fset F.HUB_STEP_STS_PASS (max (s.fget F.HUB_STEP_STS_PASS) (min 3 (fieldOf w 139 134 / 16)))
  else s

/-- RECORD_START: an engine makes one choice. -/
def State.startOne (s : State) (e : Nat) : State :=
  if !s.engineOpen e then s
  else
    match s.choose e with
    | none => s
    | some q =>
      match s.startable q with
      | none => s
      | some (w, u) =>
        if s.phaseHolds e w = 2 then (s.fadd F.HUB_SCHED_STS_PH_REFUSED).refuse q (s.getQ q).first (recTag w) 0x10 0x17
        else s.launchRecord q w u

def execRecordStart (engine : Nat) (s : State) : Host.Outcome State Fault Refusal :=
  .next (if engine < 16 then (s.startOne engine).settle else s)

/-- RECORD_RETIRE. -/
def execRecordRetire (rid : Nat) (s : State) : Host.Outcome State Fault Refusal :=
  .next (match s.flight? rid with | some f => if s.halted (queueEngine f.queue) then s else (s.retire rid).searchNext.settle | none => s)

/-- NOP performs no work (R94). -/
def execNop (rid : Nat) (s : State) : Host.Outcome State Fault Refusal :=
  .next (s.work rid (fun f => recOpcode f.word = 0) fun f s => s.finish f.rid 0 0)

/-- DOORBELL on a context's page (R91). -/
def execDoorbell (page word : Nat) (s : State) : Host.Outcome State Fault Refusal :=
  .next (if page < 64 then (s.ring page (bits word 29 16) (bits word 15 0)).settle else s)

/-! ### Commands of other engines that reach queues -/

def execLxWindow (rid : Nat) (s : State) : Host.Outcome State Fault Refusal :=
  .next (s.lxWork rid 0x63 fun f s => s.lxWindow f).settle

/-- HT_RING rings a doorbell of the device (R376). -/
def execHtRing (rid : Nat) (s : State) : Host.Outcome State Fault Refusal :=
  .next (s.htWork rid 0x72 fun f s => s.htRing f).settle

/-- DMA_RD_DATA answers a DMA_RD. -/
def execDmaRdData (m : HostMsg) (s : State) : Host.Outcome State Fault Refusal :=
  .next (let (s, ok) := s.hostArrive m 0x12; if ok && !s.answerLost m.tag then (s.takeData m).settle else s)

/-- DMA_WR_ACK answers a DMA_WR. -/
def execDmaWrAck (m : HostMsg) (s : State) : Host.Outcome State Fault Refusal :=
  .next (let (s, ok) := s.hostArrive m 0x13; if ok && !s.answerLost m.tag then (s.takeAck m).settle else s)

/-- HOST_TIMEOUT: no answer within HOST_MS (R378). -/
def execHostTimeout (tag : Nat) (s : State) : Host.Outcome State Fault Refusal :=
  .next (match s.host.reqs.find? (·.tag = tag) with | some r => if s.answerLost tag then s else (s.failReq r 0x3B 0).settle | none => s)

/-- HOST_LINK_TRAIN: training of the host link has ended (R369, R383); records that the loss of the link ends count at once. -/
def execHostLinkTrain (modules : Nat) (s : State) : Host.Outcome State Fault Refusal :=
  let t := s.hostTrained modules
  .next (if s.fget F.UCI_STS_LINK % 2 = 0 && modules % 16 = 0 then t.settle else t)

/-! ### QUE registers (R104 to R109) -/

/-- The page that an agent's writes go by. -/
def agentPage : Agent → Nat
  | .host => 0
  | .firmware => 1

def State.queSel (s : State) (p : Nat) : Nat := s.fget (F.QUE_SEL_QUEUE.page p)
def State.ctxSel (s : State) (p : Nat) : Nat := s.fget (F.QUE_CTX_SEL_CONTEXT.page p)
def State.synSel (s : State) (p : Nat) : Nat := s.fget (F.SYN_SEL_COUNTER.page p)

/-- R105. Enabling zeroes the indices; disabling discards the entries that have not started: TAIL becomes HEAD, or HEAD + 1 while records of the entry
at HEAD are in flight, and HEAD stays where it is (DESIGN CHOICE: R105 gives neither pointer). -/
def Queue.configure (x : Queue) (data : Nat) (inFlight : Bool) : Queue :=
  let size := bits data 20 16
  let y := { x with prio := bits data 15 14 }
  let y := if x.en then y else { y with ctx := bits data 5 0, sizeLog2 := if 4 ≤ size && size ≤ 16 then size else x.sizeLog2 }
  let fresh := { y with next := 0, ended := 0, entryOk := false, waitMet := false, checked := false, failed := [], redo := [], host := [], got := 0, fetching := false }
  if bit data 31 then
    (if x.en then y else { fresh with en := true, mode := .run, head := 0, tail := 0, safe := 0, bhead := 0 })
  else if x.en then
    { fresh with en := false, mode := .run, tail := if inFlight then (x.head + 1) % 2 ^ x.sizeLog2 else x.head }
  else y

/-- The records in flight of a queue that is disabled run to retirement without it. -/
def State.loosen (s : State) (q : Nat) : State :=
  { s with que := { s.que with flights := s.que.flights.map fun f => if f.queue = q then { f with loose := true } else f } }

def State.writeQueCfg (s : State) (p data : Nat) : State :=
  let q := s.queSel p
  let t := s.setQ q ((s.getQ q).configure data (s.que.flights.any (·.queue = q)))
  (if bit data 31 then t else t.loosen q).settle

def execQueCfgWrite (a : Agent) (data : Nat) (s : State) : Host.Outcome State Fault Refusal := .next (s.writeQueCfg (agentPage a) data)

/-- STOP starts no further records (R107). -/
def State.stopQueue (s : State) (p : Nat) : State :=
  let q := s.queSel p
  let x := s.getQ q
  if x.en && x.mode = .run then s.setQ q { x with mode := .stop } else s

/-- RESUME (R107): in state 4 it resumes, in state 5 it retries the failed records. -/
def State.resumeQueue (s : State) (p : Nat) : State :=
  let q := s.queSel p
  let x := s.getQ q
  if s.queueState q = 4 then (s.setQ q { x with mode := .run }).settle
  else if s.queueState q = 5 then
    (s.setQ q { x with mode := .run, redo := (x.failed ++ x.redo).mergeSort, failed := [], waitMet := false, checked := false }).settle
  else s

/-- SKIP (R107): in state 5 the failed record is discarded, or the entry that was refused. -/
def State.skipQueue (s : State) (p : Nat) : State :=
  let q := s.queSel p
  let x := s.getQ q
  if s.queueState q ≠ 5 then s
  else
    let x := { x with mode := .run, waitMet := false, checked := false }
    let n := (s.entryD q).count
    let s :=
      if !x.entryOk then
        (s.setQ q { x with entryOk := true, ended := n }).advanceHead q
      else if x.failed ≠ [] then (s.setQ q { x with ended := x.ended + x.failed.length, failed := [] }).advanceHead q
      else if x.redo ≠ [] then (s.setQ q { x with ended := x.ended + 1, redo := x.redo.drop 1 }).advanceHead q
      else (s.setQ q { x with ended := x.ended + 1, next := x.next + 1 }).advanceHead q
    s.settle

def execQueueStop (a : Agent) (s : State) : Host.Outcome State Fault Refusal := .next (s.stopQueue (agentPage a))
def execQueueResume (a : Agent) (s : State) : Host.Outcome State Fault Refusal := .next (s.resumeQueue (agentPage a))
def execQueueSkip (a : Agent) (s : State) : Host.Outcome State Fault Refusal := .next (s.skipQueue (agentPage a))

/-- A write of QUE_CTL: each action in the state that it names, SKIP before RESUME before STOP. -/
def State.writeQueCtl (s : State) (p data : Nat) : State :=
  let st := s.queueState (s.queSel p)
  let s := if bit data 2 && st = 5 then s.skipQueue p else s
  let s := if bit data 1 && !(bit data 2 && st = 5) then s.resumeQueue p else s
  if bit data 0 then s.stopQueue p else s

/-- R108, R124: STEPPED, MEASURE and GROUP only while EN is 0; EN written 0 lifts no mark, EN written 1 from 0 does, and zeroes DB_REJ. -/
def Ctx.configure (c : Ctx) (data : Nat) : Ctx :=
  let d := { c with remoteEn := bit data 29, depotEn := bit data 27, keyslot := bits data 7 0, en := bit data 31 }
  let d := if c.en then d else { d with stepped := bit data 30, measure := bit data 28, group := bits data 21 16 }
  if bit data 31 && !c.en then { d with dbRej := 0, mark := .none } else d

def State.writeCtxCfg (s : State) (p data : Nat) : State :=
  let n := s.ctxSel p
  let was := s.getC n
  let s := s.setC n (was.configure data)
  let s :=
    if bit data 31 && !was.en then
      s.forAll s.queueNumbers fun q s => let x := s.getQ q; if x.ctx = n && x.mode = .ctxStop then s.setQ q { x with mode := .run } else s
    else s
  s.settle

def execQueCtxCfgWrite (a : Agent) (data : Nat) (s : State) : Host.Outcome State Fault Refusal := .next (s.writeCtxCfg (agentPage a) data)

/-- R109: QUE_CTX_CR_CFG. -/
def Ctx.configureRing (c : Ctx) (data : Nat) : Ctx :=
  let n := bits data 20 16
  { c with crHead := bits data 15 0, crSize := if !c.en && 6 ≤ n && n ≤ 16 then n else c.crSize }

/-! ### SYN registers (R110) -/

/-- The low word that a write of a pair's high word applies: the pending one, else the current one (R8). -/
def State.lowWord (s : State) (off current : Nat) : Nat :=
  match tget (fun _ => (none : Option Word)) s.pairs.lows off with
  | some w => w.toNat
  | none => current % 2 ^ 32

def State.dropLow (s : State) (off : Nat) : State :=
  { s with pairs := { s.pairs with lows := tset (fun _ => (none : Option Word)) s.pairs.lows off none } }

/-- SYN_VAL_SET: the write of the high word sets the selected counter. -/
def State.setCounter (s : State) (p data : Nat) : State :=
  let c := s.synSel p
  let off := pageReg R.SYN_VAL p
  ((s.dropLow off).changeCtr c (data % 2 ^ 32 * 2 ^ 32 + s.lowWord off (s.getCtr c))).settle

def execSynValSet (a : Agent) (data : Nat) (s : State) : Host.Outcome State Fault Refusal := .next (s.setCounter (agentPage a) data)

/-- SYN_ADD: a 32-bit value is added to the selected counter. -/
def State.addCounter (s : State) (p data : Nat) : State := (s.signal (s.synSel p) (data % 2 ^ 32)).settle

def execSynAdd (a : Agent) (data : Nat) (s : State) : Host.Outcome State Fault Refusal := .next (s.addCounter (agentPage a) data)

end Sys2Proof.Machine
end

