-- ==== Sys2Proof/Machine/RegRead.lean ====
section
/-! DEFINITION. Reading registers (20_register_map, R7 to R10, R444 to R447): what an offset presents, the common header, the values that are
computed from the state as they are read, and the captures of register pairs. -/
namespace Sys2Proof.Machine

/-! ### Offsets -/

def offWindow (o : Nat) : Nat := o / 65536 % 1024
def offPage (o : Nat) : Nat := o / 4096 % 16
def inPage (o : Nat) : Nat := o % 4096

/-- The register that an offset presents: the header of a window through every page (R446), and the registers of QUE, SYN and CXE through their
second page (R104, R258). -/
def canonReg (o : Nat) : Nat :=
  let w := offWindow o
  if inPage o < 0x40 then w * 65536 + inPage o
  else if 2 ≤ w && w ≤ 4 && offPage o = 1 then o - 4096
  else o

/-- The low registers of the 64-bit pairs (R8). -/
def pairLows : List Nat :=
  [R.HUB_STEP_NUM, R.HUB_SCHED_FIRST, R.HUB_WATCH_LOG, R.HUB_PRE_STEP, R.HUB_ABORT_STEP, R.DEP_HIT, R.DEP_MISS, R.SYN_VAL, R.SYN_BOUND, R.QUE_BASE,
   R.QUE_CTX_SRKEY, R.QUE_CTX_CR, R.CXE_NEXT_STEP, R.IXE_SHUF_N, R.IXE_SHUF_KEY, R.IXE_SHUF_STEP0, R.IXE_PICS, R.LXE_LEDGER_BASE, R.LXE_VSTEP] ++
  [R.LXE_CKPT_BASE, R.LXE_CKPT_STEP, R.LXE_CKPT_GDIG, R.FAB_MAP_BASE, R.FAB_CW_CORR, R.ICU_MSI_ADDR, R.ICU_MSIX_ADDR, R.OST_MAC, R.DMP_OUT_BASE,
   R.MXC_CHK_STEP, R.MEM_ERR_ADDR] ++ (List.range 8).map (R.ICU_T_VEC + 8 * ·)

/-- The offset is a pair's low word, or its high word. -/
def isPairLow (o : Nat) : Bool := 0x40 ≤ inPage o && pairLows.contains (baseReg (canonReg o))
def isPairHigh (o : Nat) : Bool := 0x44 ≤ inPage o && pairLows.contains (baseReg (canonReg (o - 4)))

/-! ### The common header (R446, R447) -/

/-- INSTANCE of a window. -/
def windowInstance (w : Nat) : Nat := if 0x100 ≤ w && w < 0x140 then (w - 0x100) / 16 else 0

def State.headerReg (s : State) (w p off : Nat) : Nat :=
  let reg (k : Nat) : Nat := s.rd (w * 65536 + k)
  if off = 0 then windowBlock w * 2 ^ 24 + windowInstance w * 2 ^ 20 + p * 2 ^ 16
  else if 0x300 ≤ w then 0
  else if off = 4 then (Config.design w).toNat * 65536 + 0xB0 * 256 + windowPages w
  else if off = 8 then windowCap0 w
  else if off = R.BLK_CTL then reg R.BLK_CTL / 2 ^ 31 * 2 ^ 31
  else if off = 0x20 || off = 0x24 then reg R.BLK_EVT_RAW
  else reg off

/-! ### Values computed as they are read -/

/-- The HUB block (R136, R338, R345, R351, R429). -/
def State.hubReg (s : State) (k : Nat) : Nat :=
  if k = R.HUB_SCHED_STS then s.rd k + (s.phaseOf 0 + 4 * s.phaseOf 1 + 16 * s.phaseOf 2 + 64 * s.phaseOf 3)
  else if k = R.HUB_RST_STS then setBits (s.rd k) 31 30 s.mode
  else if k = R.HUB_RST_CNT then
    let d := s.fget F.HUB_RST_SEL_DOMAIN
    min (tget (fun _ => 0) s.recov.recent d) 255 * 2 ^ 24 + min (tget (fun _ => 0) s.recov.total d) 65535
  else if k = R.HUB_TEST_STS then
    setBits (setBits (setBits (s.rd k) 31 31 (b2n !s.test.held.isEmpty)) 30 30 (b2n s.test.running.isSome)) 15 0 (min s.test.held.length 65535)
  else s.rd k

/-- The selected counter of a SYN page (R110). -/
def State.synReg (s : State) (p k : Nat) : Nat :=
  let c := s.synSel p
  if k = R.SYN_SEL then s.rd (pageReg R.SYN_SEL p)
  else if k = R.SYN_VAL then s.getCtr c % 2 ^ 32
  else if k = R.SYN_VAL + 4 then s.getCtr c / 2 ^ 32
  else if k = R.SYN_BOUND then s.getBound c % 2 ^ 32
  else if k = R.SYN_BOUND + 4 then s.getBound c / 2 ^ 32
  else if k = R.SYN_STS then s.fget F.SYN_STS_REFUSED * 65536 + s.syn.held.length
  else 0

/-- The selected queue (R104 to R106). -/
def State.queueReg (s : State) (q k : Nat) : Nat :=
  let x := s.getQ q
  if k = R.QUE_CFG then b2n x.en * 2 ^ 31 + x.sizeLog2 * 2 ^ 16 + x.prio * 2 ^ 14 + x.ctx
  else if k = R.QUE_BASE then x.base % 2 ^ 32
  else if k = R.QUE_BASE + 4 then x.base / 2 ^ 32
  else if k = R.QUE_PTR then x.tail * 65536 + x.head
  else if k = R.QUE_SAFE then x.bhead * 65536 + x.safe
  else if k = R.QUE_STS then s.queueState q * 2 ^ 29 + x.detail * 65536 + x.resp * 256
  else 0

/-- STATE of QUE_CTX_STS (R109). -/
def Ctx.state (c : Ctx) : Nat := match c.mark with | .guilty => 3 | .stopped => 2 | .none => b2n c.en

/-- The selected context (R104, R108, R109). -/
def State.ctxReg (s : State) (n k : Nat) : Nat :=
  let c := s.getC n
  if k = R.QUE_CTX_CFG then
    b2n c.en * 2 ^ 31 + b2n c.stepped * 2 ^ 30 + b2n c.remoteEn * 2 ^ 29 + b2n c.measure * 2 ^ 28 + b2n c.depotEn * 2 ^ 27 + c.group * 65536 + c.keyslot
  else if k = R.QUE_CTX_WIN_BASE then c.winBase
  else if k = R.QUE_CTX_WIN_LIMIT then c.winLimit
  else if k = R.QUE_CTX_SRKEY then c.srkey % 2 ^ 32
  else if k = R.QUE_CTX_SRKEY + 4 then c.srkey / 2 ^ 32
  else if k = R.QUE_CTX_EPOCH then c.epoch
  else if k = R.QUE_CTX_STS then c.state * 2 ^ 30 + b2n c.crOvf * 65536 + c.dbRej
  else if k = R.QUE_CTX_CR then c.crBase % 2 ^ 32
  else if k = R.QUE_CTX_CR + 4 then c.crBase / 2 ^ 32
  else if k = R.QUE_CTX_CR_CFG then c.crSize * 65536 + c.crHead
  else if k = R.QUE_CTX_CR_TAIL then c.crTail
  else 0

def State.queReg (s : State) (p k : Nat) : Nat :=
  if k = R.QUE_SEL || k = R.QUE_CTX_SEL then s.rd (pageReg k p)
  else if k < R.QUE_CTX_SEL then s.queueReg (s.queSel p) k
  else s.ctxReg (s.ctxSel p) k

/-- BUSY of IXE_STS: the decode cores that samples occupy (R212). -/
def State.busyCores (s : State) : Nat :=
  min 15 (((List.range 9).filter fun p => s.que.flights.any fun f =>
    queueEngine f.queue = 13 && f.unit ≠ noUnit && (f.core1 = p || f.core2 = p)).length)

/-- The ICU block (R366, R367). -/
def State.icuReg (s : State) (k : Nat) : Nat :=
  let src := s.fget F.ICU_SRC_SEL_SOURCE
  let g := s.getGrp (s.fget F.ICU_GRP_SEL_GROUP)
  if k = R.ICU_SRC_CFG then s.srcCfg src + b2n (!srcIsLevel src)
  else if k = R.ICU_GRP_CFG0 then g.cfg0.toNat
  else if k = R.ICU_GRP_CFG1 then g.cfg1.toNat
  else if k = R.ICU_GRP_STS then s.grpSts
  else if R.ICU_T_EOI ≤ k && k < R.ICU_T_EOI + 0x80 then
    (if (k - R.ICU_T_EOI) % 16 = 4 then s.targetStk ((k - R.ICU_T_EOI) / 16) else 0)
  else if R.ICU_T_VEC ≤ k && k < R.ICU_T_VEC + 64 then
    let i := (k - R.ICU_T_VEC) / 4
    s.targetVec (i / 2) / 2 ^ (32 * (i % 2)) % 2 ^ 32
  else s.rd k

/-- A sensor's reading is the world's (R386); reserved indices read 0x80000000. -/
def State.sensorReg (s : State) : Nat := if 0x43 ≤ s.fget F.OST_SENSOR_SEL_INDEX then 0x80000000 else Config.freeValue s.free % 2 ^ 32

/-- The slot that SEC_SLOT_SEL selects (R408). -/
def State.slotReg (s : State) : Nat :=
  let n := s.fget F.SEC_SLOT_SEL_SLOT
  b2n (s.mgmt.changes.any (·.slot = n)) * 2 ^ 21 +
    (match tget (fun _ => (none : Option Slot)) s.slots n with | some k => k.purpose * 2 ^ 28 + k.owner * 2 ^ 22 | none => 0)

/-- OST_STS (R408): what flash and the fuses hold, and the Ostler's hold, debug and session. -/
def State.ostSts (s : State) : Nat :=
  let f := s.mgmt.flash
  f.run % 2 * 2 ^ 31 + (match f.pend with | none => 0 | some b => b % 2 + 1) * 2 ^ 29 + b2n f.bad * 2 ^ 28 + b2n (s.power.stage = 3) * 2 ^ 27 +
    b2n s.mgmt.unlocked.isSome * 2 ^ 26 + b2n s.mgmt.session.isSome * 2 ^ 25 + f.svn % 256 * 2 ^ 8 + f.fuses % 256

/-- The OST and SEC blocks (R408). -/
def State.ostReg (s : State) (k : Nat) : Nat :=
  if k = R.OST_SENSOR_VAL then s.sensorReg
  else if k = R.OST_STS then s.ostSts
  else if k = R.OST_MAC then Config.macAddress.toNat % 2 ^ 32
  else if k = R.OST_MAC + 4 then Config.macAddress.toNat / 2 ^ 32
  else if k = R.SEC_STS then
    b2n s.mgmt.job.isSome * 2 ^ 31 + b2n s.mgmt.unlocked.isSome * 2 ^ 30 + s.fget F.SEC_STS_MEAS_OVF * 2 ^ 29 + min s.slots.length 255
  else if k = R.SEC_SLOT_STS then s.slotReg
  else s.rd k

/-- A stack's registers (R188 to R190). -/
def State.memReg (s : State) (stack k : Nat) : Nat :=
  let own (r : Nat) : Nat := stackReg r stack
  let mine := s.mpart.remap.filter fun r => rowStack r.row = stack
  let banks := (mine.map fun r => r.row / 2 ^ 17).eraseDups
  let pages := s.mpart.retired.filter fun p => p / (carSpan / 65536) = stack / 2
  let i := s.fget (F.MEM_RETIRE_SEL_INDEX.stack stack)
  if k = own R.MEM_PCH_STS then s.pchSts (pchKey stack (s.fget (F.MEM_PCH_SEL_PCH.stack stack)))
  else if k = own R.MEM_REMAP_STS then
    (banks.foldl (fun n b => n + s.sparesUsed (b * 2 ^ 17)) 0) * 65536 + (banks.filter fun b => 8 ≤ s.sparesUsed (b * 2 ^ 17)).length
  else if k = own R.MEM_RETIRE_PAGE then (if i < pages.length then 2 ^ 31 + pages.getD i 0 else 0)
  else if k = own R.MEM_RETIRE_CNT then pages.length
  else s.rd k

/-- The value that an offset of an assigned window reads as now. Offsets that no block-specific register has read zero (R445). -/
def State.regNow (s : State) (o : Nat) : Nat :=
  let w := offWindow o
  let p := offPage o
  let k := canonReg o
  if windowPages w ≤ p then 0
  else if inPage o < 0x40 then s.headerReg w p (inPage o)
  else if (rowOf k).isNone then 0
  else if w = 0 then s.hubReg k
  else if w = 2 then s.synReg p k
  else if w = 3 then s.queReg p k
  else if w = 8 then s.icuReg k
  else if w = 9 || w = 10 then s.ostReg k
  else if w % 16 = 4 && 0x100 ≤ w then s.memReg (2 * windowInstance w + (p - 1)) k
  else if k = R.IXE_STS then setBits (s.rd k) 31 28 s.busyCores
  else if k = R.LXE_LEDGER_STS then s.ledgerSts
  else if k = R.LXE_CKPT_STS then setBits (s.rd k) 15 0 s.parityPending
  else if w = 7 && 1 ≤ p && inPage o = 0x50 then tget (fun _ => 0) s.lanes ((p - 1) * 32 + s.fget (F.FAB_LANE_SEL_LANE.page (p - 1)))
  else if k = R.CLK_STS then setBits (s.rd k) 27 27 (s.fget F.PWR_THROT_STS_THROTTLED)
  else s.rd k

/-! ### Captures (R8) -/

def noWord (_ : Nat) : Option Word := none

/-- A read returns the register's value; a pair's low word captures the high one, which the high word's reads then return. -/
def State.readReg (s : State) (o : Nat) : Nat × State :=
  if isPairLow o then
    let hi := s.regNow (o + 4)
    (s.regNow o, { s with pairs := { s.pairs with caps := tset noWord s.pairs.caps o (some (BitVec.ofNat 32 hi)) } })
  else if isPairHigh o then
    match tget noWord s.pairs.caps (o - 4) with
    | some v => (v.toNat, s)
    | none => (s.regNow o, s)
  else if canonReg o = R.OST_SENSOR_VAL then (s.regNow o, s.fresh.2)
  else (s.regNow o, s)

end Sys2Proof.Machine
end

