-- ==== Sys2Proof/Machine/Grielle.lean ====
section
/-! DEFINITION. Grielle messages (17_management_and_security, R388 to R393): what the Ostler admits, how it answers, and the mailbox. -/
namespace Sys2Proof

/-- n little-endian bytes of a body. -/
def GMsg.num (m : GMsg) (off n : Nat) : Nat := Machine.leNat ((m.body.drop off).take n)

/-- LENGTH of a sealed message counts the tag (R393). -/
def GMsg.plainLen (m : GMsg) : Nat := if m.sealed then m.len - 16 else m.len

/-- Bits of the 64-byte recovery command body (R306). -/
def GMsg.cmd (m : GMsg) (hi lo : Nat) : Nat := Machine.bits (Machine.leNat (m.body.take 64)) hi lo

def GMsg.rStep (m : GMsg) : Nat := m.cmd 511 448
def GMsg.rEpoch (m : GMsg) : Nat := m.cmd 127 96
def GMsg.rSeq (m : GMsg) : Nat := m.cmd 95 64

/-- The signer's index of a RECOVERY request (R395). -/
def GMsg.signer (m : GMsg) : Nat := m.num 64 1

/-- The reserved fields of a recovery command are zero. -/
def GMsg.rFieldsOk (m : GMsg) : Bool := m.cmd 341 128 = 0 && m.cmd 63 8 = 0 && m.num 65 7 = 0

end Sys2Proof

namespace Sys2Proof.Machine

/-! ### The mailbox (R408) -/

/-- The response fragment goes to OST page 2: up to 4,032 bytes. -/
def State.showFragment (s : State) (som : Bool) : State :=
  let part := s.mgmt.response.take 4032
  let rest := s.mgmt.response.drop 4032
  let s := s.forAll (List.range 1008) fun i s => s.wr (R.OST_MBX_RSP + 4 * i) (leNat ((part.drop (4 * i)).take 4))
  let s := { s with mgmt := { s.mgmt with response := rest } }
  s.wr R.OST_MBX_STS (s.fget F.OST_MBX_STS_OVF * 2 ^ 27 + 2 ^ 30 + b2n som * 2 ^ 29 + b2n rest.isEmpty * 2 ^ 28 + part.length)

/-! ### The fabric path (R388) -/

/-- A message goes to the Ostler of a coordinate over VC3, in MCTP packets of up to 1,024 bytes. The endpoint numbers and the tag of their
transport headers are not the spec's. -/
def State.sendFabric (s : State) (dst : Nat) (bytes : List Byte) : State :=
  let (ids, s) := s.fresh
  let n := ceilDiv bytes.length 1020
  s.forAll (List.range n) fun i s =>
    let flags := b2n (i = 0) * 128 + b2n (i + 1 = n) * 64 + i % 4 * 16 + ids / 65536 % 16
    let head := leBytes 1 1 ++ leBytes 2 ids ++ leBytes 1 flags
    s.launch none (s.mkPacket 3 0xF0 dst false 0 0 (head ++ (bytes.drop (1020 * i)).take 1020))

/-- A message leaves by a path; the mailbox holds it as its response. -/
def State.sendPath (s : State) (path dst : Nat) (bytes : List Byte) : State :=
  if path = 3 then ({ s with mgmt := { s.mgmt with request := [], response := bytes } } : State).showFragment true
  else if path = 2 then s.sendFabric dst bytes
  else s.emit (.grielle path bytes)

/-! ### Requests and responses (R391 to R393) -/

/-- The response to a request. One to a sealed request is sealed, but not AUTH_FAIL's. -/
def State.reply (s : State) (m : GMsg) (code status : Nat) (body : List Byte) : State :=
  let sealed := m.sealed && status ≠ 4 && s.mgmt.job.isSome
  let bytes := s.gMessage m.reqId status true code sealed body
  let s := if sealed then { s with mgmt := { s.mgmt with txSeq := s.mgmt.txSeq + 1 } } else s
  s.sendPath m.path m.src bytes

def State.refuseMsg (s : State) (m : GMsg) (code status : Nat) : State := s.reply m code status []


/-- The status that the header and the protection of a request give it; 0 where they pass. -/
def State.admits (s : State) (m : GMsg) (sealed signed : Bool) (lenOk : Bool) : Nat :=
  ([(0x01, m.version ≠ 1 || m.resp),
    (0x02, 20480 < m.len || (m.sealed && m.len < 16) || !lenOk),
    (0x03, m.resv || m.status ≠ 0 || (!m.sealed && m.seq ≠ 0)),
    (0x06, (sealed || signed || m.sealed) && s.mgmt.job.isNone),
    (0x04, (sealed && !m.sealed) || (m.sealed && (!m.tagOk || m.seq ≤ s.mgmt.rxSeq)))].find? (·.2)).elim 0 (·.1)

/-- The mailbox holds a whole request with this message's header. -/
def State.mailboxHolds (s : State) (m : GMsg) (code : Nat) : Bool :=
  s.flag F.OST_MBX_STS_BUSY && s.mgmt.request.take 21 = gPrefix ++ gHeader m.len m.seq m.reqId 0 m.sealed m.resp code

/-- A request that arrives while another is executed joins its path's queue of 4, or is answered BUSY (R388). -/
def State.queueRequest (s : State) (m : GMsg) (code key : Nat) : State :=
  if 4 ≤ (s.mgmt.queue.filter (·.2.path = m.path)).length then s.refuseMsg m code 8
  else { s with mgmt := { s.mgmt with queue := s.mgmt.queue ++ [(key, m)] } }

/-- The Ostler takes a request of a code and executes g on it once it is admitted. It executes one at a time: while a slot change waits, others queue under
the key by which runRequest finds them (DEDUCED). -/
def State.request (s : State) (m : GMsg) (code : Nat) (sealed signed : Bool) (lenOk : Bool) (g : State → State) (key : Nat := code) : State :=
  if !s.ostlerUp || (m.path = 3 && !s.mailboxHolds m code) then s
  else if !s.mgmt.changes.isEmpty then s.queueRequest m code key
  else
    let st := s.admits m sealed signed lenOk
    if st ≠ 0 then s.refuseMsg m code st
    else g (if m.sealed then { s with mgmt := { s.mgmt with rxSeq := m.seq } } else s)

end Sys2Proof.Machine
end

