-- ==== Sys2Proof/Machine/Spares.lean ====
section
/-! DEFINITION. Spare units under test (R294), requests for remounts (R295), and stragglers (R300, R301). -/
namespace Sys2Proof.Machine

/-! ### Self-tests of spares (R294) -/

/-- The unit is the idle spare of its kind and die, or the spare still to be tested. -/
def State.isSpare (s : State) (u : UnitId) : Bool :=
  if u.kind = 0 then u.die < 4 && u.index < 9 && (s.coreState u.die u.index = 1 || s.coreState u.die u.index = 2)
  else if u.kind = 1 then u.die < 4 && u.index < 17 && s.vxSpare u.die = u.index
  else u.kind = 2 && u.index < 9 && s.fget F.IXE_STS_SPARE = u.index

/-- A spare's test ends: passed, it may be remounted; failed, it is recorded and not used. -/
def State.spareTested (s : State) (u : UnitId) (pass : Bool) : State :=
  let others := s.spares.tested.filter (· ≠ u)
  if pass then
    let s := { s with spares := { s.spares with tested := u :: others } }
    if u.kind = 0 then s.setCoreState u.die u.index 1 else s
  else
    let s := { s with spares := { s.spares with tested := others } }
    (if u.kind = 0 then s.setCoreState u.die u.index 6 else s).unitEvent u 6 0

def execSpareSelfTest (carriage unit index : Nat) (pass : Bool) (s : State) : Host.Outcome State Fault Refusal :=
  .next (let u : UnitId := ⟨unit, if unit = 2 then 0xF else carriage, index⟩; if s.isSpare u then s.spareTested u pass else s)

/-! ### Requests (R293, R295) -/

/-- CAR_REMOUNT_CTL with REQ: the request is held for the next moment of R293, in the place of one that has not been applied. -/
def State.holdRemount (s : State) (n action unit index : Nat) : State :=
  ({ s with spares := { s.spares with requests := tset (fun _ => none) s.spares.requests n (some (action, unit, index)) } }).fset
    (F.CAR_REMOUNT_STS_PEND.car n) 1

def execRemountRetire (_ : Agent) (carriage unit index : Nat) (s : State) : Host.Outcome State Fault Refusal :=
  .next (if carriage < 4 then s.holdRemount carriage 0 (unit % 2) (index % 32) else s)

def execRemountReturn (_ : Agent) (carriage unit index : Nat) (s : State) : Host.Outcome State Fault Refusal :=
  .next (if carriage < 4 then s.holdRemount carriage 1 (unit % 2) (index % 32) else s)

/-! ### Stragglers (R300, R301) -/

/-- ρ of logical core k (8n + i) as a quotient: busy time over the measured cycles. A core without a command has no stated ratio. -/
def State.coreRatio (s : State) (k cycles : Nat) : (Nat × Nat) × State :=
  if cycles = 0 then (let (v, s) := s.fresh; ((v % 2 ^ 24, 2 ^ 24), s)) else ((tget (fun _ => 0) s.spares.busy k, cycles), s)

def ratLe (a b : Nat × Nat) : Bool := a.1 * b.2 ≤ b.1 * a.2

/-- The middle one of seven quotients. -/
def medianRat (rs : List (Nat × Nat)) : Nat × Nat := (rs.mergeSort ratLe).getD (rs.length / 2) (0, 1)

/-- a < percent % of b. -/
def belowPct (pct : Nat) (a b : Nat × Nat) : Bool := 100 * a.1 * b.2 < pct * b.1 * a.2

/-- One core of a sealed step: its ratio, and its consecutive slow steps. At the SLOW_STEPS-th it claims the spare role as R299's units do. -/
def State.straggler (s : State) (n i : Nat) (r : Nat × Nat) (others : List (Nat × Nat)) : State :=
  let zero (_ : Nat) : Nat := 0
  let k := 8 * n + i
  let s := s.wr (carReg (R.CAR_SLOW_RATIO + 4 * i) n) (toF32 (fDiv (.fin false r.1 0) (.fin false r.2 0)))
  let limit := s.fget (F.CAR_SLOW_CFG_SLOW_STEPS.car n)
  let slow := 1000 ≤ tget zero s.spares.ran k && belowPct (s.fget (F.CAR_SLOW_CFG_SLOW_PCT.car n)) r (medianRat others)
  let c := if slow then tget zero s.spares.slow k + 1 else 0
  if limit ≠ 0 && limit ≤ c then
    let u := coreUnit n (s.coreOf n i)
    let s := s.unitEvent u 7 0
    { s with spares := { s.spares with slow := tset zero s.spares.slow k 0, aside := s.spares.aside.filter (· ≠ u) ++ [u] } }
  else { s with spares := { s.spares with slow := tset zero s.spares.slow k c } }

/-- The ratios of a carriage's eight cores. -/
def State.carriageRatios (s : State) (n : Nat) (cycles : List Nat) : List (Nat × Nat) × State :=
  (List.range 8).foldl (fun (rs, s) i =>
    let (r, s) := s.coreRatio (8 * n + i) (cycles.getD (8 * n + i) 0)
    (rs ++ [r], s)) ([], s)

/-- The device ratio of R301: busy time of all cores over the time of their commands in nominal cycles. -/
def State.deviceSlow (s : State) (nominal : Nat) : State :=
  let busy := s.spares.busy.foldl (fun n p => n + p.2) 0
  let limit := s.fget (F.CAR_SLOW_CFG_SLOW_STEPS.car 0)
  if nominal ≠ 0 && belowPct (s.fget F.HUB_UNIT_CFG_DSLOW_PCT) (busy, nominal) (1, 1) then
    let s := s.fadd F.HUB_UNIT_STS_DSLOW_RUN
    if limit ≠ 0 && s.fget F.HUB_UNIT_STS_DSLOW_RUN = limit then ((s.fset F.HUB_UNIT_STS_DEV_SLOW 1).setLevel 0x084 true).notify 3 s.stepNum else s
  else s.fset F.HUB_UNIT_STS_DSLOW_RUN 0

/-- The step that has been sealed is measured: MCLK cycles of each logical core's commands, and their sum over the device in nominal cycles. -/
def State.stragglers (s : State) (cycles : List Nat) (nominal : Nat) : State :=
  (s.forAll (List.range 4) fun n s =>
    let (rs, s) := s.carriageRatios n cycles
    s.forAll (List.range 8) fun i s => s.straggler n i (rs.getD i (0, 1)) (rs.eraseIdx i)).deviceSlow nominal

end Sys2Proof.Machine
end

