-- ==== Sys2Proof/Machine/StepSeq.lean ====
section
/-! DEFINITION. Schedule core 0 (05, R21 to R24, R125 to R138): the issue of a run (R92, R102, R135, R138, R262, R276), the boundary with all that is held for it,
the job's first step, and the watch table's captures and commits (R156). -/
namespace Sys2Proof.Machine

/-! ### The issue of a run -/

/-- R128, R135: the five counters from PHCTR belong to one stepped context. -/
def State.phctrOk (s : State) (cfg : Nat) : Bool :=
  let p := bits cfg 29 16
  p + 4 < 16384 && ctrOwner p = ctrOwner (p + 4) && (s.getC (ctrOwner p)).stepped

/-- R135, R156: what is read when a step is issued. PHCTR that is not valid leaves PH_ENFORCE off. -/
def State.readConfig (s : State) : State :=
  let cfg := s.rd R.HUB_SCHED_CFG
  let ok := s.phctrOk cfg
  let s := { s with pos := { s.pos with cfg := BitVec.ofNat 32 cfg, enforce := bit cfg 31 && ok, watchCfg := BitVec.ofNat 32 (s.rd R.HUB_WATCH_CFG) } }
  if ok then s else s.fset F.HUB_SCHED_STS_CFG_ERR 1

/-- The header of a run (R262): a later run of a step takes what R278 names from the step's last header. -/
def State.runHeader (s : State) (step run : Nat) : RunHdr :=
  let h := s.makeHeader step run
  let old := if s.run.hdr.step = step then some s.run.hdr else (s.ledger.headers.filter (·.step = step)).getLast?
  match (if run = 0 then none else old) with
  | none => h
  | some o => { h with epoch := o.epoch, mbLast := o.mbLast, shuf := o.shuf, keys := o.keys, layers := o.layers }

/-- The header is written, unless it does not fit (R263), and forwarded (R262, R266), to the partner while there is one and to a joiner that
shadows (R304). The run has its values in either case. -/
def State.writeHeader (s : State) (h : RunHdr) : State :=
  let fits := s.ledgerFits 12288
  let s := { s with run := { s.run with hdr := h }, ledger := { s.ledger with headers := s.ledger.headers ++ (if fits then [h] else []) } }
  if !fits then s
  else s.copiesTo.foldl (fun s dest =>
    if dest.isNone && (!s.flag F.FAB_YOKE_EN || s.ledger.yokeLost) then s else s.sendHeader dest h) s

/-- R102: the remote signals held for the step are applied. -/
def State.applySignals (s : State) (step : Nat) : State :=
  let now := s.syn.held.filter (·.step = step)
  let s := { s with syn := { s.syn with held := s.syn.held.filter (·.step ≠ step) } }
  now.foldl (fun s h => s.signal h.ctr h.add) s

/-- R271: a failure record for this run that came before the run did. -/
def State.meetFailure (s : State) : State :=
  match s.run.inbox.find? fun v => v.step = s.stepNum && v.run = s.pos.run && v.stage = 1 && v.body.fail with
  | some v => if s.run.failSent then s else s.failRun v.body
  | none => s

/-- R149: RUNG of the table is the rung of the run, which a later run of a step takes from its header. -/
def State.showRungs (s : State) : State :=
  s.forAll (((s.watch.table.map (·.1)) ++ s.run.hdr.layers.map (·.1)).eraseDups.filter (· < deviceEntry)) fun l s =>
    s.wset l 163 162 (tget (fun _ => 0) s.run.hdr.layers l / 256)

/-- Schedule core 0 issues a run of a step (R23, R130, R276): position, phase, header, held signals; queues may start. -/
def State.issueRun (s : State) (step run : Nat) : State :=
  let s := (((s.wr64 R.HUB_STEP_NUM step).fset F.HUB_STEP_STS_BOUNDARY 0).setPhase 1).fset F.HUB_STEP_STS_PASS 0
  let old (v : VIn) : Bool := v.step < step || (v.step = step && v.run < run)
  let s := { s with
    pos := { s.pos with issued := true, run := run },
    run := { s.run with inbox := s.run.inbox.filter fun v => !old v },
    watch := { s.watch with logged := [] },
    recov := { s.recov with startup := false, recovering := false, aborted := none } }
  let s := s.writeHeader (s.runHeader step run)
  let s := if run = 0 then s else s.showRungs
  ((s.applySignals step).syncPhase).settle.meetFailure

/-- The first run of a step, or a reissued one, begins with no cause but those carried over (R270, R285). -/
def State.issueStep (s : State) (step run : Nat) : State :=
  let s := s.readConfig
  ({ s with run := { RunPart.reset with causes := s.run.carried, inbox := s.run.inbox, wreplays := s.run.wreplays } } : State).issueRun step run

/-- The ring of a queue holds an entry bound to a step (R138). For the host transport, only the entry that has been fetched is known. -/
def State.holdsEntry (s : State) (q step : Nat) : Bool :=
  let x := s.getQ q
  let n := 2 ^ x.sizeLog2
  (List.range ((x.tail + n - x.head % n) % n)).any fun i =>
    match s.fetchMem q (x.base + 16 * ((x.head + i) % n)) 16 with
    | .ok v => (entryOfNat v).step = step
    | .error _ => false

/-- R306, R305: neither STANDBY nor a Yoke link that is still to become active holds the issue. -/
def State.memberReady (s : State) : Bool :=
  !s.rcv.stopped && !(s.rcv.join.takeover.isSome && (match s.rcv.join.takeover, s.pos.lastSealed with | some n, some l => n ≤ l | _, _ => false) && s.portState 6 ≠ 2)

/-- R138: step N + 1 may be issued at the boundary after step N. -/
def State.mayIssue (s : State) (step : Nat) : Bool :=
  s.standsAtBoundary && s.flag F.HUB_SCHED_CTL_RUN && s.flag F.HUB_SEAL_STS_SEALED && s.pos.firstSet && !s.layoutDue && s.recov.aborted.isNone &&
    s.test.running.isNone && s.recov.cur.isNone && s.recov.search.isNone && s.fget F.HUB_PRE_STS_STATE ≠ 2 && s.memberReady && !s.stepsBarred && !s.power.suspect && !s.ostlerStopped &&
    s.queueNumbers.any fun q => (s.getQ q).en && (s.ctxOf q).stepped && s.holdsEntry q step

/-- R276: a run that was rewound may be issued: what it needs has been repaired, no immediate test runs, and the input is not below SUSPECT
(R279, R413, R426). -/
def State.mayReplay (s : State) : Bool :=
  s.inProgress && !s.sealing && !s.pos.issued && s.fget F.HUB_STEP_STS_PHASE = 6 && s.ledger.repairs.isEmpty && s.test.running.isNone &&
    s.test.held.all (fun x => !x.immediate) && !s.power.suspect

/-- A join whose takeover is complete ends with the issue (R305). -/
def State.joinDone (s : State) : State :=
  match s.rcv.join.takeover, s.pos.lastSealed with
  | some n, some l =>
    if n ≤ l then (({ s with rcv := { s.rcv with join := Join.none } }).fset F.HUB_JOIN_STS_ROLE 0).fset F.HUB_JOIN_STS_STATE 0 else s
  | _, _ => s

/-- STEP_ISSUE. -/
def State.stepIssue (s : State) : State :=
  if s.mayReplay then s.readyReplay.issueRun s.stepNum s.pos.run
  else
    let s := s.startTests
    match s.pos.lastSealed with
    | some n => if s.mayIssue (n + 1) then s.joinDone.issueStep (n + 1) s.pos.run else s
    | none => s

def execStepIssue (s : State) : Host.Outcome State Fault Refusal := .next s.stepIssue.actOnHeld.resumeCkpt

/-! ### The boundary (R21 to R24, R137) -/

/-- Every command of the step in the queue has retired: no entry of the step is left in its ring. A queue that stopped on error keeps its refused
entry, whose commands cannot finish the step (R97). -/
def State.queueDone (s : State) (q : Nat) : Bool :=
  let x := s.getQ q
  !x.en || !(s.ctxOf q).stepped || x.mode = .error || x.mode = .reset || !s.holdsEntry q s.stepNum

/-- R21: the sealed step's commands have retired in every queue and none of its transfers is outstanding: no packet, and no completion record of a
stepped context on its way to host memory. -/
def State.boundaryDue (s : State) : Bool :=
  s.sealing && (s.que.flights.all fun f => !(s.getC f.ctx).stepped) && s.queueNumbers.all s.queueDone &&
    (s.cx.pend.all fun p => p.pkt.step ≠ s.stepNum || (s.flight? p.opid).isSome) && s.que.ctxs.all fun c => !c.2.stepped || c.2.crWait.isEmpty


/-- The seven times of R137. -/
def State.writeTimes (s : State) (times : List Nat) : State :=
  s.forAll (List.range 7) fun i s => s.wr (R.HUB_SCHED_T_STEP + 4 * i) (min (times.getD i 0) 0xFFFFFFFF)

/-- The logical coordinate of a takeover moves to the joiner in the map in force. -/
def State.mapJoiner (s : State) : State :=
  let j := s.rcv.join
  let key (x : Nat) : Nat := axisOf x 2 * 4096 + axisOf x 1 * 64 + axisOf x 0
  let zero (_ : Nat) : Word := 0
  let t : Tbl Word :=
    match s.map with
    | some t => t
    | none =>
      (List.range (s.dimOf 2)).flatMap fun z => (List.range (s.dimOf 1)).flatMap fun y => (List.range (s.dimOf 0)).map fun x =>
        (z * 4096 + y * 64 + x, BitVec.ofNat 32 (2 ^ 31 + z * 4096 + y * 64 + x))
  if s.mapCoord j.lcoord = some j.pj then s else { s with map := some (tset zero t (key j.lcoord) (BitVec.ofNat 32 (2 ^ 31 + j.pj))) }

/-- The Yoke port joins another partner: FAB_YOKE is rewritten, and the link trains (R303, R305). -/
def State.yokeTo (s : State) (partner : Nat) : State :=
  let s := (s.fset F.FAB_YOKE_EN 1).fset F.FAB_YOKE_PARTNER partner
  let s := { s with ledger := { s.ledger with yokeLost := false } }
  if s.portState 6 = 4 then s else s.startTraining 6

/-- R305: at the boundary after step N, the target stands down, the partner's Yoke link is switched to the joiner, and the layout that maps L to the
joiner applies. -/
def State.takeOver (s : State) : State :=
  let j := s.rcv.join
  match j.takeover, s.pos.lastSealed with
  | some n, some l =>
    if l < n then s
    else
      let role := s.fget F.HUB_JOIN_STS_ROLE
      let s := (s.mapJoiner.wr R.CXE_EPOCH j.lepoch).forAll (List.range 64) fun c s => s.setC c { s.getC c with epoch := j.lepoch }
      let s := (s.fset F.CXE_NEXT_STS_APPLIED 1).raise 0x08A
      if role = 2 then { s with rcv := { s.rcv with standby := true } }
      else if role = 3 then s.yokeTo j.pj
      else if role = 1 then (s.wr R.CXE_LCOORD j.lcoord).yokeTo j.pp
      else s
  | _, _ => s

/-- STANDBY stops at the boundary (R306), and so does a device whose Ostler has stopped (R17). -/
def State.standDown (s : State) : State :=
  if s.rcv.standby && !s.rcv.stopped then ({ s with rcv := { s.rcv with stopped := true } } : State).setPhase 7
  else if s.ostlerStopped then s.setPhase 7 else s

/-- A new boundary has its whole budget for tests (R425). -/
def State.freshBudget (s : State) : State := { s with test := { s.test with spent := false } }

/-- What a boundary does after a layout change: the ports' retrains (R220), the checkpoint snapshot (R313), the held tests and calibrations (R425). -/
def State.boundaryRest (s : State) : State :=
  if s.layoutDue then s
  else
    let s := if s.recov.cur.isNone then s.retrainPorts else s
    s.boundaryCkpt.freshBudget.startTests

/-- The remounts of the boundary, which wait for a running sequence (R336). -/
def State.boundaryUnits (s : State) : State :=
  if s.recov.cur.isSome then { s with spares := { s.spares with due := true } }
  else ({ s with spares := { s.spares with due := false } } : State).unitsAtBoundary

/-- The device enters the boundary: it is measured, the watch, the spares and the held changes act, and what is to stop stops. -/
def State.enterBoundary (s : State) (times : List Nat) : State :=
  let s := ((s.fset F.HUB_STEP_STS_BOUNDARY 1).fset F.HUB_STEP_STS_PASS 0).writeTimes times
  let s := (s.cleanDepot.updateExponents.applyCommit).raise 0x08C
  let s := ((s.stragglers ((times.drop 7).take 32) (times.getD 39 0)).applyRemaps).boundaryUnits
  let s := s.applyHeld.takeOver.standDown
  s.joinSealed.joinBoundary.boundaryRest.actOnHeld.settle

/-- What has waited at a boundary for a sequence to end (R336). -/
def State.sequenceEnded (s : State) : State :=
  if s.recov.cur.isSome then s
  else
    let s := if s.standsAtBoundary && s.spares.due then s.boundaryUnits else s
    let s := s.applyHeld
    let s := if s.standsAtBoundary && !s.layoutDue then s.retrainPorts else s
    s.startTests.settle

/-- STEP_BOUNDARY, with the times of R137, the measured cycles of the 32 logical cores and their sum in nominal cycles (R300, R301). -/
def execStepBoundary (times : List Nat) (s : State) : Host.Outcome State Fault Refusal :=
  .next (if s.boundaryDue then s.enterBoundary times else s)

/-- LAYOUT_APPLY (R257), after which the boundary goes on. -/
def execLayoutApply (s : State) : Host.Outcome State Fault Refusal :=
  .next (if s.layoutReady then s.applyLayout.boundaryRest.settle else s)

/-! ### The job's first step (R138) -/

/-- SCHED_FIRST_WRITE: the write of the high word of HUB_SCHED_FIRST. -/
def State.writeFirst (s : State) (data : Nat) : State :=
  if s.flag F.HUB_SCHED_CTL_RUN || s.fget F.HUB_STEP_STS_PHASE ≠ 0 then s
  else
    let f := data % 2 ^ 32 * 2 ^ 32 + s.lowWord R.HUB_SCHED_FIRST (s.rd R.HUB_SCHED_FIRST)
    let s := s.dropLow R.HUB_SCHED_FIRST
    if f = 0 then s
    else
      let s := (s.wr64 R.HUB_SCHED_FIRST f).wr64 R.HUB_STEP_NUM (f - 1)
      { s with pos := { s.pos with lastSealed := some (f - 1), firstSet := true, run := 0 } }

def execSchedFirstWrite (data : Nat) (s : State) : Host.Outcome State Fault Refusal := .next (s.writeFirst data)

/-! ### The watch table (R156) -/

def execWatchCapture (s : State) : Host.Outcome State Fault Refusal := .next s.watchCapture

def execWatchCommit (s : State) : Host.Outcome State Fault Refusal := .next s.watchCommit

end Sys2Proof.Machine
end

