-- ==== Sys2Proof/Machine/Dump.lean ====
section
/-! DEFINITION. The dumps of the recovery core (R341, R342, R344) and what a device reset leaves (R25). -/
namespace Sys2Proof.Machine

/-! ### Sections (R342) -/

def dumpSection (type status window addr : Nat) (body : List Byte) : List Byte :=
  leBytes 1 type ++ leBytes 1 status ++ leBytes 2 window ++ leBytes 4 body.length ++ leBytes 8 addr ++ body

/-- The block windows of R444 but for the doorbells. -/
def blockWindows : List Nat := List.range 15 ++ (List.range 4).flatMap fun n => (List.range 5).map fun i => 0x100 + 16 * n + i

/-- The register pages of a domain's blocks: window and page. -/
def dumpPages (d : Nat) : List (Nat × Nat) :=
  (blockWindows.flatMap fun w => (List.range (windowPages w)).map fun p => (w, p)).filter fun x => (pageDomains x.1 x.2).any fun e => domainContains d e

/-- TYPE 0x01: a register page. Of a marked block, the words from some read on are all ones. -/
def State.pageSection (s : State) (w p cut : Nat) : List Byte :=
  let o := w * 65536 + p * 4096
  let marked := s.recov.marked.contains w
  dumpSection 1 (b2n marked) w o ((List.range 1024).flatMap fun i => leBytes 4 (if marked && cut ≤ i then 0xFFFFFFFF else s.regNow (o + 4 * i)))

/-- The queues whose state a domain holds. -/
def State.domainQueues (s : State) (d : Nat) : List Nat :=
  s.queueNumbers.filter fun q => domainContains d 0x41 || domainContains d (0x10 + queueEngine q)

/-- A section whose body the spec gives no layout. -/
def State.openSection (s : State) (type window addr : Nat) : List Byte × State :=
  (dumpSection type 0 window addr (Config.dumpBody type s.free), s.fresh.2)

/-- The carriage-local operands and outputs that a record of a carriage's engine names. -/
def State.operandRanges (s : State) (f : Flight) : List (Nat × Nat) :=
  let w := f.word
  let op := recOpcode w
  let rung := s.rungNow (mxLayer w)
  let mats (ms : List Mat) : List (Nat × Nat) := ms.map fun m => (m.base, m.bytes)
  let v := vxOf rung w
  if op = 0x10 then (let g := gemmOf rung w; gemmIns g w ++ gemmOuts g w)
  else if op = 0x11 then
    let a := attnOf rung w
    mats ([attnQ a w, attnK a w, attnV a w, attnO a w] ++ if a.lse then [attnLse a w] else []) ++
      (if 2 ≤ a.mask then [(addr64 w 427, up64 (2 * a.lq) + 2 * a.lk)] else [])
  else if op = 0x20 then mats (ewIns v w ++ [mkMat (vxD w) v.rows v.cols (fmtD v.dFmt)])
  else if op = 0x21 then
    mats ([mkMat (vxA w) v.rows v.cols (fmtD v.aFmt), mkMat (vxD w) 1 v.outs (fmtD v.dFmt)] ++ if v.accum then [mkMat (vxC w) 1 v.outs .f32] else [])
  else if 0x22 ≤ op && op ≤ 0x24 then mats ([optG w, optW w, optM w, optD w] ++ if op = 0x22 then [optV w] else [])
  else if op = 0x28 then [(vxA w, pcmIn w), ((pcmOut w).base, (pcmOut w).bytes)]
  else if 0x30 ≤ op && op ≤ 0x35 then
    let m := mvOf rung w
    (m.sides.filterMap fun x =>
      if x.space ≠ 1 then none
      else if x.chunk then some (x.mat.base, x.mat.rows * ((x.mat.cols + 255) / 256) * 576)
      else some (x.mat.base, if x.raw then x.mat.rows * x.mat.pitch else x.mat.bytes)) ++ m.index.toList
  else []

/-- TYPE 0x05: the first SAMPLE_KIB of an operand, read by the self-test port, with uncorrectable words as zero. -/
def State.sampleSection (s : State) (n : Nat) (r : Nat × Nat) : List Byte :=
  let len := min r.2 (s.fget F.DMP_CFG_SAMPLE_KIB * 1024)
  let a := localAt n r.1
  dumpSection 5 (if s.rangeUnreadable a len then 3 else 2) 0xFFFF r.1 ((List.range len).map fun i => if s.unreadable (a + i) then 0 else s.byte (a + i))

/-- The samples that the fall-back of R341 takes of a marked matrix block or carriage, for the records in flight of the domain there. -/
def State.samples (s : State) (d : Nat) : List (List Byte) :=
  (List.range 4).flatMap fun n =>
    if domainContains d (0x10 + 3 * n) && (s.recov.marked.contains (0x100 + 16 * n) || s.recov.marked.contains (0x101 + 16 * n)) then
      (s.que.flights.filter fun f => queueEngine f.queue / 3 = n && domainContains d (0x10 + queueEngine f.queue)).flatMap fun f =>
        (s.operandRanges f).map fun r => s.sampleSection n r
    else []

/-- One section of a type for each of a list of places. -/
def State.openSections (s : State) (type window : Nat) (addrs : List Nat) : List (List Byte) × State :=
  addrs.foldl (fun (ss, s) a => let (b, s) := s.openSection type window a; (ss ++ [b], s)) ([], s)

/-- The sections of a domain's dump, in the order of their types. -/
def State.dumpSections (s : State) (d : Nat) (summary : Bool) : List (List Byte) × State :=
  let (cut, s) := s.fresh
  let pages := (dumpPages d).zipIdx.map fun (x : (Nat × Nat) × Nat) => s.pageSection x.1.1 x.1.2 (cut / 1024 ^ x.2 % 1024)
  let qs := s.domainQueues d
  let ctxs := (qs.map fun q => (s.getQ q).ctx).eraseDups
  let mine := s.que.flights.filter fun f => domainContains d (0x10 + queueEngine f.queue)
  let (two, s) := s.openSections 2 3 qs
  let (three, s) := s.openSections 3 2 (if summary then [] else ctxs)
  let (four, s) := s.openSections 4 3 (mine.map (·.rid))
  let five := if summary then [] else s.samples d
  let (six, s) := s.openSections 6 0 [d]
  (pages ++ two ++ three ++ four ++ five ++ six, s)

/-- As many sections from the first on as fit. -/
def fitSections : Nat → List (List Byte) → List (List Byte)
  | _, [] => []
  | room, x :: xs => if x.length ≤ room then x :: fitSections (room - x.length) xs else []

/-- A dump of a domain: its header and sections, in at most `limit` bytes. -/
def State.makeDump (s : State) (d reason tick limit : Nat) (summary : Bool) : List Byte × State :=
  let (ss, s') := s.dumpSections d summary
  let kept := fitSections (limit - 64) ss
  let body := kept.flatten
  let head := leBytes 4 (s.rd R.DMP_SEQ + 1) ++ leBytes 4 (64 + body.length) ++ leBytes 8 s.stepNum ++ leBytes 1 s.pos.run ++ leBytes 1 d ++ leBytes 1 reason ++
    leBytes 1 s.mode ++ leBytes 4 kept.length ++ leBytes 4 s.recov.marked.length ++ leBytes 4 tick ++ List.replicate 32 0
  (head ++ body, s')

/-! ### Storing a dump -/

/-- The area that OUT_EN names: DMP_OUT_SIZE must be a multiple of 16 (R352). -/
def State.dumpSlots (s : State) : Nat := if s.fget F.DMP_OUT_SIZE_MIB % 16 = 0 then s.fget F.DMP_OUT_SIZE_MIB / 16 else 0

/-- The dump is copied out; a write that is refused sets OUT_ERR (R342). -/
def State.copyDump (s : State) (bs : List Byte) : State :=
  let n := s.dumpSlots
  if !s.flag F.DMP_CFG_OUT_EN || n = 0 then s
  else
    let a := s.rd64 R.DMP_OUT_BASE / mib * mib + s.rd R.DMP_SEQ % n * (16 * mib)
    let b := a + bs.length - 1
    let refused := !(isStacked a && isStacked b) || s.inStateRange a bs.length || (s.barred [(a, bs.length)]).isSome || (probes a bs.length).any isReserved
    if refused then s.fset F.DMP_STS_OUT_ERR 1
    else
      let (s, bad) := s.putMem a bs 0
      if bad then s.fset F.DMP_STS_OUT_ERR 1 else s

/-- A collect ends with a dump: the newest four are kept (R342, R352). -/
def State.storeDump (s : State) (bs : List Byte) : State :=
  let dumps := (bs :: s.recov.dumps).take 4
  let s := ({ s with recov := { s.recov with dumps := dumps } } : State).wr R.DMP_SEQ (s.rd R.DMP_SEQ + 1)
  (((s.fset F.DMP_STS_HELD dumps.length).fset F.DMP_STS_MARKED (min s.recov.marked.length 0xFFFE)).fset F.DMP_STS_STATE 0).copyDump bs

/-- The Ostler keeps the two newest summaries in flash (R344). -/
def State.storeSummary (s : State) (reason tick : Nat) : State :=
  let (bs, s) := s.makeDump 0 reason tick 0x40000 true
  { s with mgmt := { s.mgmt with flash := { s.mgmt.flash with dumps := (bs :: s.mgmt.flash.dumps).take 2 } } }

/-! ### The device reset (R25, R343, R344) -/

/-- Registers backed by module flash: the maps of matrix cores, lane groups and decode cores. -/
def flashReg (k : Nat) : Bool :=
  [R.CAR_CORE_MAP, R.CAR_CORE_STS, R.CAR_VX_MAP, R.CAR_VX_MAP0, R.CAR_VX_MAP1, R.CAR_VX_MAP2, R.CAR_VX_MAP3, R.IXE_STS].contains (baseReg k)

/-- What the comparators and clock monitors of the new start see: levels and causes that still hold, inputs that are good. -/
def State.keepSensed (s old : State) : State :=
  let cause := old.rd R.PWR_THROT_STS &&& 0x70000000
  let s := s.wr R.PWR_THROT_STS (cause + (if cause = 0 then 0 else 2 ^ 31))
  let s := (s.fset F.PWR_STS_SUPPLY (old.fget F.PWR_STS_SUPPLY)).wr R.CLK_STS (old.rd R.CLK_STS &&& 0xE0000000)
  (s.setLevel 0x085 (old.fget F.PWR_STS_SUPPLY ≠ 0)).setLevel 0x087 (old.flag F.PWR_THROT_STS_TEMP)

/-- Everything goes back to its reset state but what flash holds (unit history, maps, remap tables, retired pages, reset counts, log, bundles and
summaries), what sensors go on to show, and what is outside: messages sent and commands that wait. Poison marks go with the contents of
memory, and the security engine makes new memory keys (R186). -/
def State.deviceReset (s : State) (reason : Nat) : State :=
  let z := State.reset
  let s := s.logRec 3 s.stepNum (reason * 256)
  ({ z with
    regs := s.regs.filter fun p => flashReg p.1,
    mpart := { z.mpart with remap := s.mpart.remap.map fun (r : Remap) => { r with poison := 0 }, retired := s.mpart.retired, deadRows := s.mpart.deadRows,
                            era := s.mpart.era + 1 },
    spares := { z.spares with standin := s.spares.standin },
    recov := { z.recov with total := tset (fun _ => 0) s.recov.total 0 (tget (fun _ => 0) s.recov.total 0 + 1) },
    power := { z.power with suspect := s.power.suspect, spike := s.power.spike, low := s.power.low, off := s.power.off,
                            limit := s.fget F.HUB_RST_CFG_DEV_LIMIT },
    mgmt := { z.mgmt with flash := s.mgmt.flash, kem := some s.mgmt.pairs, pairs := s.mgmt.pairs + 1, chals := s.mgmt.chals },
    history := s.history, log := s.log, out := s.out, free := s.free, pending := s.pending } : State).keepSensed s

end Sys2Proof.Machine
end

