-- ==== Sys2Proof/Machine/Recovery.lean ====
section
/-! DEFINITION. The recovery core (14): watchdogs (R337 to R339), fence, collect and reset sequences (R340 to R345), the suspect search (R346),
requests of software (R351, R448, R449), and the reissue of an aborted step (R350). -/
namespace Sys2Proof.Machine

/-! ### Watchdogs (R337, R339) -/

/-- The queues of an engine whose first unstarted record is eligible in every respect except the free unit. -/
def State.eligibleQueues (s : State) (e : Nat) : List Nat :=
  s.queueNumbers.filter fun q => queueEngine q = e && s.engineOpen e && (s.eligible q).isSome

def State.engineFlights (s : State) (e : Nat) : List Flight := s.que.flights.filter fun f => queueEngine f.queue = e

/-- The hang set (R346): the started records of an engine, and the first unstarted ones that the watchdog counts, by ascending context. -/
def State.hangSetOf (s : State) (e : Nat) : List Flight :=
  let first (q : Nat) : Option Flight := (s.eligible q).map fun w => { s.newFlight 0 q w ((s.freeUnit e w).getD noUnit) with inj := none }
  (s.engineFlights e ++ (s.eligibleQueues e).filterMap first).mergeSort fun a b => a.ctx ≤ b.ctx

/-- A started record of CX or LX waits on a peer: for CX_READY, a ring step, an answer, or a digest. -/
def State.waitsOnPeer (s : State) (f : Flight) : Bool :=
  f.resp.isNone &&
    (s.cx.ops.any (·.rid = f.rid) || s.cx.pend.any (·.opid = f.rid) || s.cx.sigWait.contains f.rid ||
      s.ledger.windows.any (fun w => w.rid = f.rid && (w.digested || w.fetching)) || s.ckpt.rid = some f.rid)

/-- A record that waits on a peer ends with RESPONSE_TIMEOUT. -/
def State.timeOut (s : State) (f : Flight) : State := if s.ckpt.rid = some f.rid then s.failGen 0x23 else s.endOp f.rid 0x23 0

/-- The queue that a capture of an engine's expiry names. -/
def State.engineQueue (s : State) (e : Nat) : Nat := ((s.engineFlights e).map (·.queue) ++ s.eligibleQueues e).headD 0

/-- A record that a search runs again has hung: its context is guilty, and the rest of its hang set does not run (R346). -/
def State.suspectHung (s : State) (x : Search) (e : Nat) : State :=
  let c := x.cur.getD 0
  let s := (s.discard (·.suspect)).setC c { s.getC c with mark := .guilty }
  ({ s with recov := { s.recov with search := some { x with guilty := x.guilty ++ [c], left := x.left.filter fun f => f.ctx ≠ c } } } : State).requestSeq
    (0x10 + e) false 1

/-- An LX_VERDICT of the queue waits for its group result (R275). -/
def State.verdictWaits (s : State) (q : Nat) : Bool :=
  s.que.flights.any fun f => f.queue = q && queueEngine q = 14 && recOpcode f.word = 0x62 && f.resp.isNone

/-- ENGINE_PROGRESS_EXPIRE. An LX_VERDICT that waits for its group result is timed as a sync wait (R275). -/
def State.engineExpired (s : State) (e : Nat) : State :=
  let fs := (s.engineFlights e).filter fun f => !(e = 14 && recOpcode f.word = 0x62 && f.resp.isNone)
  if fs.isEmpty && (s.eligibleQueues e).isEmpty then s
  else
    let s := s.wdExpire 0 (s.engineQueue e) 0
    match (s.recov.search.filter (·.engine = e)) with
    | some x => s.suspectHung x e
    | none =>
      if (e = 12 || e = 14) && !fs.isEmpty && fs.all s.waitsOnPeer then
        let s := (fs.filter fun f => !(s.getC f.ctx).stepped).foldl (fun s f => s.timeOut f) s
        if fs.any (fun f => (s.getC f.ctx).stepped) then s.stepAbort 2 0xFF else s
      else ({ s with recov := { s.recov with hangSet := s.hangSetOf e } } : State).requestSeq (0x10 + e) false 1

def execEngineProgressExpire (engine : Nat) (s : State) : Host.Outcome State Fault Refusal :=
  .next (if engine < 16 && !s.fenced (0x10 + engine) then (s.engineExpired engine).settle else s)

/-- The counter that a queue's first unstarted record waits on, its wait unmet. -/
def State.unmetWait (s : State) (q : Nat) : Option Nat :=
  let x := s.getQ q
  if !s.firstReady q || !x.checked || x.waitMet then none
  else match s.recordAt q x.first with
    | .ok w => some (recWaitCtr w)
    | .error _ => none

/-- SYNC_WAIT_EXPIRE. -/
def State.syncExpired (s : State) (q : Nat) : State :=
  match s.unmetWait q with
  | some c =>
    let s := s.wdExpire 1 q c
    if (s.ctxOf q).stepped then s.stepAbort 3 0xFF else s.setQ q { s.getQ q with mode := .stop }
  | none => if s.verdictWaits q then (s.wdExpire 1 q 0).stepAbort 3 0xFF else s

def execSyncWaitExpire (queue : Nat) (s : State) : Host.Outcome State Fault Refusal := .next (s.syncExpired queue).settle

/-- FABRIC_RESPONSE_EXPIRE: the packets of an operation, or the digest of a window (by its record), have had no final answer. -/
def State.fabricExpired (s : State) (opid : Nat) : State :=
  let queue := match s.flight? opid with | some f => f.queue | none => 0
  match s.ledger.windows.find? fun w => w.rid = opid && w.digested && !w.fetching with
  | some w => (s.wdExpire 2 queue 0).closeWin w 0x33 0
  | none => if s.cx.pend.any (·.opid = opid) then (s.wdExpire 2 queue 0).endOp opid 0x23 0 else s

def execFabricResponseExpire (opid : Nat) (s : State) : Host.Outcome State Fault Refusal := .next (s.fabricExpired opid).settle

/-- PEER_TIMEOUT (R221, R305): a port that trains outside normal service goes out of service with the cause of its last attempt; a joiner whose
Yoke link has not become active reports that its join has failed. -/
def State.peerExpired (s : State) (port : Nat) : State :=
  let joining := port = 6 && s.rcv.join.takeover.isSome && s.portState 6 ≠ 2
  let training := s.portState port = 1 && s.mode ≠ 1
  if !joining && !training then s
  else
    let s := s.wdExpire 3 0 0
    let s := if joining && s.fget F.HUB_JOIN_STS_ROLE = 1 then s.fset F.HUB_JOIN_STS_STATE 4 else s
    if training then s.portOut port (s.fget (F.FAB_PORT_STS_CAUSE.page port)) else s

def execPeerTimeout (port : Nat) (s : State) : Host.Outcome State Fault Refusal := .next (if port < 7 then (s.peerExpired port).settle else s)

/-! ### The fence (R340) -/

/-- The memory that a record of CX or the host transport reads or writes while it runs lies in a fenced domain. -/
def State.workFenced (s : State) (f : Flight) : Bool :=
  if queueEngine f.queue = 15 then s.host.copies.any (·.rid = f.rid) && s.rangeFenced (htDev f.word) (htLen f.word)
  else queueEngine f.queue = 12 && f.resp.isNone && s.cx.begun.any (·.1 = f.rid) && (s.cxRanges f.word).any fun r => s.rangeFenced r.1 r.2

/-- Every request still inside the domain is answered FENCED. -/
def State.answerFenced (s : State) : State :=
  let fs := s.que.flights.filter fun f => !s.halted (queueEngine f.queue) && s.workFenced f
  fs.foldl (fun s f => if queueEngine f.queue = 15 then s.endCopying f.rid 0x19 0 else s.endOp f.rid 0x19 0) s

/-- The sequence of a domain reaches its collect. -/
def State.drain (s : State) (d : Nat) : State :=
  let go (q : Seqn) : Seqn := if q.domain = d && q.stage = 1 then { q with stage := 2 } else q
  match s.sequences.find? fun q => q.domain = d && q.stage = 1 with
  | none => s
  | some _ =>
    let running : Bool := match s.recov.cur with | some q => q.domain = d | none => false
    let s := { s with recov := { s.recov with cur := s.recov.cur.map go, waiting := s.recov.waiting.map go } }
    let s := s.answerFenced
    if running then ((s.setDomainStates d 2).fset F.HUB_RST_STS_SEQ 2).fset F.DMP_STS_STATE 1 else s

/-- FENCE_DRAIN_EXPIRE: 100 µs after a fence, it is complete. -/
def execFenceDrainExpire (domain : Nat) (s : State) : Host.Outcome State Fault Refusal := .next (s.drain domain).settle

/-! ### The reset (R123, R343) -/

/-- An engine's records in flight are discarded, with ABORTED completion records for those of unstepped contexts, whose queues show it (R106, R123). -/
def State.abortFlights (s : State) (e : Nat) : State :=
  let fs := (s.engineFlights e).filter fun f => !f.suspect && !(s.getC f.ctx).stepped
  let s := fs.foldl (fun s f => (s.complete f.ctx f.step f.entry f.idx f.queue (recTag f.word) 0x16 0 true).noteResp f.queue 0x16 0) s
  s.discard fun f => queueEngine f.queue = e

/-- A queue enters state 6. -/
def State.resetQueue (s : State) (q : Nat) : State :=
  let x := s.getQ q
  s.setQ q { x with
    en := false, mode := .reset, head := 0, tail := 0, safe := 0, bhead := 0, next := 0, ended := 0, entryOk := false, checked := false, waitMet := false,
    failed := [], redo := [], host := [], got := 0, fetching := false }

/-- Every queue of the engines es enters state 6 (R123): those that are listed, and with them all others. -/
def State.sweepQueues (s : State) (es : List Nat) : State :=
  let s := { s with que := { s.que with swept := s.que.swept ++ es.filter fun e => !s.que.swept.contains e } }
  s.forAll (s.queueNumbers.filter fun q => es.contains (queueEngine q)) fun q s => s.resetQueue q

/-- What the hub engines hold of their own is lost with them. -/
def State.dropEngineState (s : State) (e : Nat) : State :=
  if e = 12 then
    { s with cx := { s.cx with ops := [], readies := [], sigWait := [], pend := s.cx.pend.filter fun p => isLedgerType p.pkt.ptype } }
  else if e = 14 then
    let s := { s with cx := { s.cx with pend := s.cx.pend.filter fun p => !isLedgerType p.pkt.ptype } }
    let busy := s.ckState = 1 || s.ckState = 2 || s.ckState = 7
    let s := if s.ckState = 6 then s.setCk s.ckpt.back else if busy then s.setCk 5 else s
    { s with ckpt := { s.ckpt with rid := none, held := [], red := none, inbox := [], uncopied := [], taken := [], bad := s.ckpt.bad || busy } }
  else if e = 15 then { s with host := { s.host with copies := [], reqs := s.host.reqs.filter fun r => match r.kind with | .compl _ => true | _ => false } }
  else s

/-- An engine domain's reset; EN of its block returns to 1 (R448). -/
def State.resetEngine (s : State) (e : Nat) : State :=
  let s := (s.abortFlights e).dropEngineState e
  let s := s.sweepQueues [e]
  match domainWindow (0x10 + e) with
  | some w => s.wr (w * 65536 + R.BLK_CTL) 0x80000000
  | none => s

/-- A carriage's scratchpads and buffer lose what they hold, and its controller, started again, runs (R16, R17). -/
def State.resetCarriage (s : State) (n : Nat) : State :=
  let inside (a : Nat) : Bool := 2 ^ 48 * (n + 1) ≤ a && a < 2 ^ 48 * (n + 2)
  let s := { s with mem := tclear s.mem inside, mpart := { s.mpart with words := tclear s.mpart.words fun w => inside (4 * w) } }
  s.fset (coreField n) 2

/-- The controller of a carriage whose domain is being reset is starting (R16, R17). -/
def State.restartCore (s : State) (d : Nat) : State := if 1 ≤ d && d ≤ 4 then s.fset (coreField (d - 1)) 1 else s

/-- The pseudo-channels of a stack train (R179), but for those out of service (R181). -/
def State.trainStack (s : State) (stack : Nat) : State :=
  s.forAll (List.range 32) fun p s =>
    let k := pchKey stack p
    if bits (s.pchSts k) 31 29 = 4 then s else s.setPch k (setBits (s.pchSts k) 31 29 1)

/-- Those that no failed pin has been reported for have trained as they were. -/
def State.stackTrained (s : State) (stack : Nat) : State :=
  s.forAll (List.range 32) fun p s => if bits (s.pchSts (pchKey stack p)) 31 29 = 1 then s.pchTrain stack p [] else s

/-- A port loses its replay buffer and starts a new key generation at its next training (R233), which EN = 0 keeps from beginning (R238). -/
def State.resetPort (s : State) (p : Nat) : State :=
  let s := s.dropWaiting p
  let l := s.getLink p
  let s := s.setLink p { l with unacked := [], resends := 0, nakOut := false, txPctr := 0, newKey := true, rxPctr := none, viol := 0, fails := 0, credits := [], owed := [] }
  (s.wr (pageReg R.FAB_KEY_GEN p) (s.rd (pageReg R.FAB_KEY_GEN p) + 1)).enterTraining p

/-- The depot loses every line, and what its scratchpad-mode slices hold. -/
def State.resetDepot (s : State) : State := s.loseDepot.forAll ((List.range 64).filter s.sliceScratch) fun i s => s.clearSlice i

/-- SYN and QUE lose counters, boundary copies, the pending store and all queue state. -/
def State.resetSynQue (s : State) : State :=
  let s := s.discard fun _ => true
  let s := { s with syn := { ctr := [], bound := [], held := [] } }
  s.sweepQueues (List.range 16)

/-- What one domain loses and re-initialises; the device's own reset is deviceReset. Every smaller reset but the depot's own discards the depot's
clean lines and writes its dirty ones back (R25). -/
def State.resetDomain (s : State) (d : Nat) : State :=
  let s := if d = 0x40 then s else s.flushDepot
  if 1 ≤ d && d ≤ 4 then s.resetCarriage (d - 1)
  else if 0x10 ≤ d && d ≤ 0x1F then s.resetEngine (d - 0x10)
  else if 0x20 ≤ d && d ≤ 0x26 then s.resetPort (d - 0x20)
  else if 0x30 ≤ d && d ≤ 0x37 then s.stackTrained (d - 0x30)
  else if d = 0x40 then s.resetDepot
  else if d = 0x41 then s.resetSynQue
  else if d = 0x42 then s.resetIcu
  else if d = 0x43 then (s.fset F.UCI_STS_LINK 0).hostDown
  else if d = 0x44 then s.fset F.DMP_STS_STATE 0
  else s

/-- Captures and pending low words of the domain's register pairs go (R8). -/
def State.dropPairs (s : State) (d : Nat) : State :=
  let mine (o : Nat) : Bool := (pageDomains (offWindow o) (offPage o)).any fun e => domainContains d e
  { s with pairs := { caps := s.pairs.caps.filter fun p => !mine p.1, lows := s.pairs.lows.filter fun p => !mine p.1 } }

/-- The search of R346 begins, after a reset under ENGINE_HANG. -/
def State.startSearch (s : State) (e : Nat) : State :=
  let fs := s.recov.hangSet
  let s := { s with recov := { s.recov with hangSet := [] } }
  if !s.flag F.HUB_RST_CTL_SUSPECT_EN || e = 12 || e = 14 || fs.isEmpty then s
  else { s with recov := { s.recov with search := some { engine := e, cur := none, left := fs, guilty := [] } } }

/-- A search begins after a reset under ENGINE_HANG; one that is on goes on after any reset, which may have discarded its re-run. -/
def State.searchAfter (s : State) (q : Seqn) : State :=
  let s := if q.reason = 1 && 0x10 ≤ q.domain && q.domain ≤ 0x1F && s.recov.search.isNone then s.startSearch (q.domain - 0x10) else s
  let s := if s.recov.search.isSome && s.recov.cur.isNone then s.fset F.HUB_RST_STS_SEQ 4 else s
  s.searchNext

/-- DOMAIN_RESET_COMPLETE: the domain and all that it contains have lost what R343 states, and serve again. -/
def State.domainReset (s : State) : State :=
  match s.recov.cur with
  | none => s
  | some q =>
    if q.stage ≠ 3 then s
    else
      let s := ((s.forAll (subDomains q.domain) fun d s => s.resetDomain d).dropPairs q.domain).setDomainStates q.domain 0
      let s := s.nextSeq 0
      (s.searchAfter q).sequenceEnded.settle

def execDomainResetComplete (s : State) : Host.Outcome State Fault Refusal := .next s.domainReset

/-! ### The collect (R341, R342, R344, R345) -/

/-- The resets of a domain, this one included. -/
def State.countReset (s : State) (d recent : Nat) : State :=
  { s with recov := { s.recov with
    total := tset (fun _ => 0) s.recov.total d (tget (fun _ => 0) s.recov.total d + 1), recent := tset (fun _ => 0) s.recov.recent d (recent + 1) } }

/-- R345: the reset would be the DOM_LIMIT-th within the window, `recent` having come before. -/
def State.atLimit (s : State) (recent : Nat) : Bool := s.fget F.HUB_RST_CFG_DOM_LIMIT ≠ 0 && s.fget F.HUB_RST_CFG_DOM_LIMIT ≤ recent + 1

/-- A sequence is a re-run's of the suspect search. -/
def State.searchReset (s : State) (q : Seqn) : Bool := q.reason = 1 && (match s.recov.search with | some x => q.domain = 0x10 + x.engine | none => false)

/-- What follows the collect: the domain is held, the device is reset or held for ACK, the domain goes out of service, or is reset. -/
def State.afterCollect (s : State) (q : Seqn) (tick recent : Nat) : State :=
  if q.hold then
    (({ s with recov := { s.recov with held := q.domain :: s.recov.held } } : State).setDomainStates q.domain 4).nextSeq 5 |>.sequenceEnded.settle
  else if q.domain = 0 then
    let s := s.storeSummary q.reason tick
    if s.fget F.DMP_CFG_HOLD_MS ≠ 0 && s.flag F.DMP_CFG_OUT_EN then
      ({ s with recov := { s.recov with devReset := some q.reason } } : State).fset F.DMP_STS_STATE 3
    else s.deviceReset q.reason
  else if !s.searchReset q && s.atLimit recent then ((s.outOfService q.domain).nextSeq 6).sequenceEnded.settle
  else
    let s := if s.searchReset q then s else s.countReset q.domain recent
    let s := { s with recov := { s.recov with cur := some { q with stage := 3 } } }
    let s := s.forAll ((subDomains q.domain).filter fun d => 0x30 ≤ d && d ≤ 0x37) fun d s => s.trainStack (d - 0x30)
    ((s.restartCore q.domain).setDomainStates q.domain 3).fset F.HUB_RST_STS_SEQ 3

/-- COLLECT_COMPLETE: the dump is stored, unless the dump engine is out of service. `recent` resets of the domain lie within its window. -/
def execCollectComplete (tick recent : Nat) (s : State) : Host.Outcome State Fault Refusal :=
  .next (match s.recov.cur with
    | some q =>
      if q.stage ≠ 2 || s.recov.devReset.isSome then s
      else
        let s :=
          if s.domOos 0x44 then s.fset F.DMP_STS_STATE 0
          else (let (bs, s) := s.makeDump q.domain q.reason tick (16 * mib) false; s.storeDump bs)
        s.afterCollect q tick recent
    | none => s)

/-- DUMP_READ_TIMEOUT: a block does not answer; it is marked and read no further. -/
def execDumpReadTimeout (window : Nat) (s : State) : Host.Outcome State Fault Refusal :=
  .next (match s.recov.cur with
    | some q =>
      if q.stage ≠ 2 || windowPages window = 0 || s.recov.marked.contains window then s
      else { s with recov := { s.recov with marked := s.recov.marked ++ [window] } }
    | none => s)

/-- The reset of the dump engine that ends a collect (R341). -/
def State.resetDumper (s : State) (recent : Nat) : State :=
  if s.atLimit recent then s.outOfService 0x44 else ((s.countReset 0x44 recent).resetDomain 0x44).dropPairs 0x44

/-- COLLECT_ABANDON: the sequence goes on without a dump. -/
def execCollectAbandon (recent dumpRecent : Nat) (s : State) : Host.Outcome State Fault Refusal :=
  .next (match s.recov.cur with
    | some q =>
      if q.stage ≠ 2 || s.recov.devReset.isSome then s
      else (((s.resetDumper dumpRecent).fset F.DMP_STS_MARKED 0xFFFF).fset F.DMP_STS_STATE 0).afterCollect q 0 recent
    | none => s)

/-- A held device reset goes on. -/
def State.endHold (s : State) : State :=
  match s.recov.devReset with
  | some reason => s.deviceReset reason
  | none => s

def execDumpAck (s : State) : Host.Outcome State Fault Refusal := .next s.endHold

/-- DUMP_HOLD_EXPIRE: HOLD_MS has passed. -/
def execDumpHoldExpire (s : State) : Host.Outcome State Fault Refusal := .next s.endHold

/-! ### Requests (R335, R351, R448, R449) -/

/-- Host software does not request the host attachment and the dump engine (R335). -/
def mayRequest (a : Agent) (d : Nat) : Bool := a = .firmware || !(d = 0x43 || d = 0x44)

/-- Fence, collect and reset. A device reset first sends ABORT with DEVICE_RESET in normal service (R344). -/
def State.askReset (s : State) (a : Agent) (d : Nat) : State :=
  if !mayRequest a d then s
  else if d = 0 then (s.stepAbort 0x0B 0).requestSeq 0 false 0x0B
  else s.requestSeq d false 0x0A

def State.askFence (s : State) (a : Agent) (d : Nat) : State := if mayRequest a d then s.requestSeq d true 0x0A else s

/-- A domain held fenced serves again, without a reset; its ports train. -/
def State.releaseDomain (s : State) (a : Agent) (d : Nat) : State :=
  if !mayRequest a d || !s.recov.held.contains d then s
  else
    let s := ({ s with recov := { s.recov with held := s.recov.held.filter (· ≠ d) } } : State).setDomainStates d 0
    let s := if s.recov.cur.isNone then s.fset F.HUB_RST_STS_SEQ 0 else s
    s.forAll ((subDomains d).filter fun e => 0x20 ≤ e && e ≤ 0x26) fun e s => if s.portState (e - 0x20) = 4 then s.enterTraining (e - 0x20) else s

def execRstFenceCollectReset (a : Agent) (domain : Nat) (s : State) : Host.Outcome State Fault Refusal := .next (s.askReset a domain).settle

def execRstFenceHold (a : Agent) (domain : Nat) (s : State) : Host.Outcome State Fault Refusal := .next (s.askFence a domain).settle

def execRstRelease (a : Agent) (domain : Nat) (s : State) : Host.Outcome State Fault Refusal := .next (s.releaseDomain a domain).settle

/-- DISCARD_TIMEOUT (R347): an engine that has not discarded its records 1 ms after an abort. -/
def execDiscardTimeout (engine : Nat) (s : State) : Host.Outcome State Fault Refusal :=
  .next (
    if engine < 16 && s.recov.aborted.isSome && !s.fenced (0x10 + engine) then
      (({ s with recov := { s.recov with hangSet := s.hangSetOf engine } } : State).requestSeq (0x10 + engine) false 1).settle
    else s)

/-- The domains that a page's BLK_CTL acts on. -/
def ctlDomains (off : Nat) : List Nat := if offPage off < windowPages (offWindow off) then pageDomains (offWindow off) (offPage off) else []

/-- BLK_RESET_REQ: BLK_CTL at an offset, with RESET_REQ. -/
def State.ctlReset (s : State) (a : Agent) (off : Nat) : State := (ctlDomains off).foldl (fun s d => s.askReset a d) s

/-- BLK_FENCE_REQ: in HUB it is discarded. -/
def State.ctlFence (s : State) (a : Agent) (off : Nat) : State := if offWindow off = 0 then s else (ctlDomains off).foldl (fun s d => s.askFence a d) s

def execBlkResetReq (a : Agent) (off : Nat) (s : State) : Host.Outcome State Fault Refusal := .next (s.ctlReset a off).settle

def execBlkFenceReq (a : Agent) (off : Nat) (s : State) : Host.Outcome State Fault Refusal := .next (s.ctlFence a off).settle

/-- Windows of the engine blocks, whose EN acts (R448). -/
def isEngineWindow (w : Nat) : Bool := (4 ≤ w && w ≤ 6) || (0x100 ≤ w && w < 0x140 && 1 ≤ w % 16 && w % 16 ≤ 3)

/-- EN of an engine block; BLK_STS shows the hold while nothing else does. -/
def State.ctlEnable (s : State) (off data : Nat) : State :=
  let w := offWindow off
  if !isEngineWindow w || windowPages w ≤ offPage off then s
  else
    let s := s.wr (w * 65536 + R.BLK_CTL) (bits data 31 31 * 2 ^ 31)
    let now := s.rd (w * 65536 + R.BLK_STS) / 2 ^ 29
    let next := if bit data 31 then 0 else 6
    if (now = 0 || now = 6) && now ≠ next then (s.wr (w * 65536 + R.BLK_STS) (next * 2 ^ 29)).event w 16 else s

def execBlkEngineEn (off data : Nat) (s : State) : Host.Outcome State Fault Refusal := .next (s.ctlEnable off data).settle

/-- BLK_EVT_SET sets event bits 4 to 0 as real events would. -/
def State.evtSet (s : State) (off data : Nat) : State :=
  let w := offWindow off
  if 0x300 ≤ w || windowPages w ≤ offPage off then s else s.event w (data % 32)

def execBlkEvtSet (off data : Nat) (s : State) : Host.Outcome State Fault Refusal := .next (s.evtSet off data)

/-! ### Reissue (R350) -/

/-- A reissue of step p is refused: p is not the aborted step, a window of it has committed here, its run was 15, or a domain out of service stops
stepped work. An abort for pre-emption is ended by RELEASE (R328). -/
def State.reissueRefused (s : State) (p : Nat) : Bool :=
  s.recov.aborted ≠ some p || s.flag F.HUB_ABORT_STS_COMMITTED || 15 < s.pos.run || s.stepsBarred || s.fget F.HUB_ABORT_STS_REASON = 7

/-- What holds any issue of a run: a sequence (R336) with its search (R346), a test (R425), the input below SUSPECT (R413), a layout change that is due (R257). -/
def State.issueHeld (s : State) : Bool := s.recov.cur.isSome || s.recov.search.isSome || s.layoutDue || s.test.running.isSome || s.power.suspect

/-- The aborted step is issued as its next run; what holds every issue leaves it to the schedule core. -/
def State.reissue (s : State) (p : Nat) : State :=
  let s := { s with recov := { s.recov with reissued := some (p, s.pos.run), aborted := none } }
  if s.issueHeld then s else s.issueStep p s.pos.run

/-- ABORT_CTL_REISSUE. -/
def execAbortCtlReissue (s : State) : Host.Outcome State Fault Refusal :=
  .next (let p := s.rd64 R.HUB_ABORT_STEP; if s.reissueRefused p then s else s.reissue p)

end Sys2Proof.Machine
end

