-- ==== Sys2Proof/Machine/Membership.lean ====
section
/-! DEFINITION. Membership (12_spares_and_membership, R302 to R310): the recovery commands of the job manager, their epochs and sequence numbers,
votes, and joins. -/
namespace Sys2Proof.Machine

/-! ### Answers (R307 to R309) -/

/-- A recovery command is answered with a response of R309. -/
def State.answer (s : State) (m : GMsg) (resp : Nat) : State :=
  ((s.fset F.HUB_RCV_STS_RCMD (m.cmd 7 0)).fset F.HUB_RCV_STS_RESP resp).reply m 0x10 0 (leBytes 8 resp)

/-- HUB_RCV_STS shows how many votes are held. -/
def State.showVotes (s : State) : State :=
  s.fset F.HUB_RCV_STS_VOTES (min 255 ((s.rcv.votes.map fun v => v.voters.length).foldl (· + ·) 0))

/-- The join ends as a cancel ends it, and the device has no role. -/
def State.cancelJoin (s : State) : State := s.endJoin.wr R.HUB_JOIN_STS 0

/-- A new recovery epoch: the recovery of the old one is abandoned (R307). Votes that are held still expire (R308). -/
def State.newEpoch (s : State) (c : Nat) : State :=
  let s := if s.fget F.HUB_JOIN_STS_ROLE ≠ 0 then s.cancelJoin else s
  let s := { s with rcv := { s.rcv with answers := [], opened := false } }
  (s.wr R.HUB_RCV_EPOCH c).wr R.HUB_RCV_SEQ 0

/-- A command of the next SEQ has been applied, or refused with BAD_STATE: its response is stored. -/
def State.store (s : State) (m : GMsg) (resp : Nat) : State :=
  let a := (m.rSeq, Config.sha256 (m.body.take 64), resp)
  ({ s with rcv := { s.rcv with answers := (a :: s.rcv.answers).take 16 } } : State).wr R.HUB_RCV_SEQ m.rSeq

/-- A SEQ that has been applied is answered from the store, and nothing is applied. -/
def State.reanswer (s : State) (m : GMsg) : State :=
  match s.rcv.answers.find? (·.1 = m.rSeq) with
  | some a => s.answer m (if a.2.1 = Config.sha256 (m.body.take 64) then a.2.2 else 4)
  | none => s.answer m 5

/-- A command of the next SEQ acts, and is stored unless it is refused with BAD_FIELD. -/
def State.applyCmd (s : State) (m : GMsg) (g : State → State × Nat) : State × Nat :=
  let (s, r) := g s
  (if r = 0 || r = 9 then s.store m r else s, r)

/-! ### Votes (R308) -/

/-- N and K serve: N is the number of registered managers (R399), and K more than half of it and no more than it. -/
def State.quorumOk (s : State) : Bool :=
  let n := s.fget F.HUB_RCV_CFG_N
  let k := s.fget F.HUB_RCV_CFG_K
  (match s.mgmt.job with | some j => j.managers.length = n | none => false) && n < 2 * k && k ≤ n

/-- One more vote for a body; the K-th applies it, and every voter receives the response. -/
def State.castVote (s : State) (m : GMsg) (g : State → State × Nat) : State :=
  let body := m.body.take 64
  let v := (s.rcv.votes.find? (·.body = body)).getD { body := body, voters := [] }
  let voters := v.voters.filter (·.1 ≠ m.signer) ++ [(m.signer, m)]
  let others := s.rcv.votes.filter (·.body ≠ body)
  if s.fget F.HUB_RCV_CFG_K ≤ voters.length then
    let s := ({ s with rcv := { s.rcv with votes := others } } : State).showVotes
    let (s, r) := s.applyCmd m g
    voters.foldl (fun s x => s.answer x.2 r) s
  else (({ s with rcv := { s.rcv with votes := { v with voters := voters } :: others } } : State).showVotes).answer m 1

/-- VOTE_EXPIRED: a body still short of K, whose bytes are a number, is answered, and its votes go. -/
def State.voteExpired (s : State) (body : Nat) : State :=
  let due (v : Vote) : Bool := leNat v.body = body
  let gone := s.rcv.votes.filter due
  let s := ({ s with rcv := { s.rcv with votes := s.rcv.votes.filter fun v => !due v } } : State).showVotes
  gone.foldl (fun s v => v.voters.foldl (fun s x => s.answer x.2 8) s) s

def execVoteExpired (low high : Nat) (s : State) : Host.Outcome State Fault Refusal := .next (s.voteExpired (low + 2 ^ 256 * high))

/-! ### Handling a command (R306 to R308, R395) -/

/-- A command whose signature has passed, under its epoch and SEQ. `voted` says that R308 asks for a quorum of it. -/
def State.inOrder (s : State) (m : GMsg) (voted : Bool) (g : State → State × Nat) : State :=
  let e := s.rd R.HUB_RCV_EPOCH
  if m.rEpoch < e then s.answer m 2
  else
    let s := if e < m.rEpoch then s.newEpoch m.rEpoch else s
    let n := s.rd R.HUB_RCV_SEQ
    if m.rSeq ≤ n then s.reanswer m
    else if m.rSeq ≠ n + 1 then s.answer m 3
    else if voted && !s.quorumOk then s.answer m 0xB
    else if voted && s.flag F.HUB_RCV_CFG_POLICY then s.castVote m g
    else
      let (s, r) := s.applyCmd m g
      s.answer m r

/-- A RECOVERY request of an RCMD: the registry and the signature come first, then the body's fields. -/
def State.recovery (s : State) (m : GMsg) (rcmd : Nat) (voted : Bool) (g : State → State × Nat) : State :=
  s.request m 0x10 false true (m.plainLen = 17160) (key := 0x10 + 256 * rcmd) fun s =>
    let n := match s.mgmt.job with | some j => j.managers.length | none => 0
    if n ≤ m.signer then s.answer m 7
    else if !m.proofOk then s.answer m 6
    else if m.cmd 7 0 ≠ rcmd || !m.rFieldsOk then s.answer m 0xA
    else (s.inOrder m voted g).settle

/-! ### The commands -/

/-- The first EXPEL, JOIN_LOAD or ABORT_STEP of a recovery epoch begins recovery mode (R338). -/
def State.openRecovery (s : State) : State :=
  if s.rcv.opened then s else { s with rcv := { s.rcv with opened := true }, recov := { s.recov with recovering := true } }

/-- EXPEL: packets from PT are dropped from now on; a yoke partner is lost (R287). -/
def State.expel (s : State) (pt : Nat) : State × Nat :=
  let s := { s with rcv := { s.rcv with expelled := if s.rcv.expelled.contains pt then s.rcv.expelled else pt :: s.rcv.expelled } }
  (if s.flag F.FAB_YOKE_EN && s.fget F.FAB_YOKE_PARTNER = pt then s.loseYoke else s, 0)

def execExpel (m : GMsg) (s : State) : Host.Outcome State Fault Refusal :=
  .next (s.recovery m 0x01 true fun s => s.openRecovery.expel (m.cmd 397 380))

/-- ABORT_STEP: step STEP is aborted if it is in progress. -/
def State.managerAbort (s : State) (step : Nat) : State × Nat :=
  (if s.inProgress && s.abortable = some step then s.stepAbort 8 0xFF else s, 0)

def execAbortStep (m : GMsg) (s : State) : Host.Outcome State Fault Refusal :=
  .next (s.recovery m 0x02 false fun s => let (s, r) := s.managerAbort m.rStep; (s.openRecovery, r))

/-- REISSUE: the aborted step is issued as a new run, or refused with BAD_STATE (R350). -/
def State.managerReissue (s : State) (step : Nat) : State × Nat := if s.reissueRefused step then (s, 9) else (s.reissue step, 0)

def execReissue (m : GMsg) (s : State) : Host.Outcome State Fault Refusal :=
  .next (s.recovery m 0x03 false fun s => s.managerReissue m.rStep)

/-- JOIN_LOAD: the device takes its role (R303, R304); a shadow join's load begins at the next boundary. A join for a target that has been expelled is a replacement: joiner and partner write each
other into FAB_YOKE. -/
def State.joinLoad (s : State) (role pt pp pj : Nat) : State × Nat :=
  if s.fget F.HUB_JOIN_STS_ROLE ≠ 0 then (s, 9)
  else if role = 0 then (s, 0)
  else
    let shadow := !s.rcv.expelled.contains pt
    let join : Join := { Join.none with pt := pt, pp := pp, pj := pj, shadow := shadow }
    let s := { s with rcv := { s.rcv with join := join } }
    let s := s.wr R.HUB_JOIN_STS (role % 4 * 2 ^ 30 + (if role = 2 then 2 else 1) * 2 ^ 27)
    let s := if shadow then s else if role = 1 then s.yokeTo pp else if role = 3 then s.yokeTo pj else s
    (if role = 3 && !shadow then s.beginLoad.handJoin false else s, 0)

def execJoinLoad (m : GMsg) (s : State) : Host.Outcome State Fault Refusal :=
  .next (s.recovery m 0x04 false fun s => s.openRecovery.joinLoad (m.cmd 343 342) (m.cmd 397 380) (m.cmd 379 362) (m.cmd 361 344))

/-- A takeover may be armed: the joiner is ready, its target and partner shadow, and step N has not sealed (R305). -/
def State.takeoverOk (s : State) (n : Nat) : Bool :=
  s.shadowing && (s.fget F.HUB_JOIN_STS_ROLE ≠ 1 || s.fget F.HUB_JOIN_STS_STATE = 3) && s.rcv.join.takeover.isNone &&
    (match s.pos.lastSealed with | some l => l < n | none => true)

/-- TAKEOVER: what R305 lists happens at the boundary after step N. -/
def State.armTakeover (s : State) (n lcoord lepoch : Nat) : State × Nat :=
  if s.takeoverOk n then
    ({ s with rcv := { s.rcv with join := { s.rcv.join with takeover := some n, lcoord := lcoord, lepoch := lepoch } } }, 0)
  else (s, 9)

def execTakeover (m : GMsg) (s : State) : Host.Outcome State Fault Refusal :=
  .next (s.recovery m 0x05 true fun s => s.armTakeover m.rStep (m.cmd 415 398) (m.cmd 447 416))

/-- JOIN_CANCEL. -/
def execJoinCancel (m : GMsg) (s : State) : Host.Outcome State Fault Refusal :=
  .next (s.recovery m 0x06 false fun s => (s.cancelJoin, 0))

/-- STANDBY: the device stops at the next boundary, or at the one at which it stands. -/
def State.standBy (s : State) : State × Nat :=
  let s := { s with rcv := { s.rcv with standby := true } }
  (if s.standsAtBoundary then s.standDown else s, 0)

def execStandby (m : GMsg) (s : State) : Host.Outcome State Fault Refusal :=
  .next (s.recovery m 0x07 false fun s => s.standBy)

end Sys2Proof.Machine
end

