-- ==== Sys2Proof/Machine/Mgmt.lean ====
section
/-! DEFINITION. The Ostler's requests (17_management_and_security): identity, jobs and keys, firmware, debug, forwarding, the mailbox, JTAG. -/
namespace Sys2Proof.Machine

/-! ### Measurement registers (R403) -/

def State.getMr (s : State) (i : Nat) : List Byte := tget mrReset s.measure.mr i

def State.setMr (s : State) (i : Nat) (v : List Byte) : State := { s with measure := { s.measure with mr := tset mrReset s.measure.mr i v } }

/-- MRi := SHA-256(MRi ‖ value). -/
def State.extend (s : State) (i : Nat) (v : List Byte) : State := s.setMr i (Config.sha256 (s.getMr i ++ v))

/-! ### Identity (R391, R394, R405) -/

/-- DISCOVER: 32 bytes. -/
def State.discoverBody (s : State) : List Byte :=
  serialBytes ++ leBytes 4 (windowCap0 0) ++ leBytes 1 0xB0 ++ leBytes 1 s.mgmt.flash.svn ++ leBytes 1 s.mgmt.flash.fuses ++ leBytes 4 s.ostSts ++
    List.replicate 13 0

def execDiscover (m : GMsg) (s : State) : Host.Outcome State Fault Refusal :=
  .next (s.request m 0x01 false false (m.plainLen = 0) fun s => s.reply m 0x01 0 s.discoverBody)

/-- A long object from OFFSET on: its total length, then up to 16,384 bytes. An OFFSET beyond its end is out of range. -/
def State.replyPiece (s : State) (m : GMsg) (code off : Nat) (bs : List Byte) : State :=
  if bs.length < off then s.refuseMsg m code 3
  else s.reply m code 0 (leBytes 4 bs.length ++ (bs.drop off).take 16384)

def execGetCert (m : GMsg) (s : State) : Host.Outcome State Fault Refusal :=
  .next (s.request m 0x02 false false (m.plainLen = 4) fun s => s.replyPiece m 0x02 (m.num 0 4) Config.certChain)

/-- The evidence of R405 up to its signature. -/
def State.evidence (s : State) (nonce : List Byte) : List Byte :=
  let f := s.mgmt.flash
  let flags := b2n s.mgmt.unlocked.isSome + 2 * b2n s.mgmt.job.isSome + 4 * s.fget F.SEC_STS_MEAS_OVF + 8 * b2n (s.power.stage = 3)
  leBytes 4 1 ++ leBytes 4 0 ++ serialBytes ++ padTo 32 nonce ++ leBytes 4 (windowCap0 0) ++ leBytes 1 f.svn ++ leBytes 1 f.fuses ++ leBytes 1 flags ++
    leBytes 1 0 ++ leBytes 8 (s.pos.lastSealed.getD 0) ++ leBytes 4 (s.rd R.CXE_EPOCH) ++ leBytes 4 (s.rd R.HUB_RCV_EPOCH) ++ leBytes 8 0 ++
    ((List.range 8).flatMap s.getMr) ++ (match s.mgmt.job with | some j => padTo 32 j.id | none => leBytes 32 0) ++
    (match s.mgmt.job, s.mgmt.kem with | none, some n => padTo 1184 (Config.kemPublic n) | _, _ => leBytes 1184 0)

def execAttest (m : GMsg) (s : State) : Host.Outcome State Fault Refusal :=
  .next (s.request m 0x03 false false (m.plainLen = 32) fun s =>
    let e := s.evidence m.body
    s.reply m 0x03 0 (e ++ padTo 17088 (Config.slhSign e)))

/-! ### Jobs (R399, R402) -/

/-- Every port that is up or trains, trains anew with a new key generation (R233, R399). -/
def State.rekeyPorts (s : State) : State :=
  s.forAll ((List.range 7).filter fun p => 1 ≤ s.portState p && s.portState p ≤ 3) fun p s =>
    let s := s.setLink p { s.getLink p with newKey := true, txPctr := 0 }
    (s.wr (pageReg R.FAB_KEY_GEN p) ((s.rd (pageReg R.FAB_KEY_GEN p) + 1) % 2 ^ 32)).startTraining p

/-- The fields of the sealed payload are as R399 states. -/
def payloadOk (m : GMsg) : Bool :=
  let n := m.num 64 1
  1 ≤ n && n ≤ 7 && m.num 65 7 = 0 && m.num (72 + 32 * n) (224 - 32 * n) = 0

/-- A job opens (R399): registry, fabric key, MR4, ports, log; the ML-KEM pair is gone. -/
def State.openJob (s : State) (m : GMsg) : State :=
  let at' (o n : Nat) : List Byte := (m.body.drop o).take n
  let j : Job := { id := at' 0 32, js := at' 32 32, managers := (List.range (m.num 64 1)).map fun i => at' (72 + 32 * i) 32, path := m.path, src := m.src }
  let s := { s with
    fabKey := some (j.derive (ascii "cuaris-fabric")),
    mgmt := { s.mgmt with job := some j, kem := none, rxSeq := 0, txSeq := 1 } }
  ((s.extend 4 (Config.sha256 (j.id ++ at' 72 224))).rekeyPorts).logRec 6 s.stepNum 0

def execJobOpen (m : GMsg) (s : State) : Host.Outcome State Fault Refusal :=
  .next (s.request m 0x04 false false (m.plainLen = 1400) fun s =>
    if s.mgmt.job.isSome then s.refuseMsg m 0x04 7
    else if s.mgmt.unlocked.isSome then s.refuseMsg m 0x04 0xC
    else if s.mgmt.kem.isNone || !m.proofOk then s.refuseMsg m 0x04 5
    else if !payloadOk m then s.refuseMsg m 0x04 3
    else (s.openJob m).reply m 0x04 0 [])

/-- A job closes (R402): its secret, keys, slots and registry go; ports train without a job fabric key. -/
def State.closeJob (s : State) : State :=
  let s := { s with slots := [], fabKey := none, mgmt := { s.mgmt with job := none } }
  ((s.setMr 4 (mrReset 4)).rekeyPorts).logRec 6 s.stepNum 0

/-- R402: the job may be closed. -/
def State.mayClose (s : State) : Bool := s.atBoundary || s.fget F.HUB_STEP_STS_PHASE = 0 || s.fget F.HUB_STEP_STS_PHASE = 7

def execJobClose (m : GMsg) (s : State) : Host.Outcome State Fault Refusal :=
  .next (s.request m 0x05 true false (m.plainLen = 0) fun s =>
    if !s.mayClose then s.refuseMsg m 0x05 8
    else (s.reply m 0x05 0 []).closeJob)

/-! ### Key slots (R400, R401) -/

/-- A record in flight uses the slot: its context's DMA key, its sample key, or the checkpoint key. -/
def State.slotUsed (s : State) (n : Nat) : Bool :=
  s.que.flights.any fun f =>
    let e := queueEngine f.queue
    (e = 15 && (s.getC f.ctx).keyslot = n) || (e = 13 && recOpcode f.word = 0x50 && (ixOf f.word).dkey = n) ||
      (e = 14 && 0x68 ≤ recOpcode f.word && recOpcode f.word ≤ 0x6A && s.fget F.LXE_CKPT_CFG_KEYSLOT = n)

/-- What a slot holds changes. The counters of R377 start from 0 with a context's key. -/
def State.putSlot (s : State) (n : Nat) (v : Option Slot) : State :=
  let s := { s with slots := tset (fun _ => none) s.slots n v }
  match v with
  | some k =>
    if k.purpose = 1 then
      { s with host := { s.host with rxCtr := tset (fun _ => none) s.host.rxCtr k.owner none, txCtr := tset (fun _ => 0) s.host.txCtr k.owner 0 } }
    else s
  | none => s

/-- The change is made and answered, or waits while a record uses the slot. -/
def State.changeSlot (s : State) (m : GMsg) (code n : Nat) (v : Option Slot) : State :=
  if s.slotUsed n then { s with mgmt := { s.mgmt with changes := s.mgmt.changes ++ [{ slot := n, put := v, code := code, msg := m }] } }
  else (s.putSlot n v).reply m code 0 []

/-- SLOT, PURPOSE and OWNER of KEY_LOAD and KEY_DERIVE. -/
def slotFieldsOk (m : GMsg) : Bool := m.num 0 1 ≠ 0 && 1 ≤ m.num 1 1 && m.num 1 1 ≤ 3 && m.num 2 1 < 64

/-- KEY_LOAD. The spec gives a wrapped key that does not unwrap no status. -/
def execKeyLoad (m : GMsg) (s : State) : Host.Outcome State Fault Refusal :=
  .next (s.request m 0x06 true false (m.plainLen = 48) fun s =>
    if !slotFieldsOk m || m.num 3 5 ≠ 0 then s.refuseMsg m 0x06 3
    else if !m.proofOk then (let (v, s) := s.fresh; s.refuseMsg m 0x06 (1 + v % 255))
    else s.changeSlot m 0x06 (m.num 0 1) (some { purpose := m.num 1 1, owner := m.num 2 1, key := padTo 32 (m.body.drop 8) }))

/-- The info of a derived key (R400). -/
def deriveInfo (m : GMsg) : List Byte :=
  if m.num 1 1 = 1 then ascii "cuaris-ctx" ++ leBytes 1 (m.num 2 1) ++ leBytes 4 (m.num 4 4) else ascii "cuaris-ckpt" ++ leBytes 4 (m.num 4 4)

/-- KEY_DERIVE: a context DMA key or a checkpoint key; a sample key is not derived. -/
def execKeyDerive (m : GMsg) (s : State) : Host.Outcome State Fault Refusal :=
  .next (s.request m 0x07 true false (m.plainLen = 8) fun s =>
    match s.mgmt.job with
    | some j =>
      if !slotFieldsOk m || m.num 1 1 = 2 || m.num 3 1 ≠ 0 then s.refuseMsg m 0x07 3
      else s.changeSlot m 0x07 (m.num 0 1) (some { purpose := m.num 1 1, owner := m.num 2 1, key := padTo 32 (j.derive (deriveInfo m)) })
    | none => s)

def execKeyErase (m : GMsg) (s : State) : Host.Outcome State Fault Refusal :=
  .next (s.request m 0x08 true false (m.plainLen = 8) fun s =>
    if m.num 0 1 = 0 || m.num 1 7 ≠ 0 then s.refuseMsg m 0x08 3 else s.changeSlot m 0x08 (m.num 0 1) none)

/-! ### Reading records (R296, R386, R387, R391) -/

/-- A unit-history record of R296. -/
def histBytes (r : HistRec) : List Byte :=
  leBytes 32 (r.lastStep % 2 ^ 64 * 2 ^ 192 + r.firstStep % 2 ^ 32 * 2 ^ 160 + min r.count (2 ^ 32 - 1) * 2 ^ 128 + r.load % 256 * 2 ^ 96 + r.band % 32 * 2 ^ 91 +
    r.cls % 8 * 2 ^ 88 + r.event % 256 * 2 ^ 80 + r.detail % 2 ^ 32 * 2 ^ 48 + r.kind % 16 * 2 ^ 28 + r.die % 16 * 2 ^ 24 + r.index % 2 ^ 24)

/-- A log record of R387. Its time and the event's number within its class are the firmware's. -/
def logBytes (r : LogRec) (v : Nat) : List Byte :=
  leBytes 32 (v % 2 ^ 64 * 2 ^ 192 + r.step % 2 ^ 64 * 2 ^ 128 + r.detail % 2 ^ 64 * 2 ^ 64 + r.cls % 256 * 256 + v / 2 ^ 64 % 256)

/-- The log ring of R387: the newest 131,072 records, each at its number modulo the ring's size. -/
def State.logRing (s : State) : List LogRec :=
  let n := s.log.length
  let kept := (s.log.take 131072).reverse
  if n ≤ 131072 then kept else (let k := n % 131072; kept.drop (131072 - k) ++ kept.take (131072 - k))

/-- Free values, one after another. -/
def State.freshes (s : State) (n : Nat) : List Nat × State := ((List.range n).map fun i => Config.freeValue (s.free + i), { s with free := s.free + n })

/-- The bytes of an object of READ, none where its code is reserved. -/
def State.object (s : State) (obj : Nat) : Option (List Byte) × State :=
  if obj = 1 then (some (s.history.flatMap histBytes), s)
  else if obj = 2 then
    let rs := s.logRing
    let (vs, s) := s.freshes rs.length
    (some ((rs.zip vs).flatMap fun p => logBytes p.1 p.2), s)
  else if obj = 3 then (some (s.mgmt.flash.dumps.getD 0 []), s)
  else if obj = 4 then (some (s.mgmt.flash.dumps.getD 1 []), s)
  else if obj = 5 then
    let (vs, s) := s.freshes 67
    (some (vs.flatMap (leBytes 4)), s)
  else (none, s)

def execRead (m : GMsg) (s : State) : Host.Outcome State Fault Refusal :=
  .next (s.request m 0x12 false false (m.plainLen = 8) fun s =>
    match s.object (m.num 0 1) with
    | (some bs, s) => if m.num 1 3 ≠ 0 then s.refuseMsg m 0x12 3 else s.replyPiece m 0x12 (m.num 4 4) bs
    | (none, s) => s.refuseMsg m 0x12 3)

/-! ### Firmware (R396 to R398) -/

def State.setFlash (s : State) (f : Flash) : State := { s with mgmt := { s.mgmt with flash := f } }

/-- The bank that does not run. -/
def State.otherBank (s : State) : Nat := 1 - s.mgmt.flash.run % 2

/-- Where a byte of a bank is kept; an erased byte reads all ones. -/
def bankAt (bank off : Nat) : Nat := bank * 2 ^ 25 + off
def bankLimit : Nat := 24 * mib
def erased (_ : Nat) : Byte := 0xFF

def State.bankBytes (s : State) (bank off n : Nat) : List Byte := (List.range n).map fun i => tget erased s.mgmt.flash.bytes (bankAt bank (off + i))

def State.programBank (s : State) (bank off : Nat) (bs : List Byte) : State :=
  let f := s.mgmt.flash
  s.setFlash { f with bytes := bs.zipIdx.foldl (fun m (x : Byte × Nat) => tset erased m (bankAt bank (off + x.2)) x.1) f.bytes }

def State.eraseBank (s : State) (bank : Nat) : State :=
  let f := s.mgmt.flash
  s.setFlash { f with bytes := tclear f.bytes fun k => k / 2 ^ 25 = bank }

/-- Another path holds the firmware session. -/
def State.sessionElsewhere (s : State) (m : GMsg) : Bool := match s.mgmt.session with | some p => p ≠ m.path | none => false

/-- FW_BEGIN: the session opens and the inactive bank is erased. -/
def execFwBegin (m : GMsg) (s : State) : Host.Outcome State Fault Refusal :=
  .next (s.request m 0x20 false false (m.plainLen = 0) fun s =>
    if s.sessionElsewhere m then s.refuseMsg m 0x20 8
    else if !m.proofOk then s.refuseMsg m 0x20 0xB
    else
      let s := s.eraseBank s.otherBank
      ({ s with mgmt := { s.mgmt with session := some m.path } } : State).reply m 0x20 0 [])

/-- The session is this path's. -/
def State.inSession (s : State) (m : GMsg) : Bool := s.mgmt.session = some m.path

def execFwWrite (m : GMsg) (s : State) : Host.Outcome State Fault Refusal :=
  .next (s.request m 0x21 false false (m.plainLen = m.body.length && 4104 ≤ m.plainLen && m.plainLen ≤ 16392 && (m.plainLen - 8) % 4096 = 0) fun s =>
    let off := m.num 0 4
    if off % 4096 ≠ 0 || bankLimit < off + (m.plainLen - 8) || m.num 4 4 ≠ 0 then s.refuseMsg m 0x21 3
    else if !s.inSession m then s.refuseMsg m 0x21 8
    else if !m.proofOk then s.refuseMsg m 0x21 0xB
    else (s.programBank s.otherBank off (m.body.drop 8)).reply m 0x21 0 [])

/-- The header of a bundle meets R398 but for its signature and digest. -/
def State.bundleOk (s : State) (bank : Nat) : Bool :=
  let n (off k : Nat) : Nat := leNat (s.bankBytes bank off k)
  s.bankBytes bank 0 4 = ascii "CUFW" && n 4 4 = 1 && n 20 4 = windowCap0 0 && 64 + 7856 + n 16 4 ≤ bankLimit

def State.bundleSvn (s : State) (bank : Nat) : Nat := (s.bankBytes bank 8 1).headD 0 |>.toNat

/-- FW_ACTIVATE: the bank is verified and pending; the session ends. -/
def execFwActivate (m : GMsg) (s : State) : Host.Outcome State Fault Refusal :=
  .next (s.request m 0x22 false false (m.plainLen = 0) fun s =>
    let b := s.otherBank
    if !s.inSession m then s.refuseMsg m 0x22 8
    else if !s.bundleOk b || !m.proofOk then s.refuseMsg m 0x22 9
    else if s.bundleSvn b < s.mgmt.flash.fuses then s.refuseMsg m 0x22 0xA
    else
      let s := s.setFlash { s.mgmt.flash with pend := some b, bad := false, starts := 0 }
      ({ s with mgmt := { s.mgmt with session := none } } : State).reply m 0x22 0 (leBytes 8 b))

/-- FW_COMMIT: the fuse count rises to the running bundle's SVN. -/
def execFwCommit (m : GMsg) (s : State) : Host.Outcome State Fault Refusal :=
  .next (s.request m 0x23 (!(s.mgmt.job.isNone && m.path = 0)) false (m.plainLen = 0) fun s =>
    let f := s.mgmt.flash
    if s.sessionElsewhere m || !f.reached then s.refuseMsg m 0x23 8
    else
      let n := max f.fuses f.svn
      (s.setFlash { f with fuses := n }).reply m 0x23 0 (leBytes 8 n))

/-- FW_SESSION_TIMEOUT: 60 s without a firmware message. -/
def execFwSessionTimeout (s : State) : Host.Outcome State Fault Refusal := .next { s with mgmt := { s.mgmt with session := none } }

/-! ### Debug (R406, R407) -/

/-- DEBUG_CHAL: a fresh challenge takes the place of the last one. -/
def execDebugChal (m : GMsg) (s : State) : Host.Outcome State Fault Refusal :=
  .next (s.request m 0x25 false false (m.plainLen = 0) fun s =>
    let n := s.mgmt.chals
    ({ s with mgmt := { s.mgmt with chal := some n, chals := n + 1 } } : State).reply m 0x25 0 (padTo 32 (Config.challenge n)))

/-- The token names this device and the live challenge, and its signature verifies. -/
def State.tokenOk (s : State) (m : GMsg) : Bool :=
  match s.mgmt.chal with
  | some n => m.proofOk && m.body.take 8 = serialBytes && (m.body.drop 8).take 32 = padTo 32 (Config.challenge n)
  | none => false

/-- Debug opens: slots and the ML-KEM pair are erased, MR5 is extended (R407). -/
def State.unlock (s : State) (m : GMsg) : State :=
  let s := { s with slots := [], mgmt := { s.mgmt with kem := none, chal := none, unlocked := some (m.num 40 1) } }
  (s.extend 5 (Config.sha256 m.body)).logRec 5 s.stepNum 0

def execDebugUnlock (m : GMsg) (s : State) : Host.Outcome State Fault Refusal :=
  .next (s.request m 0x26 false false (m.plainLen = 7904 && m.body.length = 7904) fun s =>
    if 4 ≤ m.num 40 1 || m.num 41 7 ≠ 0 then s.refuseMsg m 0x26 3
    else if s.mgmt.unlocked.isSome then s.refuseMsg m 0x26 0xC
    else if s.mgmt.job.isSome then s.refuseMsg m 0x26 8
    else if !s.tokenOk m then s.refuseMsg m 0x26 5
    else (s.unlock m).reply m 0x26 0 [])

/-- CHALLENGE_EXPIRE: after 600 s. -/
def execChallengeExpire (s : State) : Host.Outcome State Fault Refusal := .next { s with mgmt := { s.mgmt with chal := none } }

/-- The instructions that the spec names, by numbers of this model: 0 BYPASS, 1 IDCODE, 2 SAMPLE/PRELOAD, 3 EXTEST, 4 EXTEST_PULSE, 5 EXTEST_TRAIN. What
the port executes for a code. -/
def State.jtagActs (s : State) (code : Nat) : Nat :=
  if code ≤ 2 then code else if code ≤ 5 && (s.power.low || s.mgmt.unlocked.isSome) then code else 0

/-- The rails are in regulation: PWR_GOOD (R414, R421). -/
def State.pwrGood (s : State) : Bool := s.power.off ≠ 1

/-- An instruction of the port in force, and what it captures: the IDCODE of R441, the bypass bit, or the levels of the lands, of which the device knows
SYS_RESET_N in cell 262 and PWR_GOOD in cell 268. -/
def State.jtag (s : State) (act : Nat) : State :=
  let s := { s with mgmt := { s.mgmt with jtag := act } }
  if act = 1 then s.emit (.jtag 0x1940056F)
  else if act = 0 then s.emit (.jtag 0)
  else (let (v, s) := s.fresh; s.emit (.jtag (setBits (setBits (v % 2 ^ 269) 262 262 (b2n !s.power.low)) 268 268 (b2n s.pwrGood))))

/-- JTAG_INSTRUCTION: while debug is unlocked, an instruction the spec does not name belongs to the opened scope, which it does not describe. -/
def execJtagInstruction (code : Nat) (s : State) : Host.Outcome State Fault Refusal :=
  if s.mgmt.unlocked.isSome && 6 ≤ code then .refused (.debugInstruction code) else .next (s.jtag (s.jtagActs code))

/-! ### Forwarding (R391) -/

/-- The Grielle header of a message that starts at its type byte. -/
def innerHeader (bs : List Byte) (hi lo : Nat) : Nat := bits (leNat ((bs.drop 5).take 16)) hi lo

/-- The coordinate can be reached over VC3. -/
def State.reaches (s : State) (dst : Nat) : Bool :=
  match s.routeFrom (s.fget F.FAB_COORD_COORD) dst with
  | none => true
  | some port => s.carries port 3

/-- FORWARD: the message goes on, and its answer is awaited. It does not nest. -/
def execForward (m : GMsg) (s : State) : Host.Outcome State Fault Refusal :=
  .next (s.request m 0x30 false false (29 ≤ m.plainLen && m.plainLen = m.body.length) fun s =>
    let inner := m.body.drop 8
    let dst := m.num 0 4
    if 2 ^ 18 ≤ dst || m.num 4 4 ≠ 0 || innerHeader inner 15 8 = 0x30 then s.refuseMsg m 0x30 3
    else if !s.inTorus dst || !s.reaches dst then s.refuseMsg m 0x30 0xD
    else
      let f : Fwd := { dst := dst, reqId := innerHeader inner 63 48, msg := m }
      let s := { s with mgmt := { s.mgmt with forwards := s.mgmt.forwards ++ [f] } }
      s.sendFabric dst inner)

/-- FORWARD_RESPONSE: the forwarded message's own response passes to the requester. Its body is here as it travels. -/
def execForwardResponse (code : Nat) (m : GMsg) (s : State) : Host.Outcome State Fault Refusal :=
  .next (match s.mgmt.forwards.find? fun f => f.dst = m.src && f.reqId = m.reqId with
    | some f =>
      let s := { s with mgmt := { s.mgmt with forwards := s.mgmt.forwards.filter (· ≠ f) } }
      s.sendPath f.msg.path f.msg.src (gPrefix ++ gHeader m.len m.seq m.reqId m.status m.sealed true code ++ m.body)
    | none => s)

/-- FORWARD_TIMEOUT: no answer within 1 s. -/
def execForwardTimeout (coord reqId : Nat) (s : State) : Host.Outcome State Fault Refusal :=
  .next (match s.mgmt.forwards.find? fun f => f.dst = coord && f.reqId = reqId with
    | some f => ({ s with mgmt := { s.mgmt with forwards := s.mgmt.forwards.filter (· ≠ f) } } : State).refuseMsg f.msg 0x30 0xD
    | none => s)

/-! ### The mailbox (R408) -/

/-- The codes that R391 gives requests. -/
def requestCodes : List Nat := [0x01, 0x02, 0x03, 0x04, 0x05, 0x06, 0x07, 0x08, 0x10, 0x12, 0x20, 0x21, 0x22, 0x23, 0x24, 0x25, 0x26, 0x30]

/-- A whole request has come through the mailbox. One of a reserved code or version is answered BAD_CODE; what is no Grielle message is dropped. -/
def State.mailboxWhole (s : State) : State :=
  let bs := s.mgmt.request
  let h (hi lo : Nat) : Nat := innerHeader bs hi lo
  if bs.take 5 ≠ gPrefix || bs.length < 21 then { s with mgmt := { s.mgmt with request := [] } }
  else if requestCodes.contains (h 15 8) && h 7 0 = 1 && h 32 32 = 0 then s.fset F.OST_MBX_STS_BUSY 1
  else if !s.ostlerUp then s
  else
    let m : GMsg := { path := 3, src := 0, version := h 7 0, resp := h 32 32 = 1, sealed := false, reqId := h 63 48, seq := 0, len := 0, status := 0,
                      resv := false, body := [], tagOk := true, proofOk := true }
    s.refuseMsg m (h 15 8) 1

/-- MAILBOX_GO: a request fragment is handed over, or, with LEN 0, the next response fragment is taken or the last one acknowledged. -/
def State.mailboxGo (s : State) (data : Nat) : State :=
  let len := min (bits data 11 0) 4032
  if !bit data 31 then s
  else if s.flag F.OST_MBX_STS_BUSY then s.fset F.OST_MBX_STS_OVF 1
  else if len = 0 then
    if !s.flag F.OST_MBX_STS_READY then s
    else if s.mgmt.response.isEmpty then s.wr R.OST_MBX_STS (s.fget F.OST_MBX_STS_OVF * 2 ^ 27)
    else s.showFragment false
  else
    let part := ((List.range (ceilDiv len 4)).flatMap fun i => leBytes 4 (s.rd (R.OST_MBX_REQ + 4 * i))).take len
    let s := { s with mgmt := { s.mgmt with request := (if bit data 30 then [] else s.mgmt.request) ++ part } }
    if bit data 29 then s.mailboxWhole else s

def execMailboxGo (data : Nat) (s : State) : Host.Outcome State Fault Refusal := .next (s.mailboxGo data)

end Sys2Proof.Machine
end

