-- ==== Sys2Proof/Machine/Power.lean ====
section
/-! DEFINITION. Power, temperature, clocks, start-up and tests (18_power_clocks_startup), with the release of a held device (R391). -/
namespace Sys2Proof.Machine

/-! ### Pins and notices -/

/-- The module is out of reset: SYS_RESET_N is high, and neither supply nor clocks hold it (R414, R420, R421). After a thermal reset the Ostler
runs, and only the control cores wait (R417). -/
def State.awake (s : State) : Bool := !s.power.low && s.power.off ≠ 1 && s.power.off ≠ 3

/-- FAULT_N is asserted, with the Ostler's notice while it runs. -/
def State.assertFault (s : State) : State :=
  let s := { s with power := { s.power with fault := true } }
  if s.ostlerUp then s.notify 5 s.stepNum else s

/-- A log record, while the Ostler runs. -/
def State.logPower (s : State) (cls detail : Nat) : State := if s.ostlerUp then s.logRec cls s.stepNum detail else s

/-! ### Throttle (R418) -/

/-- THROTTLED follows the causes. -/
def State.throttle (s : State) (cause : Fld) (b : Bool) : State :=
  let s := s.fset cause (b2n b)
  s.fset F.PWR_THROT_STS_THROTTLED (b2n (bits (s.rd R.PWR_THROT_STS) 30 27 ≠ 0))

/-! ### Supply (R410 to R414) -/

/-- The lowest input of the dip, in 10 mV. -/
def State.dipMin (s : State) (mv : Nat) : State := s.fset F.PWR_DIP_MIN_MIN (min (s.fget F.PWR_DIP_MIN_MIN) (min (mv / 10) 0xFFFF))

/-- SUPPLY_WARN: the input falls below WARN. -/
def State.supplyWarn (s : State) (mv : Nat) : State :=
  if !s.awake || s.fget F.PWR_STS_SUPPLY ≠ 0 then s
  else
    let s := ((s.fset F.PWR_STS_SUPPLY 1).fadd F.PWR_STS_DIPS).fset F.PWR_DIP_MIN_MIN (min (mv / 10) 0xFFFF)
    let s := (s.throttle F.PWR_THROT_STS_SUPPLY true).setLevel 0x085 true
    if s.ostlerUp then s.notify 6 s.stepNum else s

def execSupplyWarn (mv : Nat) (s : State) : Host.Outcome State Fault Refusal := .next (s.supplyWarn mv)

/-- SUPPLY_WARN_RECOVER: the input has recovered from WARN; `mv` is the lowest input that it reached. -/
def State.supplyRecover (s : State) (mv : Nat) : State :=
  if s.fget F.PWR_STS_SUPPLY = 0 then s
  else ((((s.dipMin mv).fset F.PWR_STS_SUPPLY 0).throttle F.PWR_THROT_STS_SUPPLY false).setLevel 0x085 false).raise 0x086

def execSupplyWarnRecover (mv : Nat) (s : State) : Host.Outcome State Fault Refusal := .next (s.supplyRecover mv)

/-- SUPPLY_SAG: 50 ms without recovery. -/
def execSupplySag (mv : Nat) (s : State) : Host.Outcome State Fault Refusal :=
  .next (if s.fget F.PWR_STS_SUPPLY = 1 then ((s.dipMin mv).fset F.PWR_STS_SUPPLY 2).logPower 1 (mv / 10) else s)

/-- SUPPLY_SUSPECT (R412): the run fails, or the windows of a run that has sent its stage-1 record begin their attempts anew. -/
def State.supplySuspect (s : State) (mv : Nat) : State :=
  if !s.awake then s
  else
    let s := { s with power := { s.power with suspect := true } }
    let s := (s.dipMin mv).fset F.PWR_STS_SUSPECT_SEEN 1
    if s.atBoundary || s.sealing then s
    else if s.run.formed || s.run.failSent then s.spoilAttempts
    else (s.noteCause 5).earlyFailure

def execSupplySuspect (mv : Nat) (s : State) : Host.Outcome State Fault Refusal := .next (s.supplySuspect mv).settle

/-- SUPPLY_SUSPECT_RECOVER (R413). -/
def execSupplySuspectRecover (s : State) : Host.Outcome State Fault Refusal :=
  .next (if s.power.suspect then (({ s with power := { s.power with suspect := false } } : State).spoilAttempts).settle else s)

/-- The device resets and stays in reset for a reason of Power.off. -/
def State.resetHeld (s : State) (off : Nat) : State :=
  let s := s.deviceReset 0
  { s with power := { s.power with off := off, suspect := false } }

/-- SUPPLY_RESET (R414). -/
def execSupplyReset (s : State) : Host.Outcome State Fault Refusal := .next (s.resetHeld 1)

/-- SUPPLY_START (R421): the input exceeds the start level. A power cycle ends a hold (R345). -/
def execSupplyStart (s : State) : Host.Outcome State Fault Refusal :=
  .next (
    if s.power.off = 1 then
      let s := { s with power := { s.power with off := 0, limit := 0, stage := 0, fault := false } }
      ((s.fset F.PWR_STS_SUPPLY 0).throttle F.PWR_THROT_STS_SUPPLY false).setLevel 0x085 false
    else s)

/-- SYS_RESET_N falls or rises (R344, R421). -/
def execSysResetN (low : Bool) (s : State) : Host.Outcome State Fault Refusal :=
  .next (
    if low && !s.power.low then (let s := s.deviceReset 0; { s with power := { s.power with low := true } })
    else if !low then { s with power := { s.power with low := false } }
    else s)

/-! ### Power limits (R416) -/

/-- The power cause holds for the transient limiter or a share of the sustained one. -/
def State.powerCause (s : State) : State := s.throttle F.PWR_THROT_STS_POWER (s.power.spike || s.fget F.PWR_THROT_STS_SHARE ≠ 0)

def execPowerTransientLimit (s : State) : Host.Outcome State Fault Refusal :=
  .next (({ s with power := { s.power with spike := true } } : State).powerCause)

def execPowerTransientRelease (s : State) : Host.Outcome State Fault Refusal :=
  .next (({ s with power := { s.power with spike := false } } : State).powerCause)

/-- POWER_CAP_TICK: the average input power of the last 10 ms. -/
def State.capTick (s : State) (watts : Nat) : State :=
  let cap := min (s.fget F.PWR_CAP_PCAP) 2400
  let share := s.fget F.PWR_THROT_STS_SHARE
  if !s.ostlerUp then s
  else if cap < watts then (s.fset F.PWR_THROT_STS_SHARE (min (share + 1) 15)).powerCause
  else if watts + 50 < cap then (s.fset F.PWR_THROT_STS_SHARE (share - 1)).powerCause
  else s

def execPowerCapTick (watts : Nat) (s : State) : Host.Outcome State Fault Refusal := .next (s.capTick watts)

/-! ### Temperature (R417) -/

/-- THERM_ALERT_N is low while the temperature cause holds. -/
def State.thermAlert (s : State) : Bool := s.flag F.PWR_THROT_STS_TEMP

def execThermalThrottle (die : Nat) (s : State) : Host.Outcome State Fault Refusal :=
  .next (if s.awake && !s.thermAlert then ((s.throttle F.PWR_THROT_STS_TEMP true).setLevel 0x087 true).logPower 2 die else s)

def execThermalRelease (s : State) : Host.Outcome State Fault Refusal :=
  .next (if s.thermAlert then (s.throttle F.PWR_THROT_STS_TEMP false).setLevel 0x087 false else s)

def execThermalReset (die : Nat) (s : State) : Host.Outcome State Fault Refusal :=
  .next (if s.awake then (s.logPower 2 die).resetHeld 2 else s)

/-- THERMAL_RESTART: every junction is below 85 °C again. -/
def execThermalRestart (s : State) : Host.Outcome State Fault Refusal :=
  .next (if s.power.off = 2 then { s with power := { s.power with off := 0 } } else s)

/-! ### Reference clocks (R420) -/

def refOk (n : Nat) : Fld := if n = 0 then F.CLK_STS_REF0_OK else F.CLK_STS_REF1_OK

/-- The other input is selected. -/
def State.switchRef (s : State) (n : Nat) : State := (s.fset F.CLK_STS_SEL n).fadd F.CLK_STS_SWITCHES

/-- REFCLK_BAD: the device switches to the other input if the selected one has gone bad and the other is good. -/
def execRefclkBad (input : Nat) (s : State) : Host.Outcome State Fault Refusal :=
  .next (
    if input < 2 then
      let s := s.fset (refOk input) 0
      if s.fget F.CLK_STS_SEL = input && s.flag (refOk (1 - input)) then s.switchRef (1 - input) else s
    else s)

/-- REFCLK_GOOD: an input is good again. A device that both inputs had failed goes on, or starts again, with it. -/
def execRefclkGood (input : Nat) (s : State) : Host.Outcome State Fault Refusal :=
  .next (
    if input < 2 then
      let s := s.fset (refOk input) 1
      let s := if s.fget F.CLK_STS_SEL ≠ input && !s.flag (refOk (1 - input)) then s.switchRef input else s
      if s.power.off = 3 then { s with power := { s.power with off := 0, fault := false } } else s
    else s)

/-- REFCLK_REVERT_TIMER: PREF has been good for 100 ms; the return is held for a boundary as a calibration. -/
def execRefclkRevertTimer (s : State) : Host.Outcome State Fault Refusal :=
  .next (
    let p := s.fget F.CLK_CFG_PREF
    if s.flag F.CLK_CFG_REVERT && s.fget F.CLK_STS_SEL ≠ p && s.flag (refOk p) then
      (s.holdTest { kind := 5, target := p, immediate := false }).startTests
    else s)

/-- REFCLK_HOLD_EXPIRE: both inputs have been bad for 1 ms. -/
def execRefclkHoldExpire (s : State) : Host.Outcome State Fault Refusal :=
  .next (
    if s.flag (refOk 0) || s.flag (refOk 1) then s
    else
      let s := s.assertFault.resetHeld 3
      { s with power := { s.power with fault := true } })

/-! ### Start-up (R345, R396, R421) -/

/-- The device is held: no control core starts, FAULT_N is asserted, and only the management ports are served (R345). -/
def State.hold (s : State) : State :=
  let s := ({ s with power := { s.power with stage := 3 } } : State).logRec 3 0 0
  s.assertFault.notify 4 s.stepNum

/-- The Ostler runs from a verified bank, and the first control core's image is under verification (R16). -/
def State.startBank (s : State) (bank svn : Nat) : State :=
  let f := s.mgmt.flash
  let s := (s.setFlash { f with started := bank, svn := svn, reached := false }).extend 0 (Config.imageDigest bank 0 f.bytes)
  (({ s with power := { s.power with stage := 1 } } : State).fset F.CLK_STS_ROOT_LOCK 1).fset (coreField 0) 1

/-- Neither bank verifies: the management ports alone run (R421). -/
def State.noBank (s : State) : State := ({ s with power := { s.power with stage := 4 } } : State).logRec 4 0 0 |>.assertFault

/-- The SVN of the bundle in a bank. -/
def State.svnOf (s : State) (bank : Nat) : Nat := if bank = s.mgmt.flash.run then s.mgmt.flash.runSvn else s.bundleSvn bank

/-- R396, Boot: the pending bank, unless it has had two starts without a seal; a bank that does not verify gives way to the other. -/
def State.boot (s : State) (banks : List Bool) : State :=
  let f := s.mgmt.flash
  let s :=
    if f.pend.isNone then s
    else if 2 ≤ f.starts then (s.setFlash { f with pend := none, bad := true, starts := 0 }).logRec 4 0 1
    else s.setFlash { f with starts := f.starts + 1 }
  let f := s.mgmt.flash
  let first := f.pend.getD f.run
  if banks.getD first false then s.startBank first (s.svnOf first)
  else
    let s := if f.pend.isSome then (s.setFlash { f with pend := none, starts := 0 }).logRec 4 0 2 else s
    if banks.getD (1 - first) false then s.startBank (1 - first) (s.svnOf (1 - first)) else s.noBank

/-- FIRMWARE_BOOT: which banks verify, and how many device resets lie within DEV_WIN_S, this one included (R345). -/
def execFirmwareBoot (banks : List Bool) (recent : Nat) (s : State) : Host.Outcome State Fault Refusal :=
  .next (
    if !s.awake || s.power.stage ≠ 0 then s
    else if s.power.limit ≠ 0 && s.power.limit ≤ recent then s.hold
    else s.boot banks)

/-- HOLD_RELEASE: the device starts; FIRMWARE_BOOT follows. -/
def execHoldRelease (m : GMsg) (s : State) : Host.Outcome State Fault Refusal :=
  .next (s.request m 0x24 false false (m.plainLen = 0) fun s =>
    if s.power.stage ≠ 3 then s.refuseMsg m 0x24 0xE
    else
      let s := s.reply m 0x24 0 []
      { s with power := { s.power with stage := 0, limit := 0, fault := false } })

/-- CONTROL_CORE_RELEASE: in the order of R403, each after MR1 has been extended with its image; the next core's image is verified then (R16). A
carriage controller trains its stacks. -/
def State.releaseCore (s : State) (core : Nat) : State :=
  let before := (List.range core).all fun i => s.fget (coreField i) = 2
  if !s.awake || s.power.off ≠ 0 || s.power.stage ≠ 1 || 7 ≤ core || s.fget (coreField core) ≠ 1 || !before then s
  else
    let s := (s.extend 1 (Config.imageDigest s.mgmt.flash.started (core + 1) s.mgmt.flash.bytes)).fset (coreField core) 2
    let s := if core < 6 then s.fset (coreField (core + 1)) 1 else s
    if core < 4 then (s.trainStack (2 * core)).trainStack (2 * core + 1)
    else if core = 6 then { s with power := { s.power with stage := 2 } }
    else s

def execControlCoreRelease (core : Nat) (s : State) : Host.Outcome State Fault Refusal := .next (s.releaseCore core)

/-- MEMORY_INIT_COMPLETE (R422): every block of the carriage's stacks holds zeros. -/
def State.memoryInit (s : State) (n : Nat) : State :=
  if 4 ≤ n || s.fget (coreField n) ≠ 2 || s.power.init.contains n || s.flag F.HUB_SEAL_STS_READY then s
  else
    let s := (s.stackTrained (2 * n)).stackTrained (2 * n + 1)
    let inside (a : Nat) : Bool := carSpan * n ≤ a && a < carSpan * (n + 1)
    { s with
      mem := tclear s.mem inside, mpart := { s.mpart with bad := s.mpart.bad.filter fun b => !inside (128 * b), syms := tclear s.mpart.syms fun b => inside (128 * b) },
      power := { s.power with init := n :: s.power.init } }

def execMemoryInitComplete (carriage : Nat) (s : State) : Host.Outcome State Fault Refusal := .next (s.memoryInit carriage)

/-- A unit by the coding of TARGET (R429). -/
def unitOf (t : Nat) : UnitId := ⟨bits t 11 8, bits t 15 12, bits t 7 0⟩

/-- The spare units of the device. -/
def State.spareUnits (s : State) : List UnitId :=
  ((List.range 4).flatMap fun n => (List.range 9).map (coreUnit n) ++ (List.range 17).map (groupUnit n)) ++ (List.range 9).map decodeUnit |>.filter s.isSpare

/-- A failed unit of the start-up test: recorded, permanent, and a named one gives its name to the spare; without a spare a carriage is out of
service. -/
def State.unitFailed (s : State) (u : UnitId) : State :=
  let s := s.unitEvent u 6 0
  if 2 < u.kind || (s.unitName u).isNone then s
  else
    let short := (s.freeSpare u.kind u.die).isNone
    let s := s.claim u .retire
    if short && u.kind < 2 && u.die < 4 then s.outOfService (1 + u.die) else s

/-- STARTUP_SELF_TEST_COMPLETE (R423): the failed units in the coding of TARGET; idle spares first, then the units with names. -/
def State.selfTested (s : State) (failed : List Nat) : State :=
  if s.power.stage ≠ 2 || !((List.range 4).all s.power.init.contains) || s.flag F.HUB_SEAL_STS_READY then s
  else
    let us := failed.map unitOf
    let spares := s.spareUnits
    let s := spares.foldl (fun s u => s.spareTested u (!us.contains u)) s
    let s := (us.filter fun u => !spares.contains u).foldl State.unitFailed s
    ({ s with spares := { s.spares with now := [], before := [] } } : State).fset F.HUB_SEAL_STS_READY 1

def execStartupSelfTestComplete (failed : List Nat) (s : State) : Host.Outcome State Fault Refusal := .next (s.selfTested failed)

/-! ### The configuration seal (R424) -/

/-- Byte ranges that R424 compares: ledger, checkpoint, nine decode work areas. -/
def State.sealRegions (s : State) : List (Nat × Nat) :=
  let work := s.fget F.IXE_WORK_SIZE_SIZE
  [(s.rd64 R.LXE_LEDGER_BASE, s.fget F.LXE_LEDGER_SIZE_MIB * mib), (s.rd64 R.LXE_CKPT_BASE, s.fget F.LXE_CKPT_SIZE_MIB * mib),
   (s.fget F.IXE_WORK_BASE_BASE * mib, 9 * work * mib)]

/-- The reserved regions of R169, 256 MiB at the end of each carriage's range. -/
def reservedRegions : List (Nat × Nat) := (List.range 4).map fun n => (carSpan * n + 0x0017F0000000, 256 * mib)

def regionsMeet (a b : Nat × Nat) : Bool := a.2 ≠ 0 && b.2 ≠ 0 && a.1 < b.1 + b.2 && b.1 < a.1 + a.2

/-- Two of the regions overlap, or one meets a reserved one. -/
def State.regionsClash (s : State) : Bool :=
  match s.sealRegions with
  | [a, b, c] => regionsMeet a b || regionsMeet a c || regionsMeet b c || [a, b, c].any fun x => reservedRegions.any (regionsMeet x)
  | _ => false

/-- The lowest CAUSE of R424 whose condition fails, 0 where all hold. -/
def State.sealCause (s : State) : Nat :=
  let coord := s.fget F.FAB_COORD_COORD
  let ckpt := s.fget F.LXE_CKPT_SIZE_MIB
  lowest [
    (1, !s.inTorus coord || (s.flag F.FAB_YOKE_EN && s.fget F.FAB_YOKE_PARTNER = coord)),
    (2, s.regionsClash),
    (3, s.fget F.LXE_LEDGER_SIZE_MIB < 1024 || (ckpt ≠ 0 && ckpt < 64)),
    (4, s.fget F.HUB_RCV_CFG_K = 0 || s.fget F.HUB_RCV_CFG_N = 0),
    (5, !s.flag F.HUB_SEAL_STS_READY)]

/-- The registers that hold an RWL bit, by ascending offset: those of each carriage, port and stack in their places. -/
def rwlOffsets : List Nat :=
  let regs (w : Nat) (p : Nat → Bool) : List Nat := (rowsOfWindow w).flatMap fun (r : RegRow) =>
    if r.rwl = 0 then [] else ((List.range r.count).map fun i => r.key + i * r.stride).filter p
  let low := (List.range 15).flatMap fun w =>
    if w = 7 then regs 7 (fun k => offPage k = 0) ++ (List.range 7).flatMap fun i => (regs 7 fun k => offPage k ≠ 0).map fun k => pageReg k i
    else regs w fun _ => true
  let car (n : Nat) : List Nat := (List.range 5).flatMap fun i =>
    if i = 4 then ((regs 0x104 fun k => offPage k = 0) ++ (List.range 2).flatMap fun j => (regs 0x104 fun k => offPage k ≠ 0).map fun k => pageReg k j).map fun k => carReg k n
    else (regs (0x100 + i) fun _ => true).map fun k => carReg k n
  low ++ (List.range 4).flatMap car

/-- The ports whose EN is 1 begin training. -/
def State.portsBegin (s : State) : State :=
  s.forAll ((List.range 7).filter fun p => bit (s.rd (pageReg R.FAB_PORT_CTL p)) 31 && s.portState p = 0) fun p s => s.startTraining p

/-- A bank that reaches the seal becomes the running bank (R396). -/
def State.bankReached (s : State) : State :=
  let f := s.mgmt.flash
  let s := s.setFlash { f with run := f.started, runSvn := f.svn, pend := if f.pend = some f.started then none else f.pend, starts := 0, reached := true }
  if f.pend = some f.started then s.logRec 4 0 3 else s

/-- SEAL. -/
def State.sealConfig (s : State) : State :=
  if s.flag F.HUB_SEAL_STS_SEALED then s
  else
    let c := s.sealCause
    if c ≠ 0 then s.fset F.HUB_SEAL_STS_CAUSE c
    else
      let values := rwlOffsets.flatMap fun k => leBytes 4 (s.rd k)
      let s := (s.fset F.HUB_SEAL_STS_SEALED 1).fset F.HUB_SEAL_STS_CAUSE 0
      (s.extend 2 (Config.sha256 values)).portsBegin.bankReached

def execSeal (_ : Agent) (s : State) : Host.Outcome State Fault Refusal := .next s.sealConfig

/-! ### Tests during work (R425, R426, R429) -/

/-- The units that a self-test can name. -/
def unitExists (u : UnitId) : Bool :=
  (u.kind = 0 && u.die < 4 && u.index < 9) || (u.kind = 1 && u.die < 4 && u.index < 17) || (u.kind = 2 && u.die = 0xF && u.index < 9)

/-- TEST_UNIT_SELF_TEST: an idle spare's test runs at once, in the background (R294); a unit with a name waits for a boundary, or, with IMMEDIATE,
fails the run (R426). An immediate test that would last more than 50 ms is refused; `ms` is how long it would last. -/
def State.testUnit (s : State) (target : Nat) (immediate : Bool) (ms : Nat) : State :=
  let u := unitOf target
  if !unitExists u then s
  else if (s.unitName u).isNone then
    let s := { s with spares := { s.spares with tested := s.spares.tested.filter (· ≠ u) } }
    if u.kind = 0 && s.isSpare u then s.setCoreState u.die u.index 2 else s
  else if immediate && 50 < ms then s.fset F.HUB_TEST_STS_REFUSED 1
  else
    let s := s.holdTest { kind := 0, target := target, immediate := immediate }
    if immediate && !s.standsAtBoundary then (s.noteCause 7).earlyFailure.startTests else s.startTests

def execTestUnitSelfTest (_ : Agent) (target : Nat) (immediate : Bool) (ms : Nat) (s : State) : Host.Outcome State Fault Refusal :=
  .next (s.testUnit target immediate ms).settle

/-- KIND 1: stack in [15:8], pseudo-channel in [7:0]. -/
def State.testPch (s : State) (target : Nat) : State :=
  if target / 256 < 8 && target % 256 < 32 then s.requestRetrain (target / 256) (target % 256) false else s

/-- TEST_PCH_RETRAIN. -/
def execTestPchRetrain (_ : Agent) (target : Nat) (s : State) : Host.Outcome State Fault Refusal := .next (s.testPch target)

/-- TEST_PORT_RETRAIN. -/
def State.testPort (s : State) (port : Nat) : State :=
  let s := s.fset (F.FAB_PORT_STS_RETRAIN_PEND.page port) 1
  (s.holdTest { kind := 2, target := port, immediate := false }).startTests

def execTestPortRetrain (_ : Agent) (target : Nat) (s : State) : Host.Outcome State Fault Refusal :=
  .next (if target % 256 < 7 then s.testPort (target % 256) else s)

/-- TEST_FULL_SELF_TEST: accepted only with PHASE 0b000 or 0b111. -/
def State.testFull (s : State) : State :=
  if s.fget F.HUB_STEP_STS_PHASE = 0 || s.fget F.HUB_STEP_STS_PHASE = 7 then (s.holdTest { kind := 3, target := 0, immediate := false }).startTests
  else s.fset F.HUB_TEST_STS_REFUSED 1

def execTestFullSelfTest (_ : Agent) (s : State) : Host.Outcome State Fault Refusal := .next s.testFull

/-- CALIBRATION_PERIOD: firmware requests the PHY calibration. -/
def execCalibrationPeriod (s : State) : Host.Outcome State Fault Refusal :=
  .next (if s.fget F.HUB_TEST_CFG_CAL_PERIOD_S = 0 then s else (s.holdTest { kind := 4, target := 0, immediate := false }).startTests)

/-- R425: CAL_BUDGET_MS, where 0 acts as 1, is spent once an item ends later than that after the first of the boundary's items began. -/
def State.budgetSpent (s : State) (ms : Nat) : Bool := s.standsAtBoundary && max 1 (s.fget F.HUB_TEST_CFG_CAL_BUDGET_MS) < ms

/-- A running item ends, `ms` after the first item of the boundary began; a failed self-test of a unit makes it permanent, to be retired at the next moment of R293. -/
def State.testDone (s : State) (pass : Bool) (ms : Nat) : State :=
  match s.test.running with
  | none => s
  | some x =>
    let s := { s with test := { s.test with running := none, spent := s.test.spent || s.budgetSpent ms } }
    let selfTest := x.kind = 0 || x.kind = 3
    let s := if selfTest && !pass then s.fset F.HUB_TEST_STS_FAIL 1 else s
    let u := unitOf x.target
    let s :=
      if x.kind = 0 && !pass then
        let s := s.unitEvent u 6 0
        { s with spares := { s.spares with retire := s.spares.retire.filter (· ≠ u) ++ [u] } }
      else s
    let s := if x.kind = 1 then s.pchTrain (x.target / 256) (x.target % 256) [] else s
    s.startTests

def execTestComplete (pass : Bool) (ms : Nat) (s : State) : Host.Outcome State Fault Refusal := .next (s.testDone pass ms).settle

end Sys2Proof.Machine
end

