-- ==== Sys2Proof/Machine/Ostler.lean ====
section
/-! DEFINITION. The Ostler's request queues (R388), and the slot changes that hold them up (R401). -/
namespace Sys2Proof.Machine

/-- What a request that has waited does, by its code and, for RECOVERY, its RCMD. -/
def requestExec (key : Nat) (m : GMsg) (s : State) : Host.Outcome State Fault Refusal :=
  match key with
  | 0x01 => execDiscover m s
  | 0x02 => execGetCert m s
  | 0x03 => execAttest m s
  | 0x04 => execJobOpen m s
  | 0x05 => execJobClose m s
  | 0x06 => execKeyLoad m s
  | 0x07 => execKeyDerive m s
  | 0x08 => execKeyErase m s
  | 0x110 => execExpel m s
  | 0x210 => execAbortStep m s
  | 0x310 => execReissue m s
  | 0x410 => execJoinLoad m s
  | 0x510 => execTakeover m s
  | 0x610 => execJoinCancel m s
  | 0x710 => execStandby m s
  | 0x12 => execRead m s
  | 0x20 => execFwBegin m s
  | 0x21 => execFwWrite m s
  | 0x22 => execFwActivate m s
  | 0x23 => execFwCommit m s
  | 0x24 => execHoldRelease m s
  | 0x25 => execDebugChal m s
  | 0x26 => execDebugUnlock m s
  | 0x30 => execForward m s
  | _ => .next s

def State.runRequest (s : State) (key : Nat) (m : GMsg) : State := match requestExec key m s with | .next t => t | _ => s

/-- The request that is taken next: the paths in turn, the oldest of each first. -/
def State.nextRequest (s : State) : Option (Nat × GMsg) :=
  [1, 2, 3, 4].findSome? fun i => s.mgmt.queue.find? fun r => r.2.path = (s.mgmt.lastPath + i) % 4

def State.serveQueue : Nat → State → State
  | 0, s => s
  | n + 1, s =>
    if !s.mgmt.changes.isEmpty then s
    else
      match s.nextRequest with
      | none => s
      | some (key, m) => State.serveQueue n
          (({ s with mgmt := { s.mgmt with queue := s.mgmt.queue.erase (key, m), lastPath := m.path } } : State).runRequest key m)

/-- The Ostler takes what has waited, as far as nothing waits anew. -/
def State.serveRequests (s : State) : State := State.serveQueue s.mgmt.queue.length s

/-- A slot change that still waits is answered BUSY. -/
def State.dropChange (s : State) (c : Change) : State :=
  ({ s with mgmt := { s.mgmt with changes := s.mgmt.changes.filter (· ≠ c) } } : State).refuseMsg c.msg c.code 8

/-- The first change that waits for a slot. -/
def State.waitingChange (s : State) (n : Nat) : Option Change := s.mgmt.changes.find? (·.slot = n)

/-- KEY_SLOT_CHANGE_APPLY: no record uses the slot any more. -/
def execKeySlotChangeApply (slot : Nat) (s : State) : Host.Outcome State Fault Refusal :=
  .next (match s.waitingChange slot with
    | some c =>
      if s.slotUsed slot then s
      else
        let s : State := { s with mgmt := { s.mgmt with changes := s.mgmt.changes.filter (· ≠ c) } }
        ((s.putSlot slot c.put).reply c.msg c.code 0 []).serveRequests
    | none => s)

/-- KEY_SLOT_WAIT_TIMEOUT: after 1 s the request is answered BUSY and has no effect. -/
def execKeySlotWaitTimeout (slot : Nat) (s : State) : Host.Outcome State Fault Refusal :=
  .next (match s.waitingChange slot with | some c => (s.dropChange c).serveRequests | none => s)

end Sys2Proof.Machine
end

