-- ==== Sys2Proof/Machine/Regs.lean ====
section
/-! DEFINITION. Register accesses (R5, R7 to R11, R373, R444 to R452) and the stop of a control processor (R17). A register that has an action of
its own takes it by the operation that the action's own command uses. -/
namespace Sys2Proof.Machine

/-! ### Which accesses are performed (R5, R7, R373, R445, R446) -/

/-- A page's block-specific registers lie in a domain that is fenced, collected, reset, held or out of service. The device's own sequence fences no
register: its hold is ended by one (R344). -/
def State.regFenced (s : State) (w p : Nat) : Bool :=
  (pageDomains w p).any fun d => d ≠ 0 && (s.domOos d || ([1, 2, 3, 4].any fun c => domainContains c d && s.domOos c) ||
    s.fencedDomains.any fun f => f ≠ 0 && domainContains f d)

/-- An offset that R451 names, in a page that R444 lists. -/
def regNamed (o : Nat) : Bool :=
  offPage o < windowPages (offWindow o) && (if 0x300 ≤ offWindow o then inPage o = 0x40 else (rowOf (canonReg o)).isSome)

/-- The pages whose block-specific registers host software does not write (R104, R258, R364, R366). -/
def firmwarePage (o : Nat) : Bool :=
  let w := offWindow o
  let p := offPage o
  0x40 ≤ inPage o && ((2 ≤ w && w ≤ 4 && p = 1) || (w = 8 && p = 2))

/-- The status of an access (R373): 0 OK, 1 ADDR_ERROR, 2 SIZE_ERROR, 3 FENCED. -/
def State.regStatus (s : State) (o size : Nat) : Nat :=
  if 2 ^ 26 ≤ o || windowPages (offWindow o) = 0 then 1
  else if size ≠ 4 || o % 4 ≠ 0 then 2
  else if inPage o < 0x40 || !regNamed o then 0
  else if s.regFenced (offWindow o) (offPage o) then 3
  else 0

/-- The status of a write: one of host software's to a firmware page is discarded, and answered OK. -/
def State.writeStatus (s : State) (a : Agent) (o size : Nat) : Nat :=
  if a = .host && firmwarePage o && size = 4 && o % 4 = 0 && o < 2 ^ 26 then 0 else s.regStatus o size

/-- What an access that is not performed leaves in BLK_ERR_INFO2; the doorbell windows have none (R446). -/
def State.noteStatus (s : State) (o st : Nat) : State :=
  if 0x300 ≤ offWindow o then s
  else if st = 2 then s.accessError (offWindow o) 1 o
  else if st = 3 then s.accessError (offWindow o) 2 o
  else s

/-! ### The header (R446 to R449) -/

def State.putHeader (s : State) (a : Agent) (o data : Nat) : State :=
  let w := offWindow o
  let h := w * 65536
  if 0x300 ≤ w || windowPages w ≤ offPage o then s
  else if inPage o = R.BLK_CTL then
    let s := s.ctlEnable o data
    if bit data 0 then s.ctlReset a o else if bit data 1 then s.ctlFence a o else s
  else if inPage o = R.BLK_EVT_EN then (s.wr (h + R.BLK_EVT_EN) data).evtLevel w
  else if inPage o = 0x20 then (s.wr (h + R.BLK_EVT_RAW) (s.rd (h + R.BLK_EVT_RAW) - (s.rd (h + R.BLK_EVT_RAW) &&& data))).evtLevel w
  else if inPage o = 0x24 then s.evtSet o data
  else if inPage o = R.BLK_ERR_INFO2 && bit data 31 then s.wr (h + R.BLK_ERR_INFO2) (s.rd (h + R.BLK_ERR_INFO2) % 2 ^ 31)
  else s

/-! ### Plain registers (R9, R10) -/

def State.isSealed (s : State) : Bool := s.flag F.HUB_SEAL_STS_SEALED

/-- The bits of a row that a write sets. -/
def State.writable (s : State) (r : RegRow) : Nat := r.rw ||| (if s.isSealed then 0 else r.rwl)

/-- RW and RWL bits take the written value, and each 1 clears its W1C bit. -/
def State.plainWrite (s : State) (k data : Nat) : State :=
  match rowOf k with
  | none => s
  | some r =>
    let m := s.writable r
    let old := s.rd k
    s.wr k (((old - (old &&& m)) - ((old - (old &&& m)) &&& (r.w1c &&& data))) + (data &&& m))

/-! ### Registers with an action -/

/-- HUB_RST_REQ (R351). -/
def State.writeRstReq (s : State) (a : Agent) (data : Nat) : State :=
  let d := bits data 7 0
  if !bit data 31 then s
  else match bits data 30 29 with
    | 0 => s.askReset a d
    | 1 => s.askFence a d
    | 2 => s.releaseDomain a d
    | _ => s

/-- HUB_TEST_REQ (R429). How long an immediate test would last is a free value in a write that does not say it. -/
def State.writeTestReq (s : State) (data : Nat) : State :=
  let t := bits data 15 0
  if !bit data 31 then s
  else match bits data 29 28 with
    | 0 => if bit data 30 then s.fresh.2.testUnit t true s.fresh.1 else s.testUnit t false 0
    | 1 => s.testPch t
    | 2 => if t % 256 < 7 then s.testPort (t % 256) else s
    | _ => s.testFull

/-- HUB_WATCH_LOG_CFG (R156): SIZE_LOG2 only while EN reads 0, and only from 6 to 16. -/
def State.writeLogCfg (s : State) (data : Nat) : State :=
  let n := bits data 20 16
  let size := if !s.flag F.HUB_WATCH_LOG_CFG_EN && 6 ≤ n && n ≤ 16 then n else s.fget F.HUB_WATCH_LOG_CFG_SIZE_LOG2
  s.wr R.HUB_WATCH_LOG_CFG (bits data 31 31 * 2 ^ 31 + size * 2 ^ 16 + bits data 15 0)

/-- HUB_UNIT_STS: the sources that the W1C bits hold follow them (R353). -/
def State.writeUnitSts (s : State) (data : Nat) : State :=
  let s := s.plainWrite R.HUB_UNIT_STS data
  (s.setLevel 0x083 (s.flag F.HUB_UNIT_STS_SPARE_SHORT)).setLevel 0x084 (s.flag F.HUB_UNIT_STS_DEV_SLOW)

def State.writeHub (s : State) (a : Agent) (k data : Nat) : State :=
  if k = R.HUB_WATCH_CTL then
    let s := if bit data 0 then s.watchCapture else s
    if bit data 1 then s.watchCommit else s
  else if k = R.HUB_WATCH_LOG_CFG then s.writeLogCfg data
  else if k = R.HUB_UNIT_STS then s.writeUnitSts data
  else if k = R.HUB_PRE_NOTICE then s.writePreNotice data
  else if k = R.HUB_PRE_CTL then (if bit data 0 then s.release else s)
  else if k = R.HUB_RST_REQ then s.writeRstReq a data
  else if k = R.HUB_ABORT_CTL then
    (if bit data 0 && !s.reissueRefused (s.rd64 R.HUB_ABORT_STEP) then s.reissue (s.rd64 R.HUB_ABORT_STEP) else s)
  else if k = R.HUB_TEST_REQ then s.writeTestReq data
  else if k = R.HUB_SEAL_CTL then (if bit data 0 then s.sealConfig else s)
  else s.plainWrite k data

def State.writeDep (s : State) (k data : Nat) : State :=
  if R.DEP_MODE ≤ k && k < R.DEP_MODE + 8 then s.writeDepMode ((k - R.DEP_MODE) / 4) data
  else if R.DEP_CR_BASE ≤ k && k < R.DEP_CR_BASE + 64 then s.writeDepCr ((k - R.DEP_CR_BASE) / 4) data
  else s.plainWrite k data

/-- SYN registers of page p (R104, R110). -/
def State.writeSyn (s : State) (p k data : Nat) : State :=
  if k = R.SYN_SEL then s.wr (pageReg k p) (data % 2 ^ 14)
  else if k = R.SYN_ADD then s.addCounter p data
  else s

/-- QUE registers of page p (R104, R108, R109); the context's window and ring only while it is disabled. -/
def State.writeQue (s : State) (p k data : Nat) : State :=
  let n := s.ctxSel p
  let c := s.getC n
  if k = R.QUE_SEL then s.wr (pageReg k p) (data % 2 ^ 14)
  else if k = R.QUE_CFG then s.writeQueCfg p data
  else if k = R.QUE_CTL then s.writeQueCtl p data
  else if k = R.QUE_CTX_SEL then s.wr (pageReg k p) (data % 64)
  else if k = R.QUE_CTX_CFG then s.writeCtxCfg p data
  else if k = R.QUE_CTX_WIN_BASE then (if c.en then s else s.setC n { c with winBase := data % 2 ^ 20 })
  else if k = R.QUE_CTX_WIN_LIMIT then (if c.en then s else s.setC n { c with winLimit := data % 2 ^ 20 })
  else if k = R.QUE_CTX_EPOCH then (if p = 1 then s.setC n { c with epoch := data % 2 ^ 32 } else s)
  else if k = R.QUE_CTX_STS then (if bit data 16 then s.setC n { c with crOvf := false } else s)
  else if k = R.QUE_CTX_CR_CFG then s.setC n (c.configureRing data)
  else s

def State.writeCxe (s : State) (k data : Nat) : State :=
  if k = R.CXE_NEXT_CTL then
    let s := if bit data 1 then s.cancelLayout else s
    if bit data 0 then s.armLayout else s
  else s.plainWrite k data

def State.writeLxe (s : State) (k data : Nat) : State :=
  if R.LXE_SR_BASE ≤ k && k < R.LXE_SR_BASE + 64 then s.writeStateRange ((k - R.LXE_SR_BASE) / 4) data
  else if R.LXE_CKPT_SRC_BASE ≤ k && k < R.LXE_CKPT_SRC_BASE + 32 then s.writeStateRange (16 + (k - R.LXE_CKPT_SRC_BASE) / 4) data
  else if k = R.LXE_CKPT_CTL then
    let s := if bit data 0 then s.drained else s
    if bit data 1 then s.discardGen else s
  else s.plainWrite k data

/-- FAB registers of page p; a new partner forgets that the last one was lost. -/
def State.writeFab (s : State) (p k data : Nat) : State :=
  if k = R.FAB_MAP_CTL then
    let s := s.plainWrite k data
    if bit data 0 then s.holdReload else s
  else if k = R.FAB_YOKE then
    let s := s.plainWrite k data
    if s.isSealed then s else { s with ledger := { s.ledger with yokeLost := false } }
  else if 1 ≤ p && inPage k = 0x40 then s.portCtl (p - 1) data
  else s.plainWrite k data

def State.writeIcu (s : State) (a : Agent) (k data : Nat) : State :=
  let within (r n : Nat) : Bool := r ≤ k && k < r + 4 * n
  if k = R.ICU_CFG then s.writeIcuCfg a data
  else if k = R.ICU_SRC_CFG then s.writeSrcCfg a data
  else if k = R.ICU_GRP_CFG0 then s.writeGrpCfg0 a data
  else if k = R.ICU_GRP_CFG1 then s.writeGrpCfg1 a data
  else if within R.ICU_HMASK 64 then s.writeMask 0 ((k - R.ICU_HMASK) / 4) data
  else if within R.ICU_HPEND 64 then s.writePend 0 ((k - R.ICU_HPEND) / 4) data
  else if within R.ICU_FMASK 64 then s.writeMask 1 ((k - R.ICU_FMASK) / 4) data
  else if within R.ICU_FPEND 64 then s.writePend 1 ((k - R.ICU_FPEND) / 4) data
  else if within R.ICU_T_EOI 32 then
    let t := (k - R.ICU_T_EOI) / 16
    if !targetAllowed a t then s
    else if (k - R.ICU_T_EOI) % 16 = 0 then s.endInterrupt t (data % 256)
    else if (k - R.ICU_T_EOI) % 16 = 8 then
      let s := if bit data 0 then s.popTop t else s
      if bit data 1 then s.clearStack t else s
    else s
  else s.plainWrite k data

/-- PWR_LEVELS (R410): a write that breaks a limit is discarded. -/
def State.writeLevels (s : State) (data : Nat) : State :=
  let warn := bits data 29 20
  let sus := bits data 19 10
  let rst := bits data 9 0
  let fits := 360 ≤ warn && warn ≤ 395 && rst + 10 ≤ sus && sus + 10 ≤ warn && 320 ≤ rst && rst ≤ 350
  if s.isSealed then s else if fits then s.wr R.PWR_LEVELS (data % 2 ^ 30) else s.fset F.PWR_STS_LVL_ERR 1

/-- CAR_REMOUNT_CTL (R295). -/
def State.writeRemount (s : State) (n data : Nat) : State :=
  if bit data 31 && bits data 30 29 < 2 then s.holdRemount n (bits data 30 29) (bits data 28 28) (bits data 4 0) else s

/-- A write of a block-specific register that is performed. -/
def State.writeReg (s : State) (a : Agent) (o data : Nat) : State :=
  let w := offWindow o
  let p := offPage o
  let k := canonReg o
  let n := (w - 0x100) / 16
  if 0x300 ≤ w then s.ring ((w - 0x300) * 16 + p) (bits data 29 16) (bits data 15 0)
  else if w = 0 then s.writeHub a k data
  else if w = 1 then s.writeDep k data
  else if w = 2 then s.writeSyn p k data
  else if w = 3 then s.writeQue p k data
  else if w = 4 then s.writeCxe k data
  else if w = 6 then s.writeLxe k data
  else if w = 7 then s.writeFab p k data
  else if w = 8 then s.writeIcu a k data
  else if k = R.OST_MBX_CTL then s.mailboxGo data
  else if k = R.PWR_LEVELS then s.writeLevels data
  else if k = R.PWR_THROT_CTL then (s.plainWrite k data).throttle F.PWR_THROT_STS_SOFT (bit data 0)
  else if k = R.DMP_CTL then (if bit data 0 then s.endHold else s)
  else if 0x100 ≤ w && baseReg k = R.CAR_REMOUNT_CTL then s.writeRemount n data
  else if 0x100 ≤ w && baseReg k = R.MEM_TRAIN_CTL then (if bit data 0 then s.memRetrain (2 * n + (p - 1)) else s)
  else s.plainWrite k data

/-! ### Register pairs (R8) -/

/-- The bits of a pair that a write can set. -/
def pairMask (k : Nat) : Nat :=
  let low (n : Nat) : Nat := 2 ^ 64 - 2 ^ n
  if k = R.QUE_BASE || k = R.QUE_CTX_CR || k = R.HUB_WATCH_LOG then low 6
  else if k = R.LXE_LEDGER_BASE then low 16
  else if k = R.LXE_CKPT_BASE || k = R.FAB_MAP_BASE || k = R.DMP_OUT_BASE then low 20
  else if k = R.ICU_MSI_ADDR || k = R.ICU_MSIX_ADDR then low 2
  else if k = R.IXE_SHUF_N then 2 ^ 48 - 1
  else 2 ^ 64 - 1

/-- The pair takes writes now: it is RW, or RWL before the seal; the log's base only while the log is disabled, the completion ring's while the
context is. -/
def State.pairOpen (s : State) (p k : Nat) : Bool :=
  (match rowOf k with | some r => s.writable r ≠ 0 | none => false) &&
    !(k = R.HUB_WATCH_LOG && s.flag F.HUB_WATCH_LOG_CFG_EN) && !(k = R.QUE_CTX_CR && (s.getC (s.ctxSel p)).en) &&
    !(k = R.HUB_SCHED_FIRST && (s.flag F.HUB_SCHED_CTL_RUN || s.fget F.HUB_STEP_STS_PHASE ≠ 0))

/-- The low word of a pair is held pending, by the offset it was written at. -/
def State.holdLow (s : State) (o data : Nat) : State :=
  if s.pairOpen (offPage o) (canonReg o) then
    { s with pairs := { s.pairs with lows := tset (fun _ => (none : Option Word)) s.pairs.lows o (some (BitVec.ofNat 32 data)) } }
  else s

/-- The pair takes a value. -/
def State.setPair (s : State) (p k v : Nat) : State :=
  let n := s.ctxSel p
  let q := s.queSel p
  if k = R.QUE_BASE then s.setQ q { s.getQ q with base := v }
  else if k = R.QUE_CTX_SRKEY then s.setC n { s.getC n with srkey := v }
  else if k = R.QUE_CTX_CR then s.setC n { s.getC n with crBase := v }
  else s.wr64 k v

/-- The write of the high word applies it with the pending low word, or alone. -/
def State.applyHigh (s : State) (o data : Nat) : State :=
  let low := o - 4
  let p := offPage o
  let k := canonReg low
  if k = R.SYN_VAL then s.setCounter p data
  else if k = R.HUB_SCHED_FIRST then s.writeFirst data
  else if !s.pairOpen p k then s
  else
    let v := data % 2 ^ 32 * 2 ^ 32 + s.lowWord low (s.regNow low)
    (s.dropLow low).setPair p k (v &&& pairMask k)

/-! ### The commands -/

/-- A write that is performed: of the header, of a pair's word, or of another register. -/
def State.performWrite (s : State) (a : Agent) (o data : Nat) : State :=
  if inPage o < 0x40 then s.putHeader a o data
  else if (a = .host && firmwarePage o) || !regNamed o then s
  else if isPairLow o then s.holdLow o data
  else if isPairHigh o then s.applyHigh o data
  else s.writeReg a o data

/-- Host software's accesses reach nothing while the host attachment is out of service (R345). -/
def State.cutOff (s : State) (a : Agent) : Bool := a = .host && s.domOos 0x43

/-- A write by host software arrives in a REG_WR, and one that fails is answered with ERR and its TAG (R373). -/
def State.busWrite (s : State) (a : Agent) (o size data tag : Nat) : State :=
  if s.cutOff a then s else
  let st := s.writeStatus a o size
  if st = 0 then (s.performWrite a o data).settle
  else
    let s := s.noteStatus o st
    if a = .host then s.sendErr tag st else s

/-- REGISTER_WRITE. -/
def execRegisterWrite (a : Agent) (off size data tag : Nat) (s : State) : Host.Outcome State Fault Refusal :=
  .next (s.busWrite a off size (data % 2 ^ 32) tag)

/-- PAIR_LOW_WRITE. -/
def execPairLowWrite (a : Agent) (off data tag : Nat) (s : State) : Host.Outcome State Fault Refusal :=
  .next (if isPairLow off then s.busWrite a off 4 (data % 2 ^ 32) tag else s)

/-- PAIR_HIGH_WRITE. -/
def execPairHighWrite (a : Agent) (off data tag : Nat) (s : State) : Host.Outcome State Fault Refusal :=
  .next (if isPairHigh off then s.busWrite a off 4 (data % 2 ^ 32) tag else s)

/-- A read: its status, the value it returns, and what it leaves. -/
def State.busRead (s : State) (o size : Nat) : Nat × Nat × State :=
  let st := s.regStatus o size
  if st = 0 then
    let (v, s) := if inPage o < 0x40 || regNamed o then s.readReg o else (0, s)
    (0, v, s)
  else (st, 0, s.noteStatus o st)

/-- PAIR_LOW_READ: the low word is returned and the high word captured; a read of another size returns 0 and captures nothing (R7). -/
def execPairLowRead (a : Agent) (r : RegRead) (s : State) : Host.Outcome State Fault Refusal :=
  .next (
    if isPairLow r.off && !s.cutOff a then
      let (_, v, s) := s.busRead r.off r.size
      s.emit (.regValue r.off (BitVec.ofNat 32 v))
    else s)

/-- REG_RD: one REG_RESP with the TAG and the status (R7). -/
def execRegRd (r : RegRead) (tag : Nat) (s : State) : Host.Outcome State Fault Refusal :=
  .next (if s.cutOff .host then s else let (st, v, s) := s.busRead r.off r.size; s.sendHost (mkHost 0x03 2 0 v tag st))

/-- REG_TIMEOUT: a block has not answered within 20 µs. -/
def execRegTimeout (_ tag : Nat) (write : Bool) (s : State) : Host.Outcome State Fault Refusal :=
  .next (if s.cutOff .host then s else if write then s.sendErr tag 4 else s.sendHost (mkHost 0x03 2 0 0 tag 4))

/-! ### A control processor stops (R17) -/

/-- The Ostler resets the device. -/
def State.ostlerReset (s : State) : State :=
  let (v, s) := (s.stepAbort 0x0B 0).fresh
  (s.storeSummary 0x0B (v % 2 ^ 32)).deviceReset 0x0B

/-- Processors 0 to 3 are the carriage controllers, 4 and 5 the schedule cores, 6 the recovery core and 7 the Ostler, in the order of R16. -/
def State.processorStops (s : State) (proc cls : Nat) : State :=
  let s := ((s.fset (coreField proc) 3).event 0 1).logRec 4 s.stepNum (proc * 256 + cls % 256)
  let s := s.noteUnit 8 (if proc < 4 then proc else 0xF) proc 0x0B (cls % 2 ^ 32)
  if proc < 4 then s.requestSeq (1 + proc) false 9
  else if proc < 7 then s.ostlerReset
  else { s with power := { s.power with fault := true } }

/-- PROCESSOR_FAULT, with the fault class that is recorded. -/
def execProcessorFault (proc cls : Nat) (s : State) : Host.Outcome State Fault Refusal := .next (if proc < 8 then (s.processorStops proc cls).settle else s)

end Sys2Proof.Machine
end

