-- ==== Sys2Proof/Machine/Dispatch.lean ====
section
/-! DEFINITION. One arm for each command of the table: a direct call of its meaning. -/
namespace Sys2Proof.Machine

/-- The effect of a command on everything but the queue of commands that wait. -/
def exec (i : Instr) (s : State) : Host.Outcome State Fault Refusal :=
  match i with
  | .registerWrite a off size data tag => Sys2Proof.Machine.execRegisterWrite a off size data tag s
  | .pairLowRead a r => Sys2Proof.Machine.execPairLowRead a r s
  | .pairLowWrite a off data tag => Sys2Proof.Machine.execPairLowWrite a off data tag s
  | .pairHighWrite a off data tag => Sys2Proof.Machine.execPairHighWrite a off data tag s
  | .regRd r tag => Sys2Proof.Machine.execRegRd r tag s
  | .regTimeout addr tag write => Sys2Proof.Machine.execRegTimeout addr tag write s
  | .processorFault proc cls => Sys2Proof.Machine.execProcessorFault proc cls s
  | .doorbell page word => Sys2Proof.Machine.execDoorbell page word s
  | .recordStart engine => Sys2Proof.Machine.execRecordStart engine s
  | .recordRetire rid => Sys2Proof.Machine.execRecordRetire rid s
  | .nop rid => Sys2Proof.Machine.execNop rid s
  | .mxGemm rid errs faults => Sys2Proof.Machine.execMxGemm rid errs faults s
  | .mxAttn rid faults => Sys2Proof.Machine.execMxAttn rid faults s
  | .vxEw rid => Sys2Proof.Machine.execVxEw rid s
  | .vxRed rid => Sys2Proof.Machine.execVxRed rid s
  | .vxPcm rid => Sys2Proof.Machine.execVxPcm rid s
  | .vxOptMoment rid => Sys2Proof.Machine.execVxOptMoment rid s
  | .vxOptSgdm rid => Sys2Proof.Machine.execVxOptSgdm rid s
  | .vxOptSign rid => Sys2Proof.Machine.execVxOptSign rid s
  | .mvCopy rid errs => Sys2Proof.Machine.execMvCopy rid errs s
  | .mvGather rid => Sys2Proof.Machine.execMvGather rid s
  | .mvScatterAdd rid => Sys2Proof.Machine.execMvScatterAdd rid s
  | .mvPack x => Sys2Proof.Machine.execMvPack x s
  | .mvUnpack rid => Sys2Proof.Machine.execMvUnpack rid s
  | .mvFill rid => Sys2Proof.Machine.execMvFill rid s
  | .queCfgWrite a data => Sys2Proof.Machine.execQueCfgWrite a data s
  | .queueStop a => Sys2Proof.Machine.execQueueStop a s
  | .queueResume a => Sys2Proof.Machine.execQueueResume a s
  | .queueSkip a => Sys2Proof.Machine.execQueueSkip a s
  | .queCtxCfgWrite a data => Sys2Proof.Machine.execQueCtxCfgWrite a data s
  | .synValSet a data => Sys2Proof.Machine.execSynValSet a data s
  | .synAdd a data => Sys2Proof.Machine.execSynAdd a data s
  | .stepIssue => Sys2Proof.Machine.execStepIssue s
  | .stepBoundary times => Sys2Proof.Machine.execStepBoundary times s
  | .schedFirstWrite data => Sys2Proof.Machine.execSchedFirstWrite data s
  | .watchCapture => Sys2Proof.Machine.execWatchCapture s
  | .watchCommit => Sys2Proof.Machine.execWatchCommit s
  | .depModeWrite word data => Sys2Proof.Machine.execDepModeWrite word data s
  | .depCrWrite reg data => Sys2Proof.Machine.execDepCrWrite reg data s
  | .stateRangeWrite reg data => Sys2Proof.Machine.execStateRangeWrite reg data s
  | .scrub addr err => Sys2Proof.Machine.execScrub addr err s
  | .memRetrain a stack => Sys2Proof.Machine.execMemRetrain a stack s
  | .pchTrainComplete stack pch failed => Sys2Proof.Machine.execPchTrainComplete stack pch failed s
  | .ixSample rid errs flips => Sys2Proof.Machine.execIxSample rid errs flips s
  | .ixShuffle rid => Sys2Proof.Machine.execIxShuffle rid s
  | .portTrainComplete port failed p => Sys2Proof.Machine.execPortTrainComplete port failed p s
  | .trainingTimeout port event => Sys2Proof.Machine.execTrainingTimeout port event s
  | .linkLost port => Sys2Proof.Machine.execLinkLost port s
  | .laneErrorWindow port counts codewords => Sys2Proof.Machine.execLaneErrorWindow port counts codewords s
  | .portCtlWrite a port data => Sys2Proof.Machine.execPortCtlWrite a port data s
  | .portRetrainRequest port => Sys2Proof.Machine.execPortRetrainRequest port s
  | .idle port h => Sys2Proof.Machine.execIdle port h s
  | .nakRepeat port => Sys2Proof.Machine.execNakRepeat port s
  | .linkErr port h code seq => Sys2Proof.Machine.execLinkErr port h code seq s
  | .retrainReq port h => Sys2Proof.Machine.execRetrainReq port h s
  | .key port h gen => Sys2Proof.Machine.execKey port h gen s
  | .abort port h step reason run domain origin => Sys2Proof.Machine.execAbort port h step reason run domain origin s
  | .packetForward port p => Sys2Proof.Machine.execPacketForward port p s
  | .fabUnreach port p => Sys2Proof.Machine.execFabUnreach port p s
  | .mapReload a => Sys2Proof.Machine.execMapReload a s
  | .cxAllreduce rid => Sys2Proof.Machine.execCxAllreduce rid s
  | .cxRedscat rid => Sys2Proof.Machine.execCxRedscat rid s
  | .cxAllgather rid => Sys2Proof.Machine.execCxAllgather rid s
  | .cxSend rid => Sys2Proof.Machine.execCxSend rid s
  | .cxSignal rid => Sys2Proof.Machine.execCxSignal rid s
  | .cxRing port p => Sys2Proof.Machine.execCxRing port p s
  | .cxWrite port p => Sys2Proof.Machine.execCxWrite port p s
  | .remoteSignal port p => Sys2Proof.Machine.execRemoteSignal port p s
  | .cxResp port p => Sys2Proof.Machine.execCxResp port p s
  | .cxReady port p => Sys2Proof.Machine.execCxReady port p s
  | .cxVerdict port p => Sys2Proof.Machine.execCxVerdict port p s
  | .resend opid pseq => Sys2Proof.Machine.execResend opid pseq s
  | .layoutArm a => Sys2Proof.Machine.execLayoutArm a s
  | .layoutCancel a => Sys2Proof.Machine.execLayoutCancel a s
  | .layoutApply => Sys2Proof.Machine.execLayoutApply s
  | .lxRecord rid => Sys2Proof.Machine.execLxRecord rid s
  | .lxForward rid => Sys2Proof.Machine.execLxForward rid s
  | .lxVerdict rid => Sys2Proof.Machine.execLxVerdict rid s
  | .lxWindow rid => Sys2Proof.Machine.execLxWindow rid s
  | .lxData port p => Sys2Proof.Machine.execLxData port p s
  | .lxHeader port p => Sys2Proof.Machine.execLxHeader port p s
  | .lxDigest port p => Sys2Proof.Machine.execLxDigest port p s
  | .lxResp port p => Sys2Proof.Machine.execLxResp port p s
  | .stateReread window => Sys2Proof.Machine.execStateReread window s
  | .spareSelfTest carriage unit index pass => Sys2Proof.Machine.execSpareSelfTest carriage unit index pass s
  | .remountRetire a carriage unit index => Sys2Proof.Machine.execRemountRetire a carriage unit index s
  | .remountReturn a carriage unit index => Sys2Proof.Machine.execRemountReturn a carriage unit index s
  | .expel m => Sys2Proof.Machine.execExpel m s
  | .abortStep m => Sys2Proof.Machine.execAbortStep m s
  | .reissue m => Sys2Proof.Machine.execReissue m s
  | .joinLoad m => Sys2Proof.Machine.execJoinLoad m s
  | .takeover m => Sys2Proof.Machine.execTakeover m s
  | .joinCancel m => Sys2Proof.Machine.execJoinCancel m s
  | .standby m => Sys2Proof.Machine.execStandby m s
  | .voteExpired low high => Sys2Proof.Machine.execVoteExpired low high s
  | .lxCkpt rid => Sys2Proof.Machine.execLxCkpt rid s
  | .ckptPageCopy page => Sys2Proof.Machine.execCkptPageCopy page s
  | .stalledWritePerformed page => Sys2Proof.Machine.execStalledWritePerformed page s
  | .ckptUnit port p => Sys2Proof.Machine.execCkptUnit port p s
  | .ckptEnd port p => Sys2Proof.Machine.execCkptEnd port p s
  | .ckptReduce port p => Sys2Proof.Machine.execCkptReduce port p s
  | .ckptFetch port p => Sys2Proof.Machine.execCkptFetch port p s
  | .lxCkptRebuild rid => Sys2Proof.Machine.execLxCkptRebuild rid s
  | .lxRestore rid => Sys2Proof.Machine.execLxRestore rid s
  | .ckptDrained => Sys2Proof.Machine.execCkptDrained s
  | .ckptDiscard => Sys2Proof.Machine.execCkptDiscard s
  | .preNotice a data => Sys2Proof.Machine.execPreNotice a data s
  | .preemptN => Sys2Proof.Machine.execPreemptN s
  | .ckptStop port p => Sys2Proof.Machine.execCkptStop port p s
  | .release => Sys2Proof.Machine.execRelease s
  | .engineProgressExpire engine => Sys2Proof.Machine.execEngineProgressExpire engine s
  | .syncWaitExpire queue => Sys2Proof.Machine.execSyncWaitExpire queue s
  | .fabricResponseExpire opid => Sys2Proof.Machine.execFabricResponseExpire opid s
  | .peerTimeout port => Sys2Proof.Machine.execPeerTimeout port s
  | .fenceDrainExpire domain => Sys2Proof.Machine.execFenceDrainExpire domain s
  | .collectComplete tick recent => Sys2Proof.Machine.execCollectComplete tick recent s
  | .dumpReadTimeout window => Sys2Proof.Machine.execDumpReadTimeout window s
  | .collectAbandon recent dumpRecent => Sys2Proof.Machine.execCollectAbandon recent dumpRecent s
  | .domainResetComplete => Sys2Proof.Machine.execDomainResetComplete s
  | .discardTimeout engine => Sys2Proof.Machine.execDiscardTimeout engine s
  | .rstFenceCollectReset a domain => Sys2Proof.Machine.execRstFenceCollectReset a domain s
  | .rstFenceHold a domain => Sys2Proof.Machine.execRstFenceHold a domain s
  | .rstRelease a domain => Sys2Proof.Machine.execRstRelease a domain s
  | .blkResetReq a off => Sys2Proof.Machine.execBlkResetReq a off s
  | .blkFenceReq a off => Sys2Proof.Machine.execBlkFenceReq a off s
  | .blkEngineEn off data => Sys2Proof.Machine.execBlkEngineEn off data s
  | .blkEvtSet off data => Sys2Proof.Machine.execBlkEvtSet off data s
  | .dumpAck => Sys2Proof.Machine.execDumpAck s
  | .dumpHoldExpire => Sys2Proof.Machine.execDumpHoldExpire s
  | .abortCtlReissue => Sys2Proof.Machine.execAbortCtlReissue s
  | .groupTimerExpire group => Sys2Proof.Machine.execGroupTimerExpire group s
  | .interruptDelivery target => Sys2Proof.Machine.execInterruptDelivery target s
  | .endOfInterrupt a target vector => Sys2Proof.Machine.execEndOfInterrupt a target vector s
  | .stackClear a target => Sys2Proof.Machine.execStackClear a target s
  | .stackPoptop a target => Sys2Proof.Machine.execStackPoptop a target s
  | .icuMaskWrite a plane index data => Sys2Proof.Machine.execIcuMaskWrite a plane index data s
  | .htToDev rid => Sys2Proof.Machine.execHtToDev rid s
  | .htToHost rid => Sys2Proof.Machine.execHtToHost rid s
  | .htRing rid => Sys2Proof.Machine.execHtRing rid s
  | .dmaRdData m => Sys2Proof.Machine.execDmaRdData m s
  | .dmaWrAck m => Sys2Proof.Machine.execDmaWrAck m s
  | .hostTimeout tag => Sys2Proof.Machine.execHostTimeout tag s
  | .hostPre m => Sys2Proof.Machine.execHostPre m s
  | .hostLinkTrain modules => Sys2Proof.Machine.execHostLinkTrain modules s
  | .mailboxGo data => Sys2Proof.Machine.execMailboxGo data s
  | .discover m => Sys2Proof.Machine.execDiscover m s
  | .getCert m => Sys2Proof.Machine.execGetCert m s
  | .attest m => Sys2Proof.Machine.execAttest m s
  | .jobOpen m => Sys2Proof.Machine.execJobOpen m s
  | .jobClose m => Sys2Proof.Machine.execJobClose m s
  | .keyLoad m => Sys2Proof.Machine.execKeyLoad m s
  | .keyDerive m => Sys2Proof.Machine.execKeyDerive m s
  | .keyErase m => Sys2Proof.Machine.execKeyErase m s
  | .keySlotChangeApply slot => Sys2Proof.Machine.execKeySlotChangeApply slot s
  | .keySlotWaitTimeout slot => Sys2Proof.Machine.execKeySlotWaitTimeout slot s
  | .read m => Sys2Proof.Machine.execRead m s
  | .fwBegin m => Sys2Proof.Machine.execFwBegin m s
  | .fwWrite m => Sys2Proof.Machine.execFwWrite m s
  | .fwActivate m => Sys2Proof.Machine.execFwActivate m s
  | .fwCommit m => Sys2Proof.Machine.execFwCommit m s
  | .fwSessionTimeout => Sys2Proof.Machine.execFwSessionTimeout s
  | .holdRelease m => Sys2Proof.Machine.execHoldRelease m s
  | .debugChal m => Sys2Proof.Machine.execDebugChal m s
  | .debugUnlock m => Sys2Proof.Machine.execDebugUnlock m s
  | .challengeExpire => Sys2Proof.Machine.execChallengeExpire s
  | .forward m => Sys2Proof.Machine.execForward m s
  | .jtagInstruction code => Sys2Proof.Machine.execJtagInstruction code s
  | .supplyStart => Sys2Proof.Machine.execSupplyStart s
  | .sysResetN low => Sys2Proof.Machine.execSysResetN low s
  | .firmwareBoot banks recent => Sys2Proof.Machine.execFirmwareBoot banks recent s
  | .controlCoreRelease core => Sys2Proof.Machine.execControlCoreRelease core s
  | .memoryInitComplete carriage => Sys2Proof.Machine.execMemoryInitComplete carriage s
  | .startupSelfTestComplete failed => Sys2Proof.Machine.execStartupSelfTestComplete failed s
  | .seal a => Sys2Proof.Machine.execSeal a s
  | .supplyWarn mv => Sys2Proof.Machine.execSupplyWarn mv s
  | .supplyWarnRecover mv => Sys2Proof.Machine.execSupplyWarnRecover mv s
  | .supplySag mv => Sys2Proof.Machine.execSupplySag mv s
  | .supplySuspect mv => Sys2Proof.Machine.execSupplySuspect mv s
  | .supplySuspectRecover => Sys2Proof.Machine.execSupplySuspectRecover s
  | .supplyReset => Sys2Proof.Machine.execSupplyReset s
  | .powerTransientLimit => Sys2Proof.Machine.execPowerTransientLimit s
  | .powerCapTick watts => Sys2Proof.Machine.execPowerCapTick watts s
  | .thermalThrottle die => Sys2Proof.Machine.execThermalThrottle die s
  | .thermalRelease => Sys2Proof.Machine.execThermalRelease s
  | .thermalReset die => Sys2Proof.Machine.execThermalReset die s
  | .thermalRestart => Sys2Proof.Machine.execThermalRestart s
  | .refclkBad input => Sys2Proof.Machine.execRefclkBad input s
  | .refclkRevertTimer => Sys2Proof.Machine.execRefclkRevertTimer s
  | .refclkHoldExpire => Sys2Proof.Machine.execRefclkHoldExpire s
  | .testUnitSelfTest a target immediate ms => Sys2Proof.Machine.execTestUnitSelfTest a target immediate ms s
  | .testPchRetrain a target => Sys2Proof.Machine.execTestPchRetrain a target s
  | .testPortRetrain a target => Sys2Proof.Machine.execTestPortRetrain a target s
  | .testFullSelfTest a => Sys2Proof.Machine.execTestFullSelfTest a s
  | .calibrationPeriod => Sys2Proof.Machine.execCalibrationPeriod s
  | .testComplete pass ms => Sys2Proof.Machine.execTestComplete pass ms s
  | .discardedFlit port codewords => Sys2Proof.Machine.execDiscardedFlit port codewords s
  | .refclkGood input => Sys2Proof.Machine.execRefclkGood input s
  | .powerTransientRelease => Sys2Proof.Machine.execPowerTransientRelease s
  | .forwardResponse code m => Sys2Proof.Machine.execForwardResponse code m s
  | .forwardTimeout coord reqId => Sys2Proof.Machine.execForwardTimeout coord reqId s

end Sys2Proof.Machine
end

