-- ==== Sys2Proof/Safety.lean ====
section
/-! DEFINITION. The words that statements about the block use: the pieces of its state, "only these pieces differ", what a record in flight and a
healthy memory are, memory after a run of writes, and a run that stays in the model. -/
namespace Sys2Proof.Machine

/-! ### Frames -/

/-- The pieces of the state. Queues, contexts, records in flight and the choice of the next record are pieces of their own. -/
inductive Piece where
  | regs | pairs | mem | mpart | queues | contexts | flights | choice | counters | pos | ledger | run | links | lanes | host | slots | fabKey
  | map | icu | watch | cx | ckpt | pre | spares | recov | rcv | test | measure | power | mgmt | log | history | out | free | pending
deriving DecidableEq, Repr

/-- Two states agree on a piece. -/
def Piece.same (p : Piece) (s t : State) : Prop :=
  match p with
  | .regs => t.regs = s.regs
  | .pairs => t.pairs = s.pairs
  | .mem => t.mem = s.mem
  | .mpart => t.mpart = s.mpart
  | .queues => t.que.queues = s.que.queues ∧ t.que.swept = s.que.swept
  | .contexts => t.que.ctxs = s.que.ctxs
  | .flights => t.que.flights = s.que.flights
  | .choice => t.que.rr = s.que.rr ∧ t.que.nextRid = s.que.nextRid
  | .counters => t.syn = s.syn
  | .pos => t.pos = s.pos
  | .ledger => t.ledger = s.ledger
  | .run => t.run = s.run
  | .links => t.links = s.links
  | .lanes => t.lanes = s.lanes
  | .host => t.host = s.host
  | .slots => t.slots = s.slots
  | .fabKey => t.fabKey = s.fabKey
  | .map => t.map = s.map
  | .icu => t.icu = s.icu
  | .watch => t.watch = s.watch
  | .cx => t.cx = s.cx
  | .ckpt => t.ckpt = s.ckpt
  | .pre => t.pre = s.pre
  | .spares => t.spares = s.spares
  | .recov => t.recov = s.recov
  | .rcv => t.rcv = s.rcv
  | .test => t.test = s.test
  | .measure => t.measure = s.measure
  | .power => t.power = s.power
  | .mgmt => t.mgmt = s.mgmt
  | .log => t.log = s.log
  | .history => t.history = s.history
  | .out => t.out = s.out
  | .free => t.free = s.free
  | .pending => t.pending = s.pending

/-- Nothing but the listed pieces differs. -/
def ChangesOnly (ps : List Piece) (s t : State) : Prop := ∀ p, p ∉ ps → p.same s t

/-- No register but the listed ones differs. -/
def RegsOnly (ks : List Nat) (s t : State) : Prop := ∀ k, k ∉ ks → t.rd k = s.rd k

/-! ### Memory -/

/-- The code of R177 corrects every on-chip word to what was written. -/
def State.corrects (s : State) : Prop := ∀ w, wordFix (s.wordAt w) = some (s.wordAt w)

/-- Every byte of every memory can be read and written: the codes of R174 and R177 correct every block, word and line to what was written, no further pin may become
an erasure while one is to be corrected, no content is lost, nothing is remapped, retired or out of service, and no write waits for a checkpoint. -/
structure State.healthy (s : State) : Prop where
  bad      : s.mpart.bad = []
  blocks   : ∀ b, s.blockFix b = some (s.symsAt b)
  steady   : s.mpart.syms = [] ∨ ∀ i, s.flag (F.MEM_CFG_ERASE_AUTO.stack i) = false
  words    : s.corrects
  ways     : ∀ p ∈ s.mpart.cache, ∀ w ∈ p.2.ways, ∀ e ∈ w.errs, wordFix e.2 = some e.2
  remap    : s.mpart.remap = []
  deadRows : s.mpart.deadRows = []
  retired  : s.mpart.retired = []
  serves   : ∀ n, s.carriageDead n = false
  copied   : s.ckpt.uncopied = []
  stalled  : s.ckpt.stalled = []

/-- What a byte reads as after writes in their order. -/
def afterWrites (old : Nat → Byte) : List (Nat × List Byte) → Nat → Byte
  | [], a => old a
  | (b, bs) :: ws, a => afterWrites (fun x => if b ≤ x ∧ x < b + bs.length then bs.getD (x - b) 0 else old x) ws a

/-- The same writes in a space. -/
def Space.writes (sp : Space) (ws : List (Nat × List Byte)) : List (Nat × List Byte) := ws.map fun w => (sp.key w.1, w.2)

/-- The values of a matrix, row by row. -/
def State.rows (s : State) (sp : Space) (m : Mat) : List (List Val) :=
  (List.range m.rows).map fun r =>
    decodeRow m.fmt m.cols (s.bytes (sp.key (m.base + r * m.pitch)) (rowBytes m.fmt m.cols))
      (if m.fmt.isBlock then s.bytes (sp.key (m.scaleBase + r * up64 m.scales)) m.scales else [])

/-- Nothing that a record writes is refused by a fence or by the guard of R267. -/
def State.writesFreely (s : State) (f : Flight) : Prop :=
  (∀ a n, s.rangeFenced a n = false) ∧ ∀ a n, s.guarded f a n = false

/-- An address lies in one of the byte ranges. -/
def within (rs : List (Nat × Nat)) (a : Nat) : Prop := ∃ r ∈ rs, r.1 ≤ a ∧ a < r.1 + r.2

/-! ### Records in flight -/

/-- The record is in flight, its work is still to be done, and its engine is not halted. -/
def State.runs (s : State) (f : Flight) : Prop :=
  s.flight? f.rid = some f ∧ f.resp = none ∧ s.halted (queueEngine f.queue) = false

/-- The record's work has ended with a response and detail, and no other record in flight has changed. -/
def EndedWith (s t : State) (f : Flight) (resp detail : Nat) : Prop :=
  t.flight? f.rid = some { f with resp := some (resp, detail) } ∧ ∀ r, r ≠ f.rid → t.flight? r = s.flight? r

/-! ### Runs -/

/-- A step that answers neither a fault nor a refusal. -/
def Answers (o : Host.Outcome State Fault Refusal) : Prop := ∃ t, o = .next t

/-- The whole queue of commands is performed. -/
def RunsDry : Nat → State → Prop
  | 0, s => s.pending = []
  | n + 1, s => ∃ t, step s = .next t ∧ RunsDry n t

end Sys2Proof.Machine
end

