-- ==== Sys2Proof/Certificates/Slice0/Obligations.lean ====
section
/-! DEFINITION. The statements about the block. Each names the rules that it formalises. A conclusion of the form "exec c s = .next u.settle" or
"… .next u.earlyFailure" names the state u that the command's own effect leaves: settle then lets the queues go as far as nothing but an engine's
choice holds them (R92, R95), and gives the run up if a cause of failure has arisen in it, as earlyFailure does (R271). -/

open Sys2Proof Sys2Proof.Machine

/-! ### The step -/

/-- A step takes the command at the front of the queue and performs it on the state with the queue's rest. -/
def Obligations.StepTakesFront : Prop :=
  ∀ (s : State) (c : Instr) (rest : List Instr), s.pending = c :: rest → step s = exec c { s with pending := rest }

/-- The fields that the spec resets to values other than zero, with those values (R23 and the field tables of 04 to 18; of a carriage in C0, of a port in the first, R236). -/
def Obligations.resetFields : List (Fld × Nat) :=
  [(F.HUB_SCHED_CFG_PH_ENFORCE, 1), (F.HUB_SCHED_CFG_MB_LAST, 0xF), (F.QUE_CTX_CR_CFG_SIZE_LOG2, 6), (F.CXE_CFG_RESEND_US, 0x3E8), (F.CXE_CFG_RESENDS, 3),
   (F.FAB_LANE_MAP_TX_SP17, 0x1F), (F.FAB_LANE_MAP_TX_SP16, 0x1F), (F.FAB_LANE_MAP_RX_SP17, 0x1F), (F.FAB_LANE_MAP_RX_SP16, 0x1F), (F.CAR_VX_MAP_SPARE, 0x10),
   (F.CAR_SLOW_CFG_SLOW_PCT, 0x5F), (F.CAR_SLOW_CFG_SLOW_STEPS, 8), (F.HUB_RCV_CFG_N, 1), (F.HUB_RCV_CFG_K, 1), (F.HUB_RCV_CFG_VOTE_SEC, 0xA)] ++
  [(F.HUB_JOIN_CFG_SHADOW_FAILS, 3), (F.HUB_JOIN_CFG_SHADOW_STEPS, 8), (F.HUB_UNIT_CFG_REPEAT_N, 3), (F.HUB_UNIT_CFG_HYST, 0x10), (F.HUB_UNIT_CFG_DSLOW_PCT, 0x5F),
   (F.HUB_UNIT_CFG_HIST_WIN, 0x10), (F.LXE_CKPT_CFG_AXIS, 1), (F.LXE_CKPT_CFG_GM1, 0xF), (F.HUB_PRE_CFG_PIN_EN, 1), (F.HUB_PRE_CFG_MARGIN_MS, 0x64),
   (F.HUB_PRE_CFG_PIN_DEADLINE_MS, 0x7530), (F.HUB_WD_LIMIT0_ENG_MS, 0x7D0), (F.HUB_WD_LIMIT0_SYNC_MS, 0x2710), (F.HUB_WD_LIMIT1_FAB_MS, 0x32), (F.HUB_WD_LIMIT1_PEER_S, 0x1E)] ++
  [(F.HUB_RST_CFG_DOM_LIMIT, 4), (F.HUB_RST_CFG_DOM_WIN_S, 0x258), (F.HUB_RST_CFG_DEV_LIMIT, 3), (F.HUB_RST_CFG_DEV_WIN_S, 0xE10), (F.HUB_RST_CTL_ABORT_EN, 1),
   (F.HUB_RST_CTL_SUSPECT_EN, 1), (F.DMP_CFG_SAMPLE_KIB, 0x40), (F.ICU_CFG_EN, 1), (F.UCI_CFG_HOST_MS, 0x32), (F.UCI_CFG_VIOL_LIMIT, 0x10), (F.PWR_LEVELS_WARN, 0x17C),
   (F.PWR_LEVELS_SUSPECT, 0x168), (F.PWR_LEVELS_RESET, 0x154), (F.PWR_CAP_PCAP, 0x960), (F.PWR_THERM_REL_C, 3), (F.PWR_THERM_THROT_C, 0x5F), (F.CLK_CFG_REVERT, 1),
   (F.HUB_TEST_CFG_CAL_PERIOD_S, 0x258), (F.HUB_TEST_CFG_CAL_BUDGET_MS, 0x19)] ++
  [(F.HUB_WATCH_CFG_WIDEN_EN, 1), (F.HUB_WATCH_CFG_GS_ON, 1), (F.HUB_WATCH_CFG_GS_AXES, 9), (F.HUB_WATCH_CFG_WREP_MAX, 4), (F.HUB_WATCH_CFG_STICKY_N, 3),
   (F.LXE_CFG_MIRROR_EN, 1), (F.LXE_CFG_REREAD_EN, 1), (F.LXE_CFG_GUARD_EN, 1), (F.LXE_CFG_VG_CUTS, 0xF), (F.LXE_CFG_WIN_RETRY, 2), (F.LXE_CFG_WIN_MAX, 8),
   (F.LXE_CFG_REPLAY_MAX, 2), (F.MEM_CFG_SCRUB_HOURS, 0x18), (F.MEM_CFG_CE_ROW_LIMIT, 4), (F.MEM_CFG_ERASE_AUTO, 1), (F.MEM_CFG_PIN_LIMIT, 0x10), (F.FAB_PORT_CTL_EN, 1),
   (F.FAB_PORT_CTL_VIOL_LIMIT, 0x10), (F.FAB_PORT_CTL_LANE_LIMIT, 0x100), (F.FAB_PORT_STS_STATE, 1), (F.HUB_CCORE_STS_OSTLER, 2)]

/-- After reset (R16, R23, R105, R108, R239, R290, R338, R403, R424, R447, and the reset values of the registers): no command waits, memory is canonical and lists nothing, no measurement
register holds anything, the device is in start-up mode with its configuration unsealed, every queue and context is disabled, every port trains, the maps name unit i behind name i, every engine is enabled, and
every field of resetFields holds its value. That a byte that nothing has written reads zero is R422's for stacked memory once it is initialised, and this model's choice otherwise (log entry 3). -/
def Obligations.ResetLeaves : Prop :=
  let z := State.reset
  z.pending = [] ∧ z.mem = [] ∧ Memory.wf z.mem = true ∧ (∀ a, z.byte a = 0) ∧ (∀ i, z.getMr i = List.replicate 32 0) ∧ z.mode = 0 ∧ z.isSealed = false ∧
    z.standsAtBoundary = true ∧ z.stepNum = 0 ∧ (∀ q, z.queueState q = 0) ∧ (∀ c, (z.getC c).en = false) ∧ (∀ c, z.getCtr c = 0) ∧ (∀ p, p < 7 → z.portState p = 1) ∧
    (∀ i, i < 8 → z.fget (coreField i) = if i = 7 then 2 else 0) ∧
    (∀ n, n < 4 → (∀ i, i < 8 → z.coreOf n i = i ∧ z.coreState n i = 0) ∧ z.coreState n 8 = 1 ∧ ∀ i, i < 16 → z.groupOf n i = i) ∧
    (∀ e, e < 16 → z.engineOpen e = true) ∧ ∀ r ∈ Obligations.resetFields, z.fget r.1 = r.2

/-- Every step keeps memory in its canonical form: addresses rise strictly, and no listed byte is what an unlisted one reads as. -/
def Obligations.MemoryStaysCanonical : Prop :=
  ∀ s t : State, Memory.wf s.mem = true → step s = .next t → Memory.wf t.mem = true

/-! ### Engines -/

/-- The pieces of the state that the work of a matrix or vector command can write. -/
def Obligations.enginePieces : List Piece := [.flights, .mem, .regs, .icu, .watch, .run, .spares, .history, .free, .mpart, .test, .ckpt]

/-- MX_GEMM (R58, R72): where the code of R177 corrects every word on the chip, the record ends OK, and memory is what it was but for the writes of d
and of the saved form that R72, R77 and R78 give for the operands as they stood; a chunk header that breaks R78 ends it with BAD_CHUNK,
and what it then has written of d is left open (R97), but nothing else is. The errors and faults that the hardware met on the way are the command's operands.
Completion is stated here of .mxGemm. -/
def Obligations.GemmResult : Prop :=
  ∀ (s : State) (f : Flight) (errs : List MemErr) (faults : List MxFault),
    s.runs f → f.onUnit 0 0x10 = true → (s.memErrors errs).corrects →
    let w := f.word
    let g := gemmOf (s.rungNow (mxLayer w)) w
    let sp := Space.carriage f.carriage
    let s1 := s.memErrors errs
    let inj := (s1.takeInj f).1
    let s2 := (s1.takeInj f).2
    let am := s1.rows sp (gemmA g w)
    let bm := s1.rows sp (gemmB g w)
    let cm := if g.accum then s1.rows sp (gemmC g w) else List.replicate g.m (List.replicate g.n Val.zero)
    let bias := if g.bias then s1.rows sp (gemmBias g w) else []
    let aux := if g.deriv ≠ 0 then (s1.readAux f g).2.1 else []
    let broken : Bool := g.deriv ≠ 0 && (s1.readAux f g).2.2.2
    let r := g.compute w (mxRnd f (mxKind w) g.width) (mxRnd f 5 g.saveWidth)
      (if mxKind w = 2 && s2.scaledLayer (mxLayer w) then some (s2.gexpNow (mxLayer w)) else none)
      (s2.fget (F.MXC_CHK_CTL_TOL_SCALE.car f.carriage)) inj faults am bm cm bias aux
    ∃ u, exec (.mxGemm f.rid errs faults) s = .next u ∧
      EndedWith s u f (if broken then 0x18 else 0) 0 ∧ ChangesOnly Obligations.enginePieces s u ∧
      (s.flag F.HUB_WATCH_LOG_CFG_EN = false → ∀ a,
        if broken then (∀ x ∈ sp.writes r.writes, ¬(x.1 ≤ a ∧ a < x.1 + x.2.length)) → u.byte a = s.byte a else u.byte a = afterWrites s.byte (sp.writes r.writes) a)

/-- MX_ATTN (R80, R81): where the code of R177 corrects every word on the chip, the record ends OK, and memory is what it was but for the writes of o and of
the row statistics that R80 gives for the operands as they stood.
Completion is stated here of .mxAttn. -/
def Obligations.AttnResult : Prop :=
  ∀ (s : State) (f : Flight) (faults : List MxFault), s.runs f → f.onUnit 0 0x11 = true → s.corrects →
    let w := f.word
    let a := attnOf (s.rungNow (mxLayer w)) w
    let sp := Space.carriage f.carriage
    let inj := (s.takeInj f).1
    let s2 := (s.takeInj f).2
    let seg (base n : Nat) : List Nat := segments (if a.mask ≥ 2 then s.bytes (sp.key base) (2 * n) else []) n
    let r := a.compute w (mxRnd f 3 a.d) (s2.fget (F.MXC_CHK_CTL_TOL_SCALE.car f.carriage)) inj faults
      (seg (addr64 w 427) a.lq) (seg (segKBase a w) a.lk) (s.rows sp (attnQ a w)) (s.rows sp (attnK a w)) (s.rows sp (attnV a w))
    ∃ u, exec (.mxAttn f.rid faults) s = .next u ∧ EndedWith s u f 0 0 ∧ ChangesOnly Obligations.enginePieces s u ∧
      (s.flag F.HUB_WATCH_LOG_CFG_EN = false → ∀ x, u.byte x = afterWrites s.byte (sp.writes r.writes) x)

/-- The writes of VX_EW (R112, R113): an identity between equal formats copies the bytes of the rows, scale bytes included (R35); every other
operation computes each element. -/
def Obligations.ewWrites (s : State) (f : Flight) : List (Nat × List Byte) :=
  let w := f.word
  let v := vxOf (s.rungNow (mxLayer w)) w
  let sp := Space.carriage f.carriage
  let a := mkMat (vxA w) v.rows v.cols (fmtD v.aFmt)
  let d := mkMat (vxD w) v.rows v.cols (fmtD v.dFmt)
  if v.op = 0 && v.aFmt = v.dFmt then
    ((List.range v.rows).flatMap fun r => (a.rowRanges r).zip (d.rowRanges r)).map fun p => (p.2.1, s.bytes (sp.key p.1.1) p.1.2)
  else
    (v.elementwise w (vxRnd f 6) (s.rows sp a)
      (if ewReadsB v.op && v.bMode ≠ 3 then s.rows sp (vxMat (vxB w) v.bMode v.rows v.cols v.bFmt) else [])
      (if ewReadsC v.op && v.cMode ≠ 3 then s.rows sp (vxMat (vxC w) v.cMode v.rows v.cols v.cFmt) else [])).writes

/-- The writes of VX_RED (R114). -/
def Obligations.redWrites (s : State) (f : Flight) : List (Nat × List Byte) :=
  let w := f.word
  let v := vxOf (s.rungNow (mxLayer w)) w
  let sp := Space.carriage f.carriage
  (v.reduce w (vxRnd f 6) (s.rows sp (mkMat (vxA w) v.rows v.cols (fmtD v.aFmt)))
    (if v.accum then s.rows sp (mkMat (vxC w) 1 v.outs .f32) else [])).writes

/-- The writes of VX_PCM (R115). -/
def Obligations.pcmWrites (s : State) (f : Flight) : List (Nat × List Byte) :=
  (pcmCompute f.word (vxRnd f 6) (s.bytes ((Space.carriage f.carriage).key (vxA f.word)) (pcmIn f.word))).writes

/-- The writes of a fused optimizer command (R157). -/
def Obligations.optWrites (s : State) (f : Flight) : List (Nat × List Byte) :=
  let w := f.word
  let sp := Space.carriage f.carriage
  (optCompute w (vxRnd f 4) (s.rows sp (optG w)) (s.rows sp (optW w)) (s.rows sp (optM w))
    (if recOpcode w = 0x22 then s.rows sp (optV w) else [])).writes

/-- A carriage command c of opcode op ends its record OK, where the code of R177 corrects every word on the chip, and memory is what it was but for its writes. -/
def Obligations.Writes (u op : Nat) (c : Nat → Instr) (ws : State → Flight → List (Nat × List Byte)) : Prop :=
  ∀ (s : State) (f : Flight), s.runs f → f.onUnit u op = true → s.corrects →
    ∃ t, exec (c f.rid) s = .next t ∧ EndedWith s t f 0 0 ∧ ChangesOnly Obligations.enginePieces s t ∧
      (s.flag F.HUB_WATCH_LOG_CFG_EN = false → ∀ a, t.byte a = afterWrites s.byte ((Space.carriage f.carriage).writes (ws s f)) a)

/-- VX_EW, VX_RED and VX_PCM (R112 to R115) and the fused optimizer commands (R157), which write W, M, for the moment form V, and D.
Completion is stated here of .vxEw, .vxRed, .vxPcm, .vxOptMoment, .vxOptSgdm, .vxOptSign. -/
def Obligations.VectorResults : Prop :=
  Obligations.Writes 1 0x20 .vxEw Obligations.ewWrites ∧ Obligations.Writes 1 0x21 .vxRed Obligations.redWrites ∧
    Obligations.Writes 1 0x28 .vxPcm Obligations.pcmWrites ∧ Obligations.Writes 1 0x22 .vxOptMoment Obligations.optWrites ∧
    Obligations.Writes 1 0x23 .vxOptSgdm Obligations.optWrites ∧ Obligations.Writes 1 0x24 .vxOptSign Obligations.optWrites

/-- The pieces of the state that the work of a move command can write. -/
def Obligations.movePieces : List Piece := [.flights, .mem, .regs, .icu, .watch, .run, .mpart, .ckpt, .spares, .history, .free]

/-- The bytes of a memory that has been read off. -/
def Obligations.take (mem : Nat → Byte) (a n : Nat) : List Byte := (List.range n).map fun i => mem (a + i)

/-- The writes that put source row r of a side into destination row i (R116, R117). -/
def Obligations.rowMove (mem : Nat → Byte) (f : Flight) (m : MvRec) (x : Side) (rnd : RndCtx) (i r : Nat) : List (Nat × List Byte) :=
  let sp := x.spaceOf f
  let bs := Obligations.take mem (sp.key (x.mat.base + r * x.mat.pitch)) (if x.raw then x.mat.cols else rowBytes x.mat.fmt x.mat.cols)
  let ss := if x.raw then [] else if x.mat.fmt.isBlock then Obligations.take mem (sp.key (x.mat.scaleBase + r * up64 x.mat.scales)) x.mat.scales else []
  (m.dest.spaceOf f).writes (m.dest.rowWrites i (moveRow m rnd i bs ss).1 (moveRow m rnd i bs ss).2.1)

/-- Memory after the first n destination rows, in ascending order; a row without a source is zero (R118). -/
def Obligations.rowsMoved (mem : Nat → Byte) (f : Flight) (m : MvRec) (x : Side) (rnd : RndCtx) (src : Nat → Option Nat) : Nat → Nat → Byte
  | 0 => mem
  | n + 1 =>
    let old := Obligations.rowsMoved mem f m x rnd src n
    afterWrites old (match src n with
      | some r => Obligations.rowMove old f m x rnd n r
      | none => (m.dest.spaceOf f).writes (m.dest.rowWrites n (zeroRow m).1 (zeroRow m).2))

/-- The length of the chunk at a memory key, rounded up to 64 bytes; none where its header breaks R78. -/
def Obligations.chunkAt (mem : Nat → Byte) (key : Nat) : Option Nat :=
  let h := leNat (Obligations.take mem key 8)
  if chunkHeaderOk h = true then some (up64 (bits h 15 0)) else none

/-- Memory after n chunks from address a have been copied a distance on, and whether a header broke R78 (R118). -/
def Obligations.chunksMoved (sp sp' : Space) (src dst : Nat) : Nat → Nat → (Nat → Byte) → (Nat → Byte) × Bool
  | 0, _, mem => (mem, false)
  | n + 1, a, mem =>
    match Obligations.chunkAt mem (sp.key a) with
    | some k => Obligations.chunksMoved sp sp' src dst n (a + k) (afterWrites mem (sp'.writes [(dst + (a - src), Obligations.take mem (sp.key a) k)]))
    | none => (mem, true)

/-- MV_COPY and MV_GATHER (R116 to R118) complete in a healthy memory that nothing closes to the record: each destination row takes its source row's values, in
ascending order; a gather's row whose index lies outside the table is zero, and the record then ends with DATA_EXCEPTION. A copy of chunks copies chunk after chunk, and ends OK; at
a header that breaks R78 it ends with BAD_CHUNK.
Completion is stated here of .mvCopy, .mvGather. -/
def Obligations.MoveRows : Prop :=
  (∀ (s : State) (f : Flight) (errs : List MemErr) (x : Side),
    let m := mvOf (s.rungNow (mxLayer f.word)) f.word
    let s1 := s.memErrors errs
    let r := Obligations.chunksMoved (x.spaceOf f) (m.dest.spaceOf f) m.src m.dst (m.rows * ((m.rowLen + 255) / 256)) m.src s.byte
    s.runs f → f.onUnit 2 0x30 = true → m.source = some x → s1.healthy → s.writesFreely f →
    ∃ u, exec (.mvCopy f.rid errs) s = .next u ∧ ChangesOnly Obligations.movePieces s u ∧
      (if m.chunked = true then EndedWith s u f (if r.2 = true then 0x18 else 0) 0 ∧ (r.2 = false → ∀ a, u.byte a = r.1 a)
       else EndedWith s u f 0 0 ∧ (s.flag F.HUB_WATCH_LOG_CFG_EN = false → ∀ a, u.byte a =
         Obligations.rowsMoved s.byte f m x (vxRnd f 7) some m.rows a))) ∧
  (∀ (s : State) (f : Flight) (x : Side),
    let m := mvOf (s.rungNow (mxLayer f.word)) f.word
    let n := if m.iFmt = 8 then 2 else 4
    let index (i : Nat) : Option Nat :=
      let v := leNat (((s.bytes ((Space.carriage f.carriage).key m.idx) (m.rows * n)).drop (n * i)).take n)
      if v < m.table ∧ (n = 2 ∨ v < 2 ^ 31) then some v else none
    s.runs f → f.onUnit 2 0x31 = true → m.source = some x → s.healthy → s.writesFreely f →
    ∃ u, exec (.mvGather f.rid) s = .next u ∧ ChangesOnly Obligations.movePieces s u ∧
      EndedWith s u f (if ∃ i, i < m.rows ∧ index i = none then 1 else 0) 0 ∧
      (s.flag F.HUB_WATCH_LOG_CFG_EN = false → ∀ a, u.byte a = Obligations.rowsMoved s.byte f m x (vxRnd f 7) index m.rows a))

/-- Memory after n rows of MV_FILL (R118): the pattern's bytes, or the value in the destination's format. -/
def Obligations.rowsFilled (mem : Nat → Byte) (f : Flight) (m : MvRec) (rnd : RndCtx) : Nat → Nat → Byte
  | 0 => mem
  | n + 1 =>
    let row :=
      if m.raw || m.dFmt = 6 then ((List.range (if m.raw then m.rowLen else 4 * m.rowLen)).map fun j => (leBytes 4 m.sPitch).getD (j % 4) 0, [])
      else
        let e := encodeRow (fmtD m.dFmt) m.strict ((List.range m.rowLen).map fun j => (ofF32 m.sPitch, rndElem rnd (n * m.rowLen + j)))
        (e.1, e.2.1)
    afterWrites (Obligations.rowsFilled mem f m rnd n) ((m.dest.spaceOf f).writes (m.dest.rowWrites n row.1 row.2))

/-- Memory after n source rows of MV_SCATTER_ADD (R118): each is added, element by element in binary32, to the row that its index names; a row whose index lies
outside the table is left out. -/
def Obligations.rowsAdded (mem : Nat → Byte) (f : Flight) (m : MvRec) (x : Side) (index : Nat → Option Nat) : Nat → Nat → Byte
  | 0 => mem
  | n + 1 =>
    let old := Obligations.rowsAdded mem f m x index n
    let d := m.dest
    let row (y : Side) (r : Nat) : List Val :=
      decodeRow .f32 m.rowLen (Obligations.take old ((y.spaceOf f).key (y.mat.base + r * y.mat.pitch)) (rowBytes y.mat.fmt y.mat.cols)) []
    match index n with
    | none => old
    | some r =>
      afterWrites old ((d.spaceOf f).writes (d.rowWrites r ((List.zipWith (fun b a => toF32 (fAdd b a)) (row d r) (row x n)).flatMap (leBytes 4)) []))

/-- The chunks of row r of MV_PACK, as the coder writes them, and whether they decode to the row (R77, R118). -/
def Obligations.packedRow (mem : Nat → Byte) (f : Flight) (m : MvRec) (x : Side) (faults : List CodeFault) (r : Nat) : List Byte × Bool :=
  let bs := Obligations.take mem ((x.spaceOf f).key (x.mat.base + r * x.mat.pitch)) (rowBytes x.mat.fmt x.mat.cols)
  let xs := (List.range m.rowLen).map fun i => leNat ((bs.drop (2 * i)).take 2)
  let out := codeRow faults r (rowChunks (if m.sFmt = 5 then 4 else 5) xs)
  (out, chunksHold xs out)

/-- Memory after n rows of MV_PACK, one behind the other, the address behind them, and whether all of them decode. -/
def Obligations.rowsPacked (mem : Nat → Byte) (f : Flight) (m : MvRec) (x : Side) (faults : List CodeFault) : Nat → (Nat → Byte) × Nat × Bool
  | 0 => (mem, m.dst, true)
  | n + 1 =>
    let p := Obligations.rowsPacked mem f m x faults n
    let r := Obligations.packedRow p.1 f m x faults n
    (afterWrites p.1 ((m.dest.spaceOf f).writes [(p.2.1, r.1)]), p.2.1 + r.1.length, p.2.2 && r.2)

/-- The values of chunks that hold these numbers of values, from an address; whether a header broke R78; and the address behind them. -/
def Obligations.unpackRow (mem : Nat → Byte) (sp : Space) : List Nat → Nat → List Nat × Bool × Nat
  | [], a => ([], false, a)
  | k :: ks, a =>
    match Obligations.chunkAt mem (sp.key a) with
    | some n =>
      let r := Obligations.unpackRow mem sp ks (a + n)
      (chunkDecode k (Obligations.take mem (sp.key a) n) ++ r.1, r.2)
    | none => ([], true, a)

/-- Memory after n rows of MV_UNPACK, whether a header broke R78, and the address behind the chunks. -/
def Obligations.rowsUnpacked (mem : Nat → Byte) (f : Flight) (m : MvRec) (x : Side) : Nat → (Nat → Byte) × Bool × Nat
  | 0 => (mem, false, m.src)
  | n + 1 =>
    let p := Obligations.rowsUnpacked mem f m x n
    if p.2.1 = true then p
    else
      let r := Obligations.unpackRow p.1 (x.spaceOf f) ((ranges 256 (List.replicate m.rowLen 0)).map fun g => g.2.length) p.2.2
      (afterWrites p.1 ((m.dest.spaceOf f).writes (m.dest.rowWrites n (r.1.flatMap (leBytes 2)) [])), r.2)

/-- MV_FILL, MV_SCATTER_ADD, MV_PACK and MV_UNPACK (R118) complete in a healthy memory that nothing closes to the record: a fill writes its pattern or its value to every row; a
scatter adds its rows, and ends with DATA_EXCEPTION where an index lies outside the table; a packing writes the rows' chunks, and ends with UNCORRECTED where its coder has faults
and a row's chunks do not decode to it; an unpacking writes the values of the chunks, and ends with BAD_CHUNK at a header that breaks R78.
Completion is stated here of .mvScatterAdd, .mvPack, .mvUnpack, .mvFill. -/
def Obligations.FillsAndMoves : Prop :=
  (∀ (s : State) (f : Flight),
    let m := mvOf (s.rungNow (mxLayer f.word)) f.word
    s.runs f → f.onUnit 2 0x35 = true → s.healthy → s.writesFreely f →
    ∃ u, exec (.mvFill f.rid) s = .next u ∧ ChangesOnly Obligations.movePieces s u ∧ EndedWith s u f 0 0 ∧
      (s.flag F.HUB_WATCH_LOG_CFG_EN = false → ∀ a, u.byte a = Obligations.rowsFilled s.byte f m (vxRnd f 7) m.rows a)) ∧
  ∀ (s : State) (f : Flight) (x : Side),
    let m := mvOf 0 f.word
    let n := if m.iFmt = 8 then 2 else 4
    let index (i : Nat) : Option Nat :=
      let v := leNat (((s.bytes ((Space.carriage f.carriage).key m.idx) (m.rows * n)).drop (n * i)).take n)
      if v < m.table ∧ (n = 2 ∨ v < 2 ^ 31) then some v else none
    s.runs f → s.healthy → s.writesFreely f → m.source = some x →
    (f.onUnit 2 0x32 = true → m.sFmt = 6 → m.dFmt = 6 →
      ∃ u, exec (.mvScatterAdd f.rid) s = .next u ∧ ChangesOnly Obligations.movePieces s u ∧
        EndedWith s u f (if ∃ i, i < m.rows ∧ index i = none then 1 else 0) 0 ∧ ∀ a, u.byte a = Obligations.rowsAdded s.byte f m x index m.rows a) ∧
    (∀ faults, f.onUnit 2 0x33 = true →
      let r := Obligations.rowsPacked s.byte f m x faults m.rows
      ∃ u, exec (.mvPack ⟨f.rid, faults⟩) s = .next u ∧ ChangesOnly Obligations.movePieces s u ∧
        EndedWith s u f (if r.2.2 = true then 0 else 0x15) 0 ∧ (faults = [] → r.2.2 = true) ∧ ∀ a, u.byte a = r.1 a) ∧
    (f.onUnit 2 0x34 = true →
      let r := Obligations.rowsUnpacked s.byte f m x m.rows
      ∃ u, exec (.mvUnpack f.rid) s = .next u ∧ ChangesOnly Obligations.movePieces s u ∧
        EndedWith s u f (if r.2.1 = true then 0x18 else 0) 0 ∧ (r.2.1 = false → ∀ a, u.byte a = r.1 a))

/-- The lossless coding of saved activations (R77, R78): what a chunk of at most 256 values of 16 bits holds is what was coded; its header is one that R118 accepts, and its
bytes fill 64-byte blocks. -/
def Obligations.ChunkRoundTrip : Prop :=
  ∀ (form : Nat) (xs : List Nat), form = 4 ∨ form = 5 → xs.length ≤ 256 → (∀ x ∈ xs, x < 2 ^ 16) →
    chunkDecode xs.length (chunkEncode form xs) = xs ∧ chunkHeaderOk (leNat ((chunkEncode form xs).take 8)) = true ∧
      (chunkEncode form xs).length % 64 = 0 ∧ (chunkEncode form xs).length ≤ 576

/-! ### Registers -/

/-- The registers whose write is an action of its own, as runs of (first offset, registers); a carriage's by their names in C0, a port's on page 1. The
queue, counter and doorbell windows (2, 3 and from 0x300) and register pairs have statements of their own. -/
def Obligations.actionRuns : List (Nat × Nat) :=
  [(R.HUB_WATCH_CTL, 1), (R.HUB_WATCH_LOG_CFG, 1), (R.HUB_UNIT_STS, 1), (R.HUB_PRE_NOTICE, 1), (R.HUB_PRE_CTL, 1), (R.HUB_RST_REQ, 1), (R.HUB_ABORT_CTL, 1),
   (R.HUB_TEST_REQ, 1), (R.HUB_SEAL_CTL, 1), (R.DEP_MODE, 2), (R.DEP_CR_BASE, 16), (R.CXE_NEXT_CTL, 1), (R.LXE_SR_BASE, 16), (R.LXE_CKPT_SRC_BASE, 8),
   (R.LXE_CKPT_CTL, 1), (R.FAB_MAP_CTL, 1), (R.FAB_YOKE, 1), (R.FAB_PORT_CTL, 1)] ++
  [(R.ICU_CFG, 1), (R.ICU_SRC_CFG, 1), (R.ICU_GRP_CFG0, 1), (R.ICU_GRP_CFG1, 1), (R.ICU_HMASK, 64), (R.ICU_HPEND, 64), (R.ICU_FMASK, 64), (R.ICU_FPEND, 64),
   (R.ICU_T_EOI, 32), (R.OST_MBX_CTL, 1), (R.PWR_LEVELS, 1), (R.PWR_THROT_CTL, 1), (R.DMP_CTL, 1), (R.CAR_REMOUNT_CTL, 1), (R.MEM_TRAIN_CTL, 1)]

/-- The offset names a register without an action of its own, outside the headers. -/
def Obligations.plainOffset (o : Nat) : Bool :=
  regNamed o && 0x40 ≤ inPage o && !isPairLow o && !isPairHigh o && offWindow o ≠ 2 && offWindow o ≠ 3 && offWindow o < 0x300 &&
    Obligations.actionRuns.all fun r => !(r.1 ≤ baseReg (canonReg o) && baseReg (canonReg o) < r.1 + 4 * r.2)

/-- A write by an agent to an offset is performed (R7, R104, R345, R373). -/
def Obligations.reaches (s : State) (a : Agent) (o : Nat) : Prop := s.cutOff a = false ∧ s.regStatus o 4 = 0 ∧ ¬(a = .host ∧ firmwarePage o = true)

/-- A write of a plain register (R9, R10): RW bits, and RWL bits before the seal, take the data; each 1 clears its W1C bit; every other bit of it, every
other register and everything else stays. A write of PWR_LEVELS (R410), which holds 380, 360 and 340 units of 100 mV at reset: levels within the limits are taken; a write that breaks
one is discarded and sets LVL_ERR; after the seal nothing changes.
Completion is stated here of .registerWrite. -/
def Obligations.RegisterWrites : Prop :=
  (∀ (s : State) (a : Agent) (o data tag : Nat) (r : RegRow),
    Obligations.reaches s a o → Obligations.plainOffset o = true → rowOf (canonReg o) = some r →
    ∃ t, exec (.registerWrite a o 4 data tag) s = .next t.settle ∧ ChangesOnly [.regs] s t ∧ RegsOnly [canonReg o] s t ∧
      ∀ i, i < 32 → bit (t.rd (canonReg o)) i =
        if bit r.rw i || (bit r.rwl i && !s.isSealed) then bit data i else bit (s.rd (canonReg o)) i && !(bit r.w1c i && bit data i)) ∧
  (State.reset.fget F.PWR_LEVELS_WARN = 380 ∧ State.reset.fget F.PWR_LEVELS_SUSPECT = 360 ∧ State.reset.fget F.PWR_LEVELS_RESET = 340) ∧
  ∀ (s : State) (a : Agent) (warn suspect reset tag : Nat), warn < 2 ^ 10 → suspect < 2 ^ 10 → reset < 2 ^ 10 → Obligations.reaches s a R.PWR_LEVELS →
    ∃ t, exec (.registerWrite a R.PWR_LEVELS 4 (warn * 2 ^ 20 + suspect * 2 ^ 10 + reset) tag) s = .next t.settle ∧ ChangesOnly [.regs] s t ∧
      if s.isSealed = true then t = s
      else if 360 ≤ warn ∧ warn ≤ 395 ∧ reset + 10 ≤ suspect ∧ suspect + 10 ≤ warn ∧ 320 ≤ reset ∧ reset ≤ 350 then
        RegsOnly [R.PWR_LEVELS] s t ∧ t.fget F.PWR_LEVELS_WARN = warn ∧ t.fget F.PWR_LEVELS_SUSPECT = suspect ∧ t.fget F.PWR_LEVELS_RESET = reset
      else RegsOnly [R.PWR_STS] s t ∧ ∀ i, i < 32 → bit (t.rd R.PWR_STS) i = (i = 28 || bit (s.rd R.PWR_STS) i)

/-- Writes of the common header (R446, R447, R449) through any page of a window, by either agent, in every state of the domain: BLK_EVT_EN takes the data, and
each 1 written to BLK_EVT_CLR clears, to BLK_EVT_SET sets its event bit. The block's level source follows (R353). -/
def Obligations.HeaderWrites : Prop :=
  ∀ (s : State) (a : Agent) (w p data tag : Nat), s.cutOff a = false → w < 0x300 → p < windowPages w → data < 2 ^ 32 →
    let at' (k : Nat) : Nat := w * 65536 + p * 4096 + k
    let raw := w * 65536 + R.BLK_EVT_RAW
    let en := w * 65536 + R.BLK_EVT_EN
    let answers (k : Nat) (good : State → Prop) : Prop :=
      ∃ t, exec (.registerWrite a (at' k) 4 data tag) s = .next t.settle ∧ ChangesOnly [.regs, .icu] s t ∧ good t
    answers 0x1C (fun t => t.rd en = data ∧ t.rd raw = s.rd raw) ∧
      answers 0x20 (fun t => t.rd en = s.rd en ∧ ∀ i, bit (t.rd raw) i = (bit (s.rd raw) i && !bit data i)) ∧
      answers 0x24 (fun t => t.rd en = s.rd en ∧ ∀ i, i < 5 → bit (t.rd raw) i = (bit (s.rd raw) i || bit data i))

/-- Register pairs (R7, R8): a read of a pair's low word returns it and captures the high word, which the next reads of the high word return, whatever the pair becomes; one that fails
returns 0 and captures nothing. The low
word of a pair that takes writes is held pending; the write of the high word applies both at once, or the high word alone, and ends the pending state. SYN_VAL and HUB_SCHED_FIRST have
actions of their own.
Completion is stated here of .pairLowRead, .pairLowWrite, .pairHighWrite. -/
def Obligations.RegisterPairs : Prop :=
  (∀ (s : State) (a : Agent) (o : Nat), isPairLow o = true → s.cutOff a = false → s.regStatus o 4 = 0 → regNamed o = true →
    ∃ t, exec (.pairLowRead a ⟨o, 4⟩) s = .next t ∧ t.out = .regValue o (BitVec.ofNat 32 (s.regNow o)) :: s.out ∧ ChangesOnly [.pairs, .out] s t ∧
      ∀ u : State, u.pairs = t.pairs → (u.readReg (o + 4)).1 = s.regNow (o + 4) % 2 ^ 32) ∧
  (∀ (s : State) (a : Agent) (o size : Nat), isPairLow o = true → s.cutOff a = false → s.regStatus o size ≠ 0 →
    ∃ t, exec (.pairLowRead a ⟨o, size⟩) s = .next t ∧ t.out = .regValue o 0 :: s.out ∧ ChangesOnly [.regs, .icu, .out] s t) ∧
  ∀ (s : State) (a : Agent) (o data tag : Nat),
    isPairLow o = true → regNamed o = true → Obligations.reaches s a o → s.pairOpen (offPage o) (canonReg o) = true →
    canonReg o ≠ R.SYN_VAL → canonReg o ≠ R.HUB_SCHED_FIRST →
    (∃ t, exec (.pairLowWrite a o data tag) s = .next t.settle ∧ ChangesOnly [.pairs] s t ∧ t.regNow o = s.regNow o ∧
      ∀ c, t.lowWord o c = data % 2 ^ 32) ∧
    (regNamed (o + 4) = true → Obligations.reaches s a (o + 4) →
      let v := (data % 2 ^ 32 * 2 ^ 32 + s.lowWord o (s.regNow o)) &&& pairMask (canonReg o)
      ∃ t, exec (.pairHighWrite a (o + 4) data tag) s = .next t.settle ∧ ChangesOnly [.regs, .pairs, .queues, .contexts] s t ∧
        t.regNow o = v % 2 ^ 32 ∧ t.regNow (o + 4) = v / 2 ^ 32 ∧ ∀ c, t.lowWord o c = c % 2 ^ 32)

/-- REG_RD, REG_TIMEOUT and writes that fail (R5, R7, R373, R445): every REG_RD is answered by one REG_RESP with its TAG, with ADDR_ERROR, SIZE_ERROR, FENCED or OK and the
register's value; an offset or a page that names no register reads zero. A write outside the assigned windows, or of another size or alignment, is discarded and, where host software
sent it, answered with ERR; one of an offset or a page that names no register is discarded. No answer within 20 µs is TIMEOUT: of a write, in an ERR. While the host attachment is
out of service (R345), host software's accesses change nothing and get no answer.
Completion is stated here of .regRd, .regTimeout. -/
def Obligations.RegisterAnswers : Prop :=
  (∀ (s : State) (addr size tag : Nat),
    let answers (st v : Nat) (u : State) : Prop := exec (.regRd ⟨addr, size⟩ tag) s = .next (u.sendHost (mkHost 0x03 2 0 v tag st))
    let assigned : Prop := addr < 2 ^ 26 ∧ windowPages (offWindow addr) ≠ 0
    let whole : Prop := size = 4 ∧ addr % 4 = 0
    let named : Prop := 0x40 ≤ inPage addr ∧ regNamed addr = true
    (s.cutOff .host = true → exec (.regRd ⟨addr, size⟩ tag) s = .next s) ∧ (s.cutOff .host = false →
    (¬ assigned → answers 1 0 s) ∧
    (assigned → ¬ whole → ∃ u, answers 2 0 u ∧ ChangesOnly [.regs, .icu] s u) ∧
    (assigned → whole → named → s.regFenced (offWindow addr) (offPage addr) = true → ∃ u, answers 3 0 u ∧ ChangesOnly [.regs, .icu] s u) ∧
    (assigned → whole → 0x40 ≤ inPage addr → regNamed addr = false → answers 0 0 s) ∧
    (assigned → whole → inPage addr < 0x40 → answers 0 (s.headerReg (offWindow addr) (offPage addr) (inPage addr) * b2n (offPage addr < windowPages (offWindow addr))) s) ∧
    (assigned → whole → named → s.regFenced (offWindow addr) (offPage addr) = false → isPairLow addr = false → isPairHigh addr = false →
      ∃ u, answers 0 (s.regNow addr) u ∧ ChangesOnly [.free] s u))) ∧
  (∀ (s : State) (a : Agent) (o size data tag : Nat),
    let fails (st : Nat) (u : State) : Prop := exec (.registerWrite a o size data tag) s = .next (if a = .host then u.sendErr tag st else u)
    let assigned : Prop := o < 2 ^ 26 ∧ windowPages (offWindow o) ≠ 0
    (s.cutOff a = true → exec (.registerWrite a o size data tag) s = .next s) ∧ (s.cutOff a = false →
    (¬ assigned → fails 1 s) ∧
    (assigned → size ≠ 4 ∨ o % 4 ≠ 0 → ∃ u : State, fails 2 u ∧ ChangesOnly [.regs, .icu] s u ∧
      ∀ k, 0x40 ≤ inPage k → (∀ p i, p < 2 → i < 64 → k ≠ rawReg p i ∧ k ≠ pendReg p i) → u.rd k = s.rd k) ∧
    (assigned → size = 4 → o % 4 = 0 → windowPages (offWindow o) ≤ offPage o ∨ (0x40 ≤ inPage o ∧ regNamed o = false) →
      exec (.registerWrite a o size data tag) s = .next s.settle))) ∧
  ∀ (s : State) (addr tag : Nat), s.cutOff .host = false →
    exec (.regTimeout addr tag false) s = .next (s.sendHost (mkHost 0x03 2 0 0 tag 4)) ∧ exec (.regTimeout addr tag true) s = .next (s.sendErr tag 4)

/-! ### Queues -/

/-- DOORBELL (R91, with R17, R123, R124, R306, R340 and R345): accepted, it sets the queue's TAIL and nothing else; a doorbell that fails a check is counted
in the context's DB_REJ, which saturates, and changes nothing else.
Completion is stated here of .doorbell. -/
def Obligations.Doorbell : Prop :=
  ∀ (s : State) (n q tail : Nat), n < 64 → q < 2 ^ 14 → tail < 2 ^ 16 →
    let x := s.getQ q
    let c := s.getC n
    let ok : Prop := x.ctx = n ∧ x.en = true ∧ c.en = true ∧ tail < 2 ^ x.sizeLog2 ∧ x.mode ≠ .reset ∧ c.mark ≠ .guilty ∧ s.ostlerStopped = false ∧
      s.fenced (0x10 + queueEngine q) = false ∧ (c.stepped = true → s.rcv.stopped = false ∧ s.stepsBarred = false)
    ∃ t, exec (.doorbell n (q * 2 ^ 16 + tail)) s = .next t.settle ∧
      (ok → t.getQ q = { x with tail := tail } ∧ (∀ p, p ≠ q → t.getQ p = s.getQ p) ∧ ChangesOnly [.queues] s t) ∧
      (¬ ok → t.getC n = { c with dbRej := min (c.dbRej + 1) 0xFFFF } ∧ (∀ m, m ≠ n → t.getC m = s.getC m) ∧ ChangesOnly [.contexts] s t)

/-- A counter takes a value, and no other counter changes; a queue changes only in that the wait of its first unstarted record is met (R100), and a register
only in PHASE (R130). -/
def Obligations.counterTakes (s t : State) (c v : Nat) : Prop :=
  t.getCtr c = v ∧ (∀ d, d ≠ c → t.getCtr d = s.getCtr d) ∧ (∀ d, t.getBound d = s.getBound d) ∧
    (∀ q, t.getQ q = s.getQ q ∨ t.getQ q = { s.getQ q with waitMet := true }) ∧ RegsOnly [R.HUB_STEP_STS] s t

/-- SYN_ADD, the write of SYN_VAL's high word and the signal of a record that retires (R8, R97, R99, R101, R110): a counter holds 64 bits, and an add is modulo 2^64 and has no other effect than on
waits.
Completion is stated here of .synValSet, .synAdd. -/
def Obligations.CounterWrites : Prop :=
  (∀ (s : State) (c : Nat), s.getCtr c < 2 ^ 64) ∧
  (∀ (s : State) (a : Agent) (data : Nat), data < 2 ^ 32 →
    let c := s.synSel (agentPage a)
    (∃ t, exec (.synAdd a data) s = .next t.settle ∧ Obligations.counterTakes s t c ((s.getCtr c + data) % 2 ^ 64) ∧
      ChangesOnly [.counters, .queues, .regs] s t) ∧
    ∃ t, exec (.synValSet a data) s = .next t.settle ∧ ChangesOnly [.counters, .queues, .regs, .pairs] s t ∧
      Obligations.counterTakes s t c (data * 2 ^ 32 + s.lowWord (pageReg R.SYN_VAL (agentPage a)) (s.getCtr c))) ∧
  ∀ (s : State) (f : Flight) (d : Nat), s.flight? f.rid = some f → s.halted (queueEngine f.queue) = false → f.resp = some (0, d) → f.suspect = false →
    s.ckpt.stalled.any (fun x => x.rid = some f.rid) = false → recCmpl f.word = false → recSigEn f.word = true →
      ∃ t : State, exec (.recordRetire f.rid) s = .next t.searchNext.settle ∧ ChangesOnly [.flights, .counters, .queues, .regs] s t ∧ RegsOnly [R.HUB_STEP_STS] s t ∧
        t.getCtr (recSigCtr f.word) = (s.getCtr (recSigCtr f.word) + recSigAdd f.word) % 2 ^ 64 ∧ ∀ c, c ≠ recSigCtr f.word → t.getCtr c = s.getCtr c

/-- QUE_CFG (R105): PRIO is written always, CTX and SIZE_LOG2 (from 4 to 16) only while EN reads 0; enabling zeroes the four indices; disabling discards
the entries that have not started, and its records in flight run to retirement without it. No other queue and nothing else changes.
Completion is stated here of .queCfgWrite. -/
def Obligations.QueueConfigures : Prop :=
  ∀ (s : State) (a : Agent) (data : Nat),
    let q := s.queSel (agentPage a)
    let x := s.getQ q
    let size := bits data 20 16
    ∃ t, exec (.queCfgWrite a data) s = .next t.settle ∧ ChangesOnly [.queues, .flights] s t ∧ (∀ p, p ≠ q → t.getQ p = s.getQ p) ∧
      t.que.flights = (s.que.flights.map fun f => if f.queue = q ∧ bit data 31 = false then { f with loose := true } else f) ∧
      let y := t.getQ q
      y.en = bit data 31 ∧ y.prio = bits data 15 14 ∧ y.base = x.base ∧
      y.ctx = (if x.en then x.ctx else bits data 5 0) ∧
      y.sizeLog2 = (if !x.en && 4 ≤ size && size ≤ 16 then size else x.sizeLog2) ∧
      (x.en = false → bit data 31 = true → y.head = 0 ∧ y.tail = 0 ∧ y.safe = 0 ∧ y.bhead = 0 ∧ y.mode = .run ∧ y.next = 0) ∧
      (x.en = true → bit data 31 = true → y = { x with prio := bits data 15 14 }) ∧
      (x.en = true → bit data 31 = false → y.head = x.head ∧
        y.tail = if s.que.flights.any (fun f => f.queue = q) then (x.head + 1) % 2 ^ x.sizeLog2 else x.head)

/-- QUE_CTL (R107): STOP starts no further records of a queue that runs; RESUME resumes in state 4, and in state 5 retries the failed records; SKIP discards what
failed in state 5 and goes on behind it: an entry that was refused counts as run whole, a failed record as retired, and HEAD moves when the entry has none left
(R90). An action in a state that it does not name has no effect. No other queue and nothing else changes.
Completion is stated here of .queueStop, .queueResume, .queueSkip. -/
def Obligations.QueueActions : Prop :=
  ∀ (s : State) (a : Agent),
    let q := s.queSel (agentPage a)
    let x := s.getQ q
    let only (t : State) : Prop := (∀ p, p ≠ q → t.getQ p = s.getQ p) ∧ ChangesOnly [.queues] s t
    (∃ t, exec (.queueStop a) s = .next t ∧ only t ∧ t.getQ q = if x.en = true ∧ x.mode = .run then { x with mode := .stop } else x) ∧
    (s.queueState q = 4 → ∃ t, exec (.queueResume a) s = .next t.settle ∧ only t ∧ t.getQ q = { x with mode := .run }) ∧
    (s.queueState q = 5 → ∃ t, exec (.queueResume a) s = .next t.settle ∧ only t ∧
      t.getQ q = { x with mode := .run, redo := (x.failed ++ x.redo).mergeSort, failed := [], waitMet := false, checked := false }) ∧
    (s.queueState q ≠ 4 → s.queueState q ≠ 5 → exec (.queueResume a) s = .next s) ∧
    (s.queueState q ≠ 5 → exec (.queueSkip a) s = .next s) ∧
    (s.queueState q = 5 → ∃ t, exec (.queueSkip a) s = .next t.settle ∧ only t ∧
      (t.getQ q).mode = .run ∧ (t.getQ q).tail = x.tail ∧ (t.getQ q).en = x.en ∧
      ((t.getQ q).head = x.head ∨ (t.getQ q).head = (x.head + 1) % 2 ^ x.sizeLog2) ∧
      (x.entryOk = false → x.head ≠ x.tail → (t.getQ q).head = (x.head + 1) % 2 ^ x.sizeLog2))

/-- QUE_CTX_CFG (R108, R109, R124): REMOTE_EN, DEPOT_EN, KEYSLOT and EN take the data; STEPPED, MEASURE and GROUP only while EN reads 0; setting EN zeroes DB_REJ
and lifts the context's mark. No other context changes; a queue changes only in that one of this context in state 7 runs again.
Completion is stated here of .queCtxCfgWrite. -/
def Obligations.ContextConfigures : Prop :=
  ∀ (s : State) (a : Agent) (data : Nat),
    let n := s.ctxSel (agentPage a)
    let c := s.getC n
    ∃ t, exec (.queCtxCfgWrite a data) s = .next t.settle ∧ ChangesOnly [.contexts, .queues] s t ∧ (∀ m, m ≠ n → t.getC m = s.getC m) ∧
      t.getC n = { c with
        en := bit data 31, remoteEn := bit data 29, depotEn := bit data 27, keyslot := bits data 7 0,
        stepped := if c.en then c.stepped else bit data 30, measure := if c.en then c.measure else bit data 28,
        group := if c.en then c.group else bits data 21 16,
        dbRej := if !c.en && bit data 31 then 0 else c.dbRej, mark := if !c.en && bit data 31 then .none else c.mark } ∧
      ∀ q, t.getQ q = s.getQ q ∨ ((s.getQ q).ctx = n ∧ (s.getQ q).mode = .ctxStop ∧ c.en = false ∧ bit data 31 = true ∧ t.getQ q = { s.getQ q with mode := .run })

/-- RECORD_START (R95): an engine that may start records takes, of the queue that it chooses, the first unstarted record into a free unit; a matrix record that its
carriage's phase refuses is refused instead (R129): PH_REFUSED counts it, and its queue stops on error with INVALID_FIELD and detail 0x17. Nothing eligible, or the engine fenced or
disabled, starts nothing. The queue chosen has a startable record, and none of a higher PRIO has one. RECORD_START completes with the start.
Completion is stated here of .recordStart. -/
def Obligations.RecordStarts : Prop :=
  ∀ (s : State) (e : Nat), e < 16 →
    (s.engineOpen e = false ∨ s.choose e = none → exec (.recordStart e) s = .next s.settle) ∧
    (∀ q, s.choose e = some q → queueEngine q = e ∧ (s.startable q).isSome = true ∧
      ∀ p ∈ s.queueNumbers, queueEngine p = e → (s.startable p).isSome = true → (s.getQ p).prio ≤ 3 → (s.getQ p).prio ≤ (s.getQ q).prio) ∧
    ∀ q w unit, s.engineOpen e = true → s.choose e = some q → s.startable q = some (w, unit) →
      let x := s.getQ q
      (s.phaseHolds e w = 2 → ∃ t : State, exec (.recordStart e) s = .next t.settle ∧ ((s.getC x.ctx).stepped = false →
        t.que.flights = s.que.flights ∧ t.getQ q = { x with mode := .error, resp := 0x10, detail := 0x17 } ∧
          t.fget F.HUB_SCHED_STS_PH_REFUSED = min (s.fget F.HUB_SCHED_STS_PH_REFUSED + 1) 255)) ∧
      (s.phaseHolds e w ≠ 2 → ∃ t, exec (.recordStart e) s = .next t.settle ∧ ChangesOnly [.queues, .flights, .choice, .regs] s t ∧ RegsOnly [R.HUB_STEP_STS] s t ∧
        t.que.flights = s.que.flights ++ [s.newFlight s.que.nextRid q w unit] ∧
        (let f := s.newFlight s.que.nextRid q w unit
         f.rid = s.que.nextRid ∧ f.queue = q ∧ f.ctx = x.ctx ∧ f.entry = x.head ∧ f.idx = x.redo.headD x.next ∧ f.step = (s.entryD q).step ∧ f.word = w ∧ f.unit = unit ∧
           f.resp = none ∧ f.suspect = false ∧ f.loose = false ∧ f.key = s.srKey x.ctx) ∧
        t.que.nextRid = s.que.nextRid + 1 ∧ (∀ p, p ≠ q → t.getQ p = s.getQ p) ∧
        t.getQ q = { x with next := if x.redo = [] then x.next + 1 else x.next, redo := x.redo.drop 1, waitMet := false, checked := false })

/-- RECORD_RETIRE (R90, R96, R97): a record that has ended leaves its unit; with a response that signals and SIG_EN its counter takes the add; in a queue that
goes on, the entry has one record fewer to wait for. Of a record that has not ended, or whose writes still wait for a page (R315), nothing changes. NOP (R94) ends OK
without any work. NOP completes, and RECORD_RETIRE completes with the retirement.
Completion is stated here of .recordRetire, .nop. -/
def Obligations.RecordRetires : Prop :=
  (∀ (s : State) (f : Flight), s.runs f → recOpcode f.word = 0 →
    ∃ t, exec (.nop f.rid) s = .next t ∧ EndedWith s t f 0 0 ∧ ChangesOnly [.flights] s t) ∧
  ∀ (s : State) (f : Flight), s.flight? f.rid = some f → s.halted (queueEngine f.queue) = false →
    (∃ t : State, exec (.recordRetire f.rid) s = .next t.searchNext.settle ∧
      ((f.resp = none ∨ s.ckpt.stalled.any (fun x => x.rid = some f.rid) = true) → t = s)) ∧
    ∀ d, f.resp = some (0, d) → s.ckpt.stalled.any (fun x => x.rid = some f.rid) = false → f.suspect = false → recCmpl f.word = false →
      let x := s.getQ f.queue
      ∃ t : State, exec (.recordRetire f.rid) s = .next t.searchNext.settle ∧ ChangesOnly [.flights, .counters, .queues, .regs] s t ∧
        t.que.flights = s.que.flights.filter (fun g => g.rid ≠ f.rid) ∧
        (∀ c, t.getCtr c = if recSigEn f.word = true ∧ c = recSigCtr f.word then (s.getCtr c + recSigAdd f.word) % 2 ^ 64 else s.getCtr c) ∧
        ((f.loose = true ∨ x.en = false ∨ x.mode = .reset ∨ x.entryOk = false ∨ x.head ≠ f.entry) ∨ (t.getQ f.queue).ended = x.ended + 1 ∨
          (t.getQ f.queue).head = (x.head + 1) % 2 ^ x.sizeLog2)

/-! ### Steps -/

/-- Run r of step n has been issued (R23, R92, R102, R262, R263): it is the step in progress, its header stands last in the ledger where it fits, and the remote signals held for
it have been applied. -/
def Obligations.issuedAs (s t : State) (n r : Nat) : Prop :=
  t.pos.issued = true ∧ t.pos.run = r ∧ t.stepNum = n ∧ t.atBoundary = false ∧ t.fget F.HUB_STEP_STS_PASS = 0 ∧
    1 ≤ t.fget F.HUB_STEP_STS_PHASE ∧ t.fget F.HUB_STEP_STS_PHASE ≤ 5 ∧ t.run.hdr.step = n ∧ t.run.hdr.run = r ∧
    t.ledger.headers = s.ledger.headers ++ (if s.ledgerFits 12288 = true then [t.run.hdr] else []) ∧ t.syn.held = s.syn.held.filter (fun h => h.step ≠ n) ∧ t.recov.aborted = none

/-- STEP_ISSUE (R138, R276, R278): a run that was rewound is issued again as soon as it may be, before anything else, with the epoch, stochastic-rounding keys and layer
words of its step's header, in which the layers that R144 widens take their next rung; otherwise the step after the last sealed one is issued when R138 permits it, with the
configuration as it reads then. Held tests start first (R425).
Completion is stated here of .stepIssue. -/
def Obligations.StepIssues : Prop :=
  ∀ (s : State),
    (s.mayReplay = true → ∃ t : State, exec .stepIssue s = .next t.settle.meetFailure.actOnHeld.resumeCkpt ∧ Obligations.issuedAs s.readyReplay t s.stepNum s.pos.run ∧
      (s.run.hdr.step = s.stepNum → s.pos.run ≠ 0 → t.run.hdr.keys = s.run.hdr.keys ∧ t.run.hdr.epoch = s.run.hdr.epoch ∧ t.run.hdr.layers = s.readyReplay.run.hdr.layers ∧
        (s.watch.marks = [] ∨ s.run.failure = none → t.run.hdr.layers = s.run.hdr.layers)) ∧
      ChangesOnly [.regs, .pos, .run, .recov, .ledger, .links, .out, .cx, .counters, .queues, .watch] s.readyReplay t) ∧
    ∀ n, s.mayReplay = false → s.pos.lastSealed = some n → n + 1 < 2 ^ 64 →
      (s.startTests.mayIssue (n + 1) = true → ∃ t : State, exec .stepIssue s = .next t.settle.meetFailure.actOnHeld.resumeCkpt ∧
        Obligations.issuedAs s.startTests t (n + 1) s.startTests.pos.run ∧ t.pos.cfg.toNat = s.startTests.rd R.HUB_SCHED_CFG ∧
        t.pos.watchCfg.toNat = s.startTests.rd R.HUB_WATCH_CFG ∧
        ChangesOnly [.regs, .pos, .run, .recov, .rcv, .ledger, .links, .out, .cx, .counters, .queues, .watch] s.startTests t) ∧
      (s.startTests.mayIssue (n + 1) = false → exec .stepIssue s = .next s.startTests.actOnHeld.resumeCkpt)

/-- STEP_BOUNDARY (R21, R23, R137, R154, R156): once the sealed step's commands have retired and none of its transfers is outstanding, the device stands at the
boundary after it, with the measured times in their registers, no dirty line in the depot (but for what the watch log or a checkpoint that begins there writes through it),
and the pending commit of the watch table applied. Before that, nothing happens.
The write of HUB_SCHED_FIRST's high word (R8, R138): while RUN is 0 and PHASE reads 0, a value F other than 0 lets step F − 1 count as sealed and sets the
step-number pair to it; 0, and a write at another time, is discarded.
Completion is stated here of .stepBoundary, .schedFirstWrite. -/
def Obligations.BoundaryAndFirstStep : Prop :=
  (∀ (s : State) (times : List Nat),
    (s.boundaryDue = false → exec (.stepBoundary times) s = .next s) ∧
    (s.boundaryDue = true → ∃ t : State, exec (.stepBoundary times) s = .next t.settle ∧ t.atBoundary = true ∧ t.stepNum = s.stepNum ∧
      t.pos.lastSealed = s.pos.lastSealed ∧ t.watch.commit = none ∧ t.watch.summary = none ∧
      (∀ i, i < 7 → t.rd (R.HUB_SCHED_T_STEP + 4 * i) = min (times.getD i 0) 0xFFFFFFFF) ∧
      (s.flag F.HUB_WATCH_LOG_CFG_EN = false → s.ckpt.held = [] → ∀ p ∈ t.mpart.cache, ∀ w ∈ p.2.ways, w.old = none))) ∧
  (∀ (s : State) (data : Nat), data < 2 ^ 32 →
    let f := data * 2 ^ 32 + s.lowWord R.HUB_SCHED_FIRST (s.rd R.HUB_SCHED_FIRST)
    let mayWrite : Prop := s.fget F.HUB_SCHED_CTL_RUN = 0 ∧ s.fget F.HUB_STEP_STS_PHASE = 0
    (¬ mayWrite → exec (.schedFirstWrite data) s = .next s) ∧
    (mayWrite → f = 0 → ∃ t, exec (.schedFirstWrite data) s = .next t ∧ ChangesOnly [.pairs] s t) ∧
    (mayWrite → f ≠ 0 → ∃ t, exec (.schedFirstWrite data) s = .next t ∧ ChangesOnly [.pairs, .regs, .pos] s t ∧
      RegsOnly [R.HUB_SCHED_FIRST, R.HUB_SCHED_FIRST + 4, R.HUB_STEP_NUM, R.HUB_STEP_NUM + 4] s t ∧
      t.rd64 R.HUB_SCHED_FIRST = f ∧ t.stepNum = f - 1 ∧ t.pos = { s.pos with lastSealed := some (f - 1), firstSet := true, run := 0 }))

/-- The RW bits of a watch entry (R149, R156). -/
def Obligations.watchRw (i : Nat) : Bool := (192 ≤ i && i ≤ 223) || (176 ≤ i && i ≤ 183) || (164 ≤ i && i ≤ 167) || i = 160

/-- WATCH_CAPTURE and WATCH_COMMIT (R156): a capture fills the DATA registers with the selected entry, with zeros above the table; a commit while one is pending, or
above the table, is refused; any other is held, and at a boundary it writes the entry's RW fields at once, a new BASE with RUNG set to it and STICKY cleared.
Completion is stated here of .watchCapture, .watchCommit. -/
def Obligations.WatchTable : Prop :=
  ∀ (s : State),
    let l := s.fget F.HUB_WATCH_SEL_INDEX
    let data := fun (k : Nat) => R.HUB_WATCH_DATA + 4 * k
    let v := (List.range 16).foldl (fun v k => v + s.rd (data k) * 2 ^ (32 * k)) 0
    let refused : Prop := s.flag F.HUB_WATCH_STS_PENDING = true ∨ l > 0x1000
    let sameBase : Prop := bits v 165 164 = bits (s.watchEntry l) 165 164
    (∃ t, exec .watchCapture s = .next t ∧ ChangesOnly [.regs] s t ∧ RegsOnly ((List.range 16).map data) s t ∧
      ∀ k, k < 16 → t.rd (data k) = if l ≤ 0x1000 then s.watchEntry l / 2 ^ (32 * k) % 2 ^ 32 else 0) ∧
    (refused → ∃ t, exec .watchCommit s = .next t ∧ ChangesOnly [.regs] s t ∧ RegsOnly [R.HUB_WATCH_STS] s t ∧ t.flag F.HUB_WATCH_STS_REFUSED = true) ∧
    (¬ refused → s.standsAtBoundary = false → ∃ t, exec .watchCommit s = .next t ∧ ChangesOnly [.regs, .watch] s t ∧ RegsOnly [R.HUB_WATCH_STS] s t ∧
      t.watch = { s.watch with commit := some (l, BitVec.ofNat 512 v) } ∧ t.flag F.HUB_WATCH_STS_PENDING = true ∧ t.fget F.HUB_WATCH_STS_PEND_SEL = l) ∧
    (¬ refused → s.standsAtBoundary = true → ∃ t, exec .watchCommit s = .next t ∧ ChangesOnly [.regs, .watch, .mem, .icu, .mpart, .spares, .history, .free, .test, .ckpt] s t ∧
      t.watch.commit = none ∧ t.flag F.HUB_WATCH_STS_PENDING = false ∧ (∀ m, m ≠ l → t.watchEntry m = s.watchEntry m) ∧
      ∀ i, i < 512 → bit (t.watchEntry l) i =
        if Obligations.watchRw i then bit v i
        else if ¬ sameBase ∧ (i = 162 ∨ i = 163) then bit v (i + 2)
        else if ¬ sameBase ∧ i = 161 then false
        else bit (s.watchEntry l) i)

/-! ### Memory -/

/-- The ranges that n pairs of registers name, none while every one is zero. -/
def Obligations.rangesAt (s : State) (k n : Nat) : List (Nat × Nat) :=
  let l := (List.range n).map fun i => (s.rd (k + 8 * i), s.rd (k + 8 * i + 4))
  if l.all (· = (0, 0)) then [] else l

/-- Slice i of the depot changes its mode when DEP_MODE takes effect. -/
def Obligations.sliceChanges (s : State) (i : Nat) : Prop :=
  bit (s.rd (R.DEP_MODE + 4 * (i / 32))) (i % 32) ≠ bit (s.rd (R.DEP_MODE_CUR + 4 * (i / 32))) (i % 32)

/-- Writes of DEP_MODE, of the cacheable ranges, and of the state and checkpoint source ranges (R160, R162, R164, R288, R332): the register takes the data's RW
bits at once; what it says takes effect at once where the device stands at a boundary, the next step is not issued and no sequence of R336 runs, and stays pending
otherwise. Dirty lines are written back and every line is invalidated. Where no line holds flipped bits, a slice whose mode stays keeps its contents, and so does stacked memory.
Completion is stated here of .depModeWrite, .depCrWrite, .stateRangeWrite. -/
def Obligations.HeldMemoryChanges : Prop :=
  ∀ (s : State) (data : Nat), data < 2 ^ 32 →
    let now : Prop := s.standsAtBoundary = true ∧ s.recov.cur = none
    let ranges (t : State) : Prop := t.mpart.srCur = Obligations.rangesAt t R.LXE_SR_BASE 8 ∧ t.mpart.srcCur = Obligations.rangesAt t R.LXE_CKPT_SRC_BASE 4
    let held (c : Instr) (k v : Nat) (pend : Option Fld) : Prop :=
      ∃ t, exec c s = .next t ∧ t.rd k = v ∧ RegsOnly (k :: (match pend with | some _ => [R.DEP_STS] | none => [])) s t ∧ ChangesOnly [.regs] s t ∧
        (match pend with | some f => t.flag f = true | none => True)
    let applied (c : Instr) (k v : Nat) : Prop :=
      ∃ t, exec c s = .next t ∧ t.rd k = v ∧ ranges t ∧ t.mpart.crCur = Obligations.rangesAt t R.DEP_CR_BASE 8 ∧ t.mpart.cache = [] ∧
        t.flag F.DEP_STS_MODE_PEND = false ∧ t.flag F.DEP_STS_CR_PEND = false ∧
        (∀ i, i < 2 → t.rd (R.DEP_MODE_CUR + 4 * i) = t.rd (R.DEP_MODE + 4 * i)) ∧
        ChangesOnly [.regs, .mem, .mpart, .icu, .spares, .history, .free] s t ∧
        ((∀ p ∈ s.mpart.cache, ∀ w ∈ p.2.ways, w.errs = []) →
        RegsOnly [k, R.DEP_STS, R.DEP_MODE_CUR, R.DEP_MODE_CUR + 4] s t ∧ ChangesOnly [.regs, .mem, .mpart] s t ∧
        ∀ a, (∀ i, i < 64 → depotBase + i * 0x800000 ≤ a → a < depotBase + (i + 1) * 0x800000 →
          bit (t.rd (R.DEP_MODE + 4 * (i / 32))) (i % 32) = bit (s.rd (R.DEP_MODE_CUR + 4 * (i / 32))) (i % 32)) → t.byte a = s.byte a)
    (∀ w, w < 2 → (¬ now → held (.depModeWrite w data) (R.DEP_MODE + 4 * w) data (some F.DEP_STS_MODE_PEND)) ∧
      (now → applied (.depModeWrite w data) (R.DEP_MODE + 4 * w) data)) ∧
    (∀ r, r < 16 → (¬ now → held (.depCrWrite r data) (R.DEP_CR_BASE + 4 * r) (rangeWord r data) (some F.DEP_STS_CR_PEND)) ∧
      (now → applied (.depCrWrite r data) (R.DEP_CR_BASE + 4 * r) (rangeWord r data))) ∧
    ∀ r, r < 24 →
      let k := if r < 16 then R.LXE_SR_BASE + 4 * r else R.LXE_CKPT_SRC_BASE + 4 * (r - 16)
      (¬ now → held (.stateRangeWrite r data) k (rangeWord r data) none) ∧
      (now → ∃ t, exec (.stateRangeWrite r data) s = .next t ∧ t.rd k = rangeWord r data ∧ ranges t)

/-- SCRUB (R174, R176): it reads nothing outside stacked memory or with SCRUB_HOURS 0. A block that it finds uncorrectable stays so, and no value changes; any other is a
codeword again, with every value as it was where the decoder's correction is the bits that had flipped. SCRUB completes with the read.
The code of R173: what the decoder changes in a burst makes a codeword of it. The code of R177: it corrects every single flipped bit of a word, and no two.
MEM_RETRAIN and the end of a training (R179, R181, R190, R425): a retraining is held as a calibration, and starts if the device stands at a boundary; after a
training, the pins that failed now or before are steered to the spares, then marked as erasures; with a fifth one the channel is out of service, and its
stack's domain with it. A pseudo-channel that is not in training is not changed.
Completion is stated here of .scrub, .memRetrain, .pchTrainComplete. -/
def Obligations.MemoryUpkeep : Prop :=
  (∀ (s : State) (addr : Nat) (errs : List MemErr),
    let b := addr / 128
    let u := s.memErrors errs
    let off : Prop := isStacked addr = false ∨ s.fget (F.MEM_CFG_SCRUB_HOURS.stack (addrLoc (b * 128)).stack) = 0
    ∃ t, exec (.scrub addr errs) s = .next t ∧ ChangesOnly [.regs, .icu, .mem, .mpart, .spares, .history, .free, .test] s t ∧
      (off → t = s) ∧ (∀ x, x / 128 ≠ b → t.byte x = s.byte x) ∧
      (¬ off → u.unreadable (b * 128) = true → t.unreadable (b * 128) = true ∧ ∀ x, t.byte x = s.byte x) ∧
      (¬ off → u.unreadable (b * 128) = false → t.symsAt b = [] ∧ (u.blockFix b = some (u.symsAt b) → ∀ x, t.byte x = s.byte x))) ∧
  (∀ (erased : List Nat) (err fix : List (Nat × Nat)), (∀ x ∈ err, x.1 < 72 ∧ x.2 < 2 ^ 16) → (∀ p ∈ erased, p < 72) →
    pinDecode erased err = some fix → ∀ x ∈ syndromes (addSyms err fix), x = 0) ∧
  (∀ i j, i < 39 → j < 39 → wordFix (2 ^ i) = some (2 ^ i) ∧ (i ≠ j → wordFix (2 ^ i + 2 ^ j) = none)) ∧
  ((∀ (s : State) (a : Agent) (stack : Nat), stack < 8 →
    let pch := s.fget (F.MEM_PCH_SEL_PCH.stack stack)
    let item : TestItem := { kind := 1, target := stack * 256 + pch, immediate := false }
    ∃ t : State, exec (.memRetrain a stack) s = .next t.startTests ∧ ChangesOnly [.mpart, .test] s t ∧ item ∈ t.test.held ∧ (∀ x ∈ s.test.held, x ∈ t.test.held) ∧
      bit (t.pchSts (pchKey stack pch)) 0 = true ∧ ∀ k, k ≠ pchKey stack pch → t.pchSts k = s.pchSts k) ∧
  ∀ (s : State) (stack pch : Nat) (failed : List Nat), stack < 8 → pch < 32 →
    let k := pchKey stack pch
    let old := pchPins (s.pchSts k)
    let pins := old ++ (failed.filter fun p => p < 72 && !old.contains p).eraseDups
    let mine : Bool := match s.test.running with | some x => x.kind = 1 && x.target = stack * 256 + pch | none => false
    (2 ≤ bits (s.pchSts k) 31 29 → exec (.pchTrainComplete stack pch failed) s = .next s) ∧
    (bits (s.pchSts k) 31 29 < 2 → ∃ t : State, exec (.pchTrainComplete stack pch failed) s = .next (if mine then t.startTests else t) ∧
      ChangesOnly [.regs, .icu, .mpart, .spares, .history, .free, .test] s t ∧ t.test.held = s.test.held ∧
      t.test.running = (if mine then none else s.test.running) ∧ (∀ j, j ≠ k → t.pchSts j = s.pchSts j) ∧
      bits (t.pchSts k) 31 29 = (if pins.length ≤ 2 then 2 else if pins.length ≤ 4 then 3 else 4) ∧
      (∀ i p, i < 4 → pins[i]? = some p → (pchPins (t.pchSts k))[i]? = some p) ∧ (5 ≤ pins.length → s.domOos (0x30 + stack) = false → t.domOos (0x30 + stack) = true)))

/-! ### Ingest -/

/-- The permutation of the shuffle is one of 0 to N − 1, and no two places of an epoch take the same sample (R207, R208). -/
def Obligations.ShuffleIsPermutation : Prop :=
  ∀ (x : Shuf) (e : Nat), 0 < x.n → x.n ≤ 2 ^ 48 →
    (∀ q, q < x.n → x.permuted e q < x.n) ∧ ∀ p q, p < x.n → q < x.n → x.permuted e p = x.permuted e q → p = q

/-- The pieces of the state that a record's reads and writes of a healthy memory can change. -/
def Obligations.readPieces : List Piece := [.regs, .icu, .mpart, .mem, .history, .spares, .free]

/-- Access unit k of a stream as it stands in memory, in the clear; none where its length or its tag is wrong (R193, R210). -/
def Obligations.unitAt (s : State) (st : Stream) (key : Option (List Byte)) (k : Nat) : Option (List Byte) :=
  let e := s.num (st.index + 16 * k) 16
  let len := bits e 95 64
  if 1 ≤ len ∧ len ≤ 67108864 then openUnit key st k (s.bytes (st.data + bits e 39 0) len) else none

/-- The reading of the first m of these access units. -/
def Obligations.reading (st : Stream) (x : Ix) (blob : List Byte) (aus : List (List Byte)) (m : Nat) : IxRead :=
  { blob := blob, aus := aus.take m, unc := false, ended := x.rap + m = st.count, err := none, barred := none }

/-- The configuration blob and the access units of a sample can be read, meet no data error, and show every picture that it takes with the last of them (R193, R195, R197, R206,
R210, R211). -/
def Obligations.showsSample (s : State) (f : Flight) (blob : List Byte) (aus : List (List Byte)) : Prop :=
  let x := ixOf f.word
  let c := s.getC f.ctx
  let st := streamOf (s.num x.stream 64)
  let key := s.sampleKey f.ctx x.dkey
  let r := Obligations.reading st x blob aus
  (if st.cfgLen = 0 then blob = [] else s.rangeDetail c st.cfg st.cfgLen = 0 ∧ openUnit key st 0xFFFFFFFFFFFFFFFF (s.bytes st.cfg st.cfgLen) = some blob) ∧
    1 ≤ aus.length ∧ x.rap + aus.length ≤ st.count ∧
    (∀ i au, aus[i]? = some au → Obligations.unitAt s st key (x.rap + i) = some au ∧ s.rangeDetail c (st.index + 16 * (x.rap + i)) 16 = 0 ∧
      let e := s.num (st.index + 16 * (x.rap + i)) 16
      s.rangeDetail c (st.data + bits e 39 0) (bits e 95 64) = 0) ∧
    (∀ m, 1 ≤ m → m ≤ aus.length → (r m).fault st.codec x = none ∧ (∀ p ∈ ((r m).parsed st.codec).pics, workNeeded st.codec p ≤ s.fget F.IXE_WORK_SIZE_SIZE * mib) ∧
      ((∀ i, i < x.frames → (r m).complete st.codec x i = true) ↔ m = aus.length)) ∧
    ∀ i, i < x.frames → x.picFault ((r aus.length).pic st.codec x i) i = none

/-- IX_SHUFFLE (R209) completes in a healthy memory that nothing closes to the record: one 64-bit little-endian value per index, and nothing else is stored.
IX_SAMPLE (R197 to R204, R211) completes there, without faults, for a sample that can be read and shown: OK, with every token's conversions in its row of the slot, the status record,
the ledger's record of a stepped context (R213), and the pictures that it has decoded counted. What a codec decodes is the codec standards'. Whatever it meets, the record ends, and stores only to
its sample's tokens and to its status record.
Completion is stated here of .ixSample, .ixShuffle. -/
def Obligations.IngestRecords : Prop :=
  (∀ (s : State) (f : Flight), s.runs f → queueEngine f.queue = 13 → recOpcode f.word = 0x51 → s.healthy → s.writesFreely f →
    let w := f.word
    let sh := f.shuffle
    ∃ t, exec (.ixShuffle f.rid) s = .next t ∧ EndedWith s t f 0 0 ∧ ChangesOnly (.flights :: Obligations.readPieces) s t ∧
      (∀ a, (a < shuffleDst w ∨ shuffleDst w + 8 * shuffleCount w ≤ a) → t.byte a = s.byte a) ∧
      ∀ i, i < shuffleCount w → t.num (shuffleDst w + 8 * i) 8 = sh.sample (fieldOf w 511 464) (shuffleFirst w + i) % 2 ^ 64) ∧
  (∀ (s : State) (f : Flight) (blob : List Byte) (aus : List (List Byte)), s.runs f → queueEngine f.queue = 13 → recOpcode f.word = 0x50 → s.healthy → s.writesFreely f →
    Obligations.showsSample s f blob aus → ((s.getC f.ctx).stepped = true → s.ledgerFits 64 = true) →
    let x := ixOf f.word
    let st := streamOf (s.num x.stream 64)
    let r := Obligations.reading st x blob aus aus.length
    let token (n : Nat) : List Byte := (s.ixConv x st.codec (r.finish st.codec x) n).flatMap fun k => leBytes 2 k.bits
    ∃ t, exec (.ixSample f.rid [] []) s = .next t ∧ EndedWith s t f 0 0 ∧ ChangesOnly (Obligations.enginePieces ++ [.ledger]) s t ∧
      t.rd64 R.IXE_PICS = (s.rd64 R.IXE_PICS + r.decoded st.codec x) % 2 ^ 64 ∧
      t.ledger = (if (s.getC f.ctx).stepped then { s.ledger with ingest := s.ledger.ingest ++ [(f.step, ingestRecord x st f.shuf)] } else s.ledger) ∧
      (s.flag F.HUB_WATCH_LOG_CFG_EN = false → ∀ a, t.byte a = afterWrites s.byte
        (((List.range x.tokens).map fun n => (s.slotBase x.slot + x.tokOff * x.pitch + n * x.pitch, padTo (2 * x.tokLen) (token n))) ++
          (if x.status = 0 then [] else [(x.status, ixStatus 0 0 (r.decoded st.codec x) x.tokens)])) a)) ∧
  (∀ (s : State) (f : Flight) (errs : List MemErr) (flips : List CoreFlip), s.runs f → queueEngine f.queue = 13 → recOpcode f.word = 0x50 →
    let x := ixOf f.word
    let row (n : Nat) : Nat × Nat := (s.slotBase x.slot + x.tokOff * x.pitch + n * x.pitch, 2 * x.tokLen)
    ∃ t r d, exec (.ixSample f.rid errs flips) s = .next t ∧ EndedWith s t f r d ∧ r ∈ [0, 1, 0x11, 0x15, 0x19, 0x28, 0x2A, 0x30, 0x31] ∧
      ChangesOnly (Obligations.enginePieces ++ [.ledger]) s t ∧
      (flips = [] → r ≠ 0x2A) ∧ ((s.getC f.ctx).stepped = false → r ≠ 0x30 ∧ t.ledger = s.ledger) ∧
      (s.flag F.HUB_WATCH_LOG_CFG_EN = false → (s.memErrors errs).healthy →
        ∀ a, ¬ within ((x.status, 16) :: (List.range x.tokens).map row) a → t.byte a = s.byte a))

/-! ### The fabric -/

/-- A failed training (R221): in normal service the third in a row takes the port out of service with the attempt's CAUSE (5 where the training follows 16 resends, R225), and with the Yoke port the yoke partner
is lost (R287); otherwise the port trains again. -/
def Obligations.trainFails (c : Instr) (s : State) (port cause : Nat) (ps : List Piece) : Prop :=
  ∃ t, exec c s = .next t ∧ (t.getLink port).fails = (s.getLink port).fails + 1 ∧
    (if s.mode = 1 ∧ 3 ≤ (s.getLink port).fails + 1 then t.portState port = 5 ∧ (port = 6 → t.ledger.yokeLost = true)
     else t.portState port = 1 ∧ ChangesOnly (ps ++ [.regs, .links]) s t) ∧
    t.fget (F.FAB_PORT_STS_CAUSE.page port) = if (s.getLink port).retry then 5 else cause

/-- Training and its ends (R218, R219, R221, R230, R238): a lost link trains; a training without enough good lanes, of a miscabled port, or late, fails; any other
makes the port active, or management-only with CAUSE 4 where the job check values differ or an end holds no job fabric key, with the lane maps, the partner and
full credits, and this end's parameters go to the partner. A port that does not train or carry a link is not concerned.
Completion is stated here of .portTrainComplete, .trainingTimeout, .linkLost. -/
def Obligations.PortTraining : Prop :=
  ∀ (s : State) (port : Nat), port < 7 →
    (s.linkUp port = true → ∃ t, exec (.linkLost port) s = .next t ∧ t.portState port = 1 ∧ (t.getLink port).rxFresh = true ∧ (t.getLink port).waiting = [] ∧
      ChangesOnly [.regs, .links, .out] s t ∧ RegsOnly [pageReg R.FAB_PORT_STS port] s t) ∧
    (s.linkUp port = false → exec (.linkLost port) s = .next s) ∧
    (∀ event, s.portState port = 1 → Obligations.trainFails (.trainingTimeout port event) s port (if event = 0 then 1 else 8) []) ∧
    (∀ event, s.portState port ≠ 1 → exec (.trainingTimeout port event) s = .next s) ∧
    ∀ (failed : List Nat) (p : Params),
      let c := Instr.portTrainComplete port failed p
      let noted : List Piece := [.spares, .history, .free]
      let bad := (List.range 16).filter failed.contains
      let spares := [16, 17].filter fun x => !failed.contains x
      let put (x : Nat) : Nat := if spares.contains x then bad.getD (spares.idxOf x) 31 else 31
      (s.portState port ≠ 1 → exec c s = .next s) ∧
      (s.portState port = 1 → spares.length < bad.length → Obligations.trainFails c s port 2 noted) ∧
      (s.portState port = 1 → bad.length ≤ spares.length → s.judge port p = 3 → Obligations.trainFails c s port 3 (.out :: noted)) ∧
      (s.portState port = 1 → bad.length ≤ spares.length → s.judge port p ≠ 3 →
        ∃ t : State, exec c s = .next (t.handJoin false) ∧ ChangesOnly (noted ++ [.regs, .links, .out]) s t ∧
          t.portState port = (if s.judge port p = 4 then 3 else 2) ∧ t.fget (F.FAB_PORT_STS_PEER.page port) = p.coord % 2 ^ 18 ∧
          t.rd (pageReg R.FAB_LANE_MAP port) = p.sp17 % 32 * 2 ^ 21 + p.sp16 % 32 * 2 ^ 16 + put 17 * 2 ^ 5 + put 16 ∧ (t.getLink port).fails = 0 ∧
          OutMsg.params port (s.ownParams port (put 16, put 17)) ∈ t.out)

/-- FAB_PORT_CTL, a retrain's request and the window of R220: EN = 0 disables a port that is in service, EN = 1 lets a disabled one train; a request, or a
lane over its limit, sets RETRAIN_PEND, and at a boundary without a sequence or a layout change still to come the retrain begins once every packet begun has gone and every flit is acknowledged; the corrected codewords
and the lanes' corrected symbols are counted, and the violations of the second are forgotten (R220, R235, R238).
Completion is stated here of .laneErrorWindow, .portCtlWrite, .portRetrainRequest. -/
def Obligations.PortControl : Prop :=
  ∀ (s : State) (port : Nat), port < 7 →
    let now : Prop := s.standsAtBoundary = true ∧ s.recov.cur = none ∧ s.layoutDue = false
    let pend := F.FAB_PORT_STS_RETRAIN_PEND.page port
    (¬ now → ∃ t, exec (.portRetrainRequest port) s = .next t ∧ t.flag pend = true ∧ ChangesOnly [.regs] s t ∧ RegsOnly [pageReg R.FAB_PORT_STS port] s t) ∧
    (now → ∃ t, exec (.portRetrainRequest port) s = .next t ∧ t.flag pend = true ∧ ChangesOnly [.regs, .links, .out] s t ∧
      t.portState port = (if s.linkUp port = true ∧ (s.getLink port).unacked = [] ∧ (∀ x ∈ (s.getLink port).waiting, x.begun = false) then 1 else s.portState port)) ∧
    (∀ (a : Agent) (data : Nat), data < 2 ^ 32 → bit data 30 = false →
      ∃ t, exec (.portCtlWrite a port data) s = .next t ∧ ChangesOnly [.regs, .links, .out] s t ∧
        t.flag (F.FAB_PORT_CTL_EN.page port) = bit data 31 ∧
        (s.isSealed = true → bits (t.rd (pageReg R.FAB_PORT_CTL port)) 23 0 = bits (s.rd (pageReg R.FAB_PORT_CTL port)) 23 0) ∧
        (s.isSealed = false → bits (t.rd (pageReg R.FAB_PORT_CTL port)) 23 0 = bits data 23 0) ∧
        t.portState port = (if bit data 31 then (if s.portState port = 0 then 1 else s.portState port) else if s.portState port ≤ 3 then 0 else s.portState port)) ∧
    (∀ (a : Agent) (data : Nat) (t : State), bit data 30 = false → exec (.portCtlWrite a port data) s = .next t →
      exec (.portCtlWrite a port (data + 2 ^ 30)) s = exec (.portRetrainRequest port) t) ∧
    ∀ (counts : List Nat) (codewords : Nat),
      (s.linkUp port = false → exec (.laneErrorWindow port counts codewords) s = .next s) ∧
      (s.linkUp port = true → ∃ t, exec (.laneErrorWindow port counts codewords) s = .next t ∧ ChangesOnly [.regs, .links, .lanes, .spares, .history, .free] s t ∧
        t.rd64 (pageReg R.FAB_CW_CORR port) = (s.rd64 (pageReg R.FAB_CW_CORR port) + codewords) % 2 ^ 64 ∧ (t.getLink port).viol = 0 ∧
        t.portState port = s.portState port ∧
        (t.flag pend = true ↔ s.flag pend = true ∨ ∃ c ∈ counts.take 18, s.fget (F.FAB_PORT_CTL_LANE_LIMIT.page port) * 256 < c))

/-- A link header that names a flit held for replay, or the last one accepted, and returns no credits or such as the buffer can take. -/
def Obligations.goodHeader (s : State) (port : Nat) (h : FlitHdr) : Prop :=
  h.bad = false ∧ h.nak = false ∧ (s.getLink port).knows h.ack = true ∧
    (h.crdEn = true → tget (fun _ => 0) (s.getLink port).credits h.crdBuf + 16 ≤ bufSize port h.crdBuf)

/-- What a good link header leaves (R225, R226): what it acknowledges is no longer held, its credits are there; then what waits goes, as far as it may. -/
def Obligations.headed (s t : State) (port : Nat) (h : FlitHdr) : Prop :=
  let l := s.getLink port
  (t.getLink port).unacked = (l.ackTo h.ack).unacked ∧
    (∀ b, tget (fun _ => 0) (t.getLink port).credits b = tget (fun _ => 0) l.credits b + if h.crdEn = true ∧ b = h.crdBuf then 16 else 0) ∧
    (t.getLink port).waiting = l.waiting ∧ (t.getLink port).txNext = l.txNext

/-- Flits other than DATA (R220, R223 to R226, R233, R235, R240): IDLE brings acknowledgements and credits; of a flit that is not accepted one NAK goes back, again only
on NAK_REPEAT; LINKERR, RETRAIN_REQ and KEY are sequenced: the next SEQ is expected and theirs acknowledged; then a LINKERR is recorded, a RETRAIN_REQ makes
the port train, a KEY names the next generation, or any after a training that was no retrain; a KEY that lowers or skips it is violation 0x0B. On the host link (7) a LINKERR does nothing more and a RETRAIN_REQ retrains the
link (R383). A reserved field makes violation 0x01 of the flit.
Completion is stated here of .idle, .nakRepeat, .linkErr, .retrainReq, .key, .discardedFlit. -/
def Obligations.LinkFlits : Prop :=
  ∀ (s : State) (port : Nat) (h : FlitHdr), port < 8 → s.linkUp port = true →
    let seqd (t : State) : Prop := (t.getLink port).rxExp = ((s.getLink port).rxExp + 1) % 1024 ∧ (t.getLink port).nakOut = false
    (Obligations.goodHeader s port h → ∃ t : State, exec (.idle port h) s = .next (t.serveLink port) ∧ Obligations.headed s t port h ∧ ChangesOnly [.links] s t) ∧
    let idle : OutMsg := .idle port true (s.getLink port).rxExp (flitBytes true none (s.getLink port).rxExp 0 (0, 0, false) 0 [])
    (∀ n, ∃ t, exec (.discardedFlit port n) s = .next t ∧ (t.getLink port) = { s.getLink port with nakOut := true } ∧ ChangesOnly [.links, .out, .regs] s t ∧
      RegsOnly [pageReg R.FAB_CW_UNCORR port] s t ∧
      t.out = if (s.getLink port).nakOut then s.out else idle :: s.out) ∧
    (∃ t, exec (.nakRepeat port) s = .next t ∧ ChangesOnly [.out] s t ∧
      t.out = if (s.getLink port).nakOut then idle :: s.out else s.out) ∧
    (port = 7 → Obligations.goodHeader s port h → ∃ t : State, Obligations.headed s t port h ∧ seqd t ∧ ChangesOnly [.links, .out] s t ∧
      (∀ code seq, exec (.linkErr port h code seq) s = .next (t.serveLink port)) ∧
      (∃ u, exec (.retrainReq port h) s = .next u ∧ ChangesOnly [.regs] (t.serveLink port) u ∧ RegsOnly [R.UCI_STS] (t.serveLink port) u ∧ u.fget F.UCI_STS_LINK = 2)) ∧
    (port < 7 → Obligations.goodHeader s port h →
      (∀ code seq, ∃ t u : State, exec (.linkErr port h code seq) s = .next u ∧ Obligations.headed s t port h ∧ seqd t ∧ ChangesOnly [.links, .out] s t ∧
        ChangesOnly [.regs] (t.serveLink port) u ∧ RegsOnly [pageReg R.FAB_PEER_ERR port] (t.serveLink port) u ∧
        u.rd (pageReg R.FAB_PEER_ERR port) = 2 ^ 31 + code % 256 * 2 ^ 16 + seq % 1024) ∧
      (∃ t u : State, exec (.retrainReq port h) s = .next u ∧ Obligations.headed s t port h ∧ seqd t ∧ ChangesOnly [.links, .out] s t ∧
        ChangesOnly [.regs, .links] (t.serveLink port) u ∧ RegsOnly [pageReg R.FAB_PORT_STS port] (t.serveLink port) u ∧ u.portState port = 1) ∧
      ∀ gen, ∃ t : State, Obligations.headed s t port h ∧ seqd t ∧ ChangesOnly [.links, .out] s t ∧
        (((s.getLink port).rxFresh = true ∨ gen = (s.getLink port).rxGen + 1) →
          ∃ u, exec (.key port h gen) s = .next u ∧ ChangesOnly [.links] (t.serveLink port) u ∧
            u.getLink port = { (t.serveLink port).getLink port with rxGen := gen, rxPctr := none, rxFresh := false }) ∧
        ((s.getLink port).rxFresh = false → gen = (s.getLink port).rxGen → exec (.key port h gen) s = .next (t.serveLink port)) ∧
        ((s.getLink port).rxFresh = false → gen < (s.getLink port).rxGen ∨ (s.getLink port).rxGen + 1 < gen →
          exec (.key port h gen) s = .next ((t.serveLink port).violate port 0x0B h.seq 0))) ∧
    (h.bad = true → ∀ code seq, ∃ t : State, exec (.linkErr port h code seq) s = .next (t.violate port 0x01 h.seq 0) ∧ seqd t ∧ ChangesOnly [.links, .out] s t)

/-- A packet has come in through a port that carries it, and breaks no rule of R235. -/
def Obligations.comesIn (s u : State) (port : Nat) (p : Packet) : Prop := s.arrive port p = (u, true)

/-- A packet for this device of a type has come in, and its buffer is free (R226). -/
def Obligations.taken (s u : State) (port : Nat) (p : Packet) (ptype : Nat) : Prop :=
  ∃ v, Obligations.comesIn s v port p ∧ u = (if port < 7 then v.doneWith port p else v) ∧ p.dst = u.fget F.FAB_COORD_COORD ∧ p.ptype = ptype

/-- Packets in transit (R229, R230, R232, R234, R235): one that breaks a rule is discarded with the lowest violation that applies, its flits accepted all the same; one for another
device goes on towards it by the port that R229 gives, if that port carries its virtual channel; if not it is counted, and the source of one on VC0 or VC1 is told. A
FAB_UNREACH ends the record whose packet it names with UNREACHABLE.
Completion is stated here of .packetForward, .fabUnreach. -/
def Obligations.PacketsInTransit : Prop :=
  ∀ (s : State) (port : Nat) (p : Packet), port < 7 →
    let me (u : State) : Nat := u.fget F.FAB_COORD_COORD
    let refused (t : State) (code : Nat) : State := ((t.violate port code (s.getLink port).rxExp (p.vc * 2 + p.dl)).serveLink port).doneWith port p
    (s.linkUp port = true → (p.hdrs = [] ∧ s.packetViolation port p ≠ 0 ∨ ∃ h, p.hdrs = [h] ∧ h.bad = true) →
      ∃ t : State, exec (.packetForward port p) s = .next (refused t (if p.hdrs = [] then s.packetViolation port p else 1)) ∧
        ChangesOnly [.links, .out, .regs] s t ∧ RegsOnly [pageReg R.FAB_AUTH_CNT port] s t ∧ (t.getLink port).rxExp = ((s.getLink port).rxExp + p.flits) % 1024) ∧
    (∀ (u : State) (q : Nat), Obligations.comesIn s u port p → port ≠ 6 → p.dst ≠ me u → u.routeFrom (me u) p.dst = some q →
      (u.carries q p.vc = true → ∃ dl, exec (.packetForward port p) s = .next (u.sendOn q { p with dl := dl, hdrs := [] } port (some (port, p.vc * 2 + p.dl))) ∧
        dl = if q = 6 then 0 else if u.wraps (me u) q then 1 else if port / 2 = q / 2 then p.dl else 0) ∧
      (u.carries q p.vc = false → ∃ t, exec (.packetForward port p) s = .next t ∧ ChangesOnly [.regs, .links, .out] u t ∧
        (2 ≤ p.vc → ChangesOnly [.regs, .links, .out] u t ∧ RegsOnly [R.FAB_UNREACH_CNT] u t ∧ t.rd R.FAB_UNREACH_CNT = min (u.rd R.FAB_UNREACH_CNT + 1) 0xFFFFFFFF))) ∧
    (∀ u, Obligations.comesIn s u 6 p → exec (.packetForward 6 p) s = .next (u.doneWith 6 p)) ∧
    ∀ (u : State) (q : Pend), Obligations.taken s u port p 0x01 →
      u.cx.pend.find? (fun q => sameHeader (leNat (p.body.take 32)) q.pkt) = some q →
      ∃ t, exec (.fabUnreach port p) s = .next t ∧ ChangesOnly [.cx, .flights] u t ∧ (∀ x ∈ t.cx.pend, x.opid ≠ q.opid) ∧
        ∀ f, u.flight? q.opid = some f → EndedWith u t f 0x21 2

/-! ### Collectives -/

/-- A record of the collective engine whose work has not begun. -/
def Obligations.unbegun (s : State) (f : Flight) (op : Nat) : Prop :=
  s.runs f ∧ queueEngine f.queue = 12 ∧ recOpcode f.word = op ∧ s.cx.begun.all (fun b => b.1 ≠ f.rid) = true

/-- The pieces of the state that the work of the collective engine can write. -/
def Obligations.cxPieces : List Piece := [.flights, .mem, .regs, .icu, .watch, .run, .mpart, .ckpt, .cx, .links, .out, .spares, .history, .free, .test]

/-- The encodings of a reduction that its owner writes (R247), for elements lo to hi: 2^−g, then DFMT under RND. -/
def Obligations.finalBytes (s : State) (f : Flight) (vals : List Nat) (lo n : Nat) : List Byte :=
  let w := f.word
  let layer := fieldOf w 159 148
  let fmt := (Fmt.ofCode (fieldOf w 171 168)).getD .f32
  let x : RndCtx := { mode := fieldOf w 143 142, key := f.key, step := f.step, layer := layer, stream := 8, mb := fieldOf w 139 134,
                      base := fieldOf w 511 480, n := 256 }
  (List.range n).flatMap fun i =>
    let v := ofF32 (vals.getD (lo + i) 0)
    let v := if s.scaledLayer layer then v.scaleF32 (-s.gexpNow layer) else v
    leBytes (coSize (coDstFmt w)) (convScalar fmt (fieldOf w 144 144 = 1) (rndElem x i) v).bits

/-- CX_ALLREDUCE, CX_REDSCAT and CX_ALLGATHER (R245 to R248) complete. A member that is alone in its cut ends at once, OK: a gather, and a reduction between equal formats without a
scale (R35), copies the bytes of its source to its destination; any other reduction writes its values, scaled and converted. In a larger group the record's work begins, and as long as the record has not
ended, a CX_READY to every upstream neighbour waits for its answer; it has not ended where its memory is open, the map gives every neighbour, and no CX_READY that has come differs in its parameters.
Completion is stated here of .cxAllreduce, .cxRedscat, .cxAllgather. -/
def Obligations.CollectivesStart : Prop :=
  ∀ (s : State) (f : Flight) (op : Nat) (c : Instr), (op, c) ∈ [(0x40, Instr.cxAllreduce f.rid), (0x41, .cxRedscat f.rid), (0x42, .cxAllgather f.rid)] →
    Obligations.unbegun s f op →
    let w := f.word
    let size := coSize (coSrcFmt w)
    let n := (s.coSpans w).1
    let src := s.bytes (coSrc w) (n * size)
    let vals := (List.range n).map fun i => toF32 (decodeScalar (fmtD (coSrcFmt w)) (leNat ((src.drop (size * i)).take size)))
    (s.coPhases w = [] → s.members (coCut w) = 1 → s.getOp f.rid = none → s.cx.sigWait.contains f.rid = false → s.cx.pend.any (fun p => p.opid = f.rid) = false →
      s.healthy → s.writesFreely f →
      ∃ t, exec c s = .next t ∧ EndedWith s t f 0 0 ∧ ChangesOnly Obligations.cxPieces s t ∧
        (s.flag F.HUB_WATCH_LOG_CFG_EN = false → ∀ a, t.byte a = afterWrites s.byte
          [(coDst w, if op = 0x42 ∨ (coSrcFmt w = coDstFmt w ∧ s.scaledLayer (fieldOf w 159 148) = false) then src else Obligations.finalBytes s f vals 0 (coCount w))] a)) ∧
    (s.coPhases w ≠ [] → ∃ t, exec c s = .next t ∧ ChangesOnly Obligations.cxPieces s t ∧
      (∀ r, r ≠ f.rid → t.flight? r = s.flight? r) ∧
      (t.flight? f.rid = some f → (t.cx.begun.any fun b => b.1 = f.rid) = true ∧
        ∀ ph ∈ s.coPhases w, ∀ down, ∃ d, s.mapCoord (s.ringFrom (coCut w) ph.1 down) = some d ∧
          ∃ q ∈ t.cx.pend, q.opid = f.rid ∧ q.pkt.ptype = 0x14 ∧ q.pkt.dst = d) ∧
      (s.healthy → s.writesFreely f → s.getOp f.rid = none →
        (∀ ph ∈ s.coPhases w, ∀ down, (s.mapCoord (s.ringFrom (coCut w) ph.1 down)).isSome = true ∧ (s.mapCoord (s.ringTo (coCut w) ph.1 down)).isSome = true) →
        (∀ r ∈ s.cx.readies, (r.step, r.run) = s.pktStep f → r.cut = coCut w → r.collId = coId w → r.digest = coDigest w) → t.flight? f.rid = some f))

/-- CX_SEND and CX_SIGNAL (R102, R251): a target that no map entry gives ends the record with UNREACHABLE; otherwise the bytes go out in packets of up to 4,096 bytes, numbered
from 0, each waiting for its answer; a signal goes out at once if no earlier write of its queue to its target is unanswered or has failed, and waits otherwise.
Completion is stated here of .cxSend, .cxSignal. -/
def Obligations.SendsAndSignals : Prop :=
  (∀ (s : State) (f : Flight), Obligations.unbegun s f 0x43 →
    let w := f.word
    let len := fieldOf w 383 352
    let target := (s.cxTarget w).bind s.mapCoord
    (target = none → ∃ t, exec (.cxSend f.rid) s = .next t ∧ EndedWith s t f 0x21 1 ∧ ChangesOnly [.flights] s t) ∧
    ∀ d, target = some d → s.rangeFenced (coSrc w) len = false → s.healthy →
      ∃ t, exec (.cxSend f.rid) s = .next t ∧ ChangesOnly ([.cx, .links, .out] ++ Obligations.readPieces) s t ∧ t.cx.begun = s.cx.begun ++ [(f.rid, false)] ∧
        ∃ qs : List Pend, t.cx.pend = s.cx.pend ++ qs ∧ qs.length = ceilDiv len 4096 ∧
          ∀ i q, qs[i]? = some q → q.opid = f.rid ∧ q.pseq = i ∧ q.pkt.ptype = 0x11 ∧ q.pkt.dst = d ∧
            q.pkt.body.drop 32 = s.bytes (coSrc w + 4096 * i) (min 4096 (len - 4096 * i))) ∧
  ∀ (s : State) (f : Flight), Obligations.unbegun s f 0x44 →
    let target := (s.cxTarget f.word).bind s.mapCoord
    (target = none → ∃ t, exec (.cxSignal f.rid) s = .next t ∧ EndedWith s t f 0x21 1 ∧ ChangesOnly [.flights, .cx] s t) ∧
    ∀ d, target = some d →
      ∃ t : State, exec (.cxSignal f.rid) s = .next t ∧ ChangesOnly [.cx, .links, .out, .regs] s t ∧
        (if ({ s with cx := { s.cx with begun := s.cx.begun ++ [(f.rid, false)], sigWait := s.cx.sigWait ++ [f.rid] } } : State).signalFree f d = true then
          ∃ q : Pend, t.cx.pend = s.cx.pend ++ [q] ∧ q.opid = f.rid ∧ q.pkt.ptype = 0x12 ∧ q.pkt.dst = d ∧ f.rid ∉ t.cx.sigWait
        else t.cx.pend = s.cx.pend ∧ t.cx.sigWait = s.cx.sigWait ++ [f.rid])

/-- CX_RING and CX_READY (R246, R248, R252, R254, R340): one that fails a check is answered with its reason and changes nothing else; data for a ring step of a collective that has
not started is answered ACCEPTED and not kept; a CX_READY for one is kept and answered; one whose parameters differ ends the collective with PARAM_MISMATCH. Data for a collective
in flight is kept, and the collective goes on as far as it can.
Completion is stated here of .cxRing, .cxReady. -/
def Obligations.RingPackets : Prop :=
  ∀ (s u : State) (port : Nat) (p : Packet),
    let x := Sub.ofBytes p.body
    let n := leNat p.body
    (Obligations.taken s u port p 0x10 →
      let member : Bool := u.mapCoord (u.ringFrom x.cut x.part x.down) = some p.src && (u.part x.cut x.part).size > 1
      let reason := firstReason [u.domReason 0x1C, epochCheck p.epoch (u.rd R.CXE_EPOCH), u.runStepCheck p x true, if member then 0 else 0x0A, if checkOk p x then 0 else 8]
      (reason ≠ 0 → exec (.cxRing port p) s = .next (u.respond p x.opid x.pseq reason).earlyFailure) ∧
      (reason = 0 → u.opFor x.stepped p.step x.cut x.collId = none → exec (.cxRing port p) s = .next (u.respond p x.opid x.pseq 0).earlyFailure) ∧
      (reason = 0 → ∀ o, u.opFor x.stepped p.step x.cut x.collId = some o →
        let fits : Bool := x.rstep + 1 < (u.part x.cut x.part).size && x.addr + (p.body.drop 32).length ≤ u.stepLen o x.part x.gather x.down x.rstep
        ∃ t o' : _, exec (.cxRing port p) s = .next (State.runRing ringFuel o.rid t).earlyFailure ∧ ChangesOnly [.cx, .links, .out, .regs] u t ∧
          t.cx.ops = (u.setOp o').cx.ops ∧ o' = (if o.has x || !fits then o else { o with inbox := o.inbox ++ [⟨x.part, x.gather, x.down, x.rstep, x.addr, p.body.drop 32⟩] }))) ∧
    (Obligations.taken s u port p 0x14 →
      let collId := bits n 127 96
      let digest := bits n 95 64
      let cut := bits n 63 62
      let b := bits n 60 60
      let y := { Sub.zero with run := bits n 59 56, stepped := p.step ≠ 0, cut := cut, part := b, down := bit n 61, collId := collId }
      let member : Bool := u.mapCoord (u.ringTo cut b (bit n 61)) = some p.src && (u.part cut b).size > 1
      let reason := firstReason [u.domReason 0x1C, epochCheck p.epoch (u.rd R.CXE_EPOCH), u.runStepCheck p y false, if member then 0 else 0x0A]
      (reason ≠ 0 → exec (.cxReady port p) s = .next (u.respond p collId digest reason).earlyFailure) ∧
      (reason = 0 → u.opFor y.stepped p.step cut collId = none → ∃ t : State, exec (.cxReady port p) s = .next (t.respond p collId digest 0).earlyFailure ∧
        ChangesOnly [.cx] u t ∧ (⟨p.src, p.step, bits n 59 56, cut, collId, b, bit n 61, digest⟩ : Ready) ∈ t.cx.readies ∧ t.cx.pend = u.cx.pend ∧ t.cx.ops = u.cx.ops) ∧
      (reason = 0 → ∀ o, u.opFor y.stepped p.step cut collId = some o →
        (o.digest ≠ digest → exec (.cxReady port p) s = .next ((u.respond p collId digest 0x0B).endOp o.rid 0x22 0x0B).earlyFailure) ∧
        (o.digest = digest → ∃ t o' : _, exec (.cxReady port p) s = .next (State.runRing ringFuel o.rid t).earlyFailure ∧ ChangesOnly [.cx, .links, .out, .regs] u t ∧
          t.cx.ops = (u.setOp o').cx.ops ∧ o'.rid = o.rid ∧ (b * 2 + b2n (bit n 61)) ∈ o'.ready ∧ o'.vals = o.vals)))

/-- CX_WRITE and remote signals (R102, R251, R254, R256): one that fails a check is answered with its reason, a signal refused for good is counted, and nothing else changes. A write into
memory that is open stores its data and is answered ACCEPTED, one into a page that a checkpoint has not copied waits with its answer (R315); a signal is applied once, or held for its later step while there is room.
Completion is stated here of .cxWrite, .remoteSignal. -/
def Obligations.RemoteWritesAndSignals : Prop :=
  ∀ (s u : State) (port : Nat) (p : Packet),
    let x := Sub.ofBytes p.body
    let data := p.body.drop 32
    (Obligations.taken s u port p 0x11 →
      let reason := firstReason [u.domReason 0x1C, epochCheck p.epoch (u.getC x.rctx).epoch, u.runStepCheck p x true, u.remoteCtxCheck x.rctx x.stepped,
        if u.rangeDetail (u.getC x.rctx) x.addr data.length = 0 then 0 else 7, if checkOk p x then 0 else 8]
      (reason ≠ 0 → exec (.cxWrite port p) s = .next (u.respond p x.opid x.pseq reason)) ∧
      (reason = 0 → u.healthy → u.rangeFenced x.addr data.length = false → u.guardedCtx x.rctx x.addr data.length = false →
        ∃ t : State, exec (.cxWrite port p) s = .next (t.respond p x.opid x.pseq 0) ∧ ChangesOnly Obligations.readPieces u t ∧
          ∀ a, t.byte a = afterWrites u.byte [(x.addr, data)] a) ∧
      (reason = 0 → u.rangeFenced x.addr data.length = false → u.guardedCtx x.rctx x.addr data.length = false → u.stallsAt x.addr data.length = true →
        ∃ t : State, exec (.cxWrite port p) s = .next t ∧ ChangesOnly [.ckpt, .regs] u t ∧
          t.ckpt = { u.ckpt with stalled := u.ckpt.stalled ++ [{ rid := none, addr := x.addr, data := data, pkt := some p }] })) ∧
    (Obligations.taken s u port p 0x12 →
      let ctx := ctrOwner x.rctr
      let later : Bool := x.stepped && (p.step > u.currentStep || (p.step = u.currentStep && !u.inProgress))
      let reason := firstReason [u.domReason 0x1C, epochCheck p.epoch (u.getC ctx).epoch, u.runStepCheck p x false, u.remoteCtxCheck ctx x.stepped, u.domReason 0x41]
      let seen : Prop := (p.src, x.opid, x.pseq) ∈ u.cx.signals
      (reason ≠ 0 → ∃ t : State, exec (.remoteSignal port p) s = .next (t.respond p x.opid x.pseq reason) ∧ ChangesOnly [.regs] u t ∧ RegsOnly [R.SYN_STS] u t ∧
        t.fget F.SYN_STS_REFUSED = if reason = 0x0D then u.fget F.SYN_STS_REFUSED else min (u.fget F.SYN_STS_REFUSED + 1) 0xFFFF) ∧
      (reason = 0 → seen → exec (.remoteSignal port p) s = .next (u.respond p x.opid x.pseq 0)) ∧
      (reason = 0 → ¬ seen → later = true → 1024 ≤ u.syn.held.length → exec (.remoteSignal port p) s = .next (u.respond p x.opid x.pseq 5)) ∧
      (reason = 0 → ¬ seen → later = true → u.syn.held.length < 1024 → ∃ t : State, exec (.remoteSignal port p) s = .next (t.respond p x.opid x.pseq 0) ∧
        ChangesOnly [.cx, .counters] u t ∧ t.syn = { u.syn with held := u.syn.held ++ [⟨x.rctr, x.value, p.step⟩] } ∧ (p.src, x.opid, x.pseq) ∈ t.cx.signals) ∧
      (reason = 0 → ¬ seen → later = false → ∃ t : State, exec (.remoteSignal port p) s = .next (t.respond p x.opid x.pseq 0) ∧
        ChangesOnly [.cx, .counters, .queues, .regs] u t ∧ Obligations.counterTakes u t x.rctr ((u.getCtr x.rctr + x.value) % 2 ^ 64) ∧ (p.src, x.opid, x.pseq) ∈ t.cx.signals))

/-- CX_RESP and RESEND (R254, R255): ACCEPTED takes the packets that it covers off what waits; a reason that asks for a resend leaves the packet to RESEND, which sends it again as it was; CHECK_FAIL
after the last permitted resend ends the record, and so does a refusal for good. An answer that names nothing changes nothing but a collective that has gone on after a CX_READY that did not fit it.
One of another layout epoch is refused (R256), and a fenced collective engine discards it (R340).
Completion is stated here of .cxResp, .resend. -/
def Obligations.AnswersAndResends : Prop :=
  (∀ (s u : State) (port : Nat) (p : Packet), Obligations.taken s u port p 0x13 →
    let n := leNat p.body
    let reason := bits n 63 56
    (epochCheck p.epoch (u.rd R.CXE_EPOCH) ≠ 0 → exec (.cxResp port p) s = .next (u.count R.CXE_REFUSE_CNT)) ∧
    (epochCheck p.epoch (u.rd R.CXE_EPOCH) = 0 → u.fenced 0x1C = true → exec (.cxResp port p) s = .next u) ∧
    (epochCheck p.epoch (u.rd R.CXE_EPOCH) = 0 → u.fenced 0x1C = false →
    (u.answered p.src (bits n 127 96) (bits n 95 64) = none → reason ≠ 0x0B → exec (.cxResp port p) s = .next u) ∧
    (u.answered p.src (bits n 127 96) (bits n 95 64) = none → reason = 0x0B → ∃ t : State, exec (.cxResp port p) s = .next t ∧ ChangesOnly [.cx, .flights] u t ∧
      ∀ o f, u.cx.ops.find? (fun o => coId o.word = bits n 127 96 && o.digest = bits n 95 64 && o.step = p.step) = some o → u.flight? o.rid = some f → EndedWith u t f 0x22 0x0B) ∧
    ∀ q, u.answered p.src (bits n 127 96) (bits n 95 64) = some q → isLedgerType q.pkt.ptype = false →
      (reason = 0 → q.pkt.ptype ≠ 0x14 → ∃ t : State, exec (.cxResp port p) s = .next ((t.settleOp q.opid).releaseSignals) ∧ ChangesOnly [.cx] u t ∧
        t.cx = { u.cx with pend := acceptRun u.cx.pend q } ∧ q ∉ t.cx.pend) ∧
      (reason = 0 → q.pkt.ptype = 0x14 → ∃ t : State, exec (.cxResp port p) s = .next ((t.settleOp q.opid).releaseSignals) ∧ ChangesOnly [.cx] u t ∧
        t.cx = { u.cx with pend := u.cx.pend.filter fun y => y ≠ q }) ∧
      (reason = 0x0C → ∃ t : State, exec (.cxResp port p) s = .next t ∧ ChangesOnly [.cx] u t ∧ t.cx = { u.cx with pend := u.cx.pend.filter fun y => y ≠ q }) ∧
      (resendReason reason = true → (reason = 8 → q.checks < u.fget F.CXE_CFG_RESENDS) → ∃ t : State, exec (.cxResp port p) s = .next t ∧ ChangesOnly [.cx] u t ∧
        { q with again := true, checks := q.checks + b2n (reason = 8) } ∈ t.cx.pend) ∧
      (reason = 8 → u.fget F.CXE_CFG_RESENDS ≤ q.checks → ∃ t : State, exec (.cxResp port p) s = .next t ∧ ChangesOnly [.cx, .flights] u t ∧
        ∀ f, u.flight? q.opid = some f → EndedWith u t f 0x24 0) ∧
      (reason ≠ 0 → reason ≠ 0x0C → resendReason reason = false → ∃ t : State, exec (.cxResp port p) s = .next t ∧ ChangesOnly [.cx, .flights] u t ∧
        ∀ f, u.flight? q.opid = some f → EndedWith u t f (if reason = 1 ∨ reason = 3 then 0x20 else 0x22) reason))) ∧
  ∀ (s : State) (opid pseq : Nat),
    let named := s.cx.pend.filter fun q => q.opid = opid && q.pseq = pseq
    let due := if named.any (·.again) then named.filter (·.again) else named
    (named = [] → exec (.resend opid pseq) s = .next s) ∧
    ∃ t : State, exec (.resend opid pseq) s = .next (due.foldl (fun t q => t.launch none q.pkt) t) ∧ ChangesOnly [.cx, .regs] s t ∧ RegsOnly [R.CXE_RESEND_CNT] s t ∧
      t.cx.pend.length = s.cx.pend.length ∧ ∀ q, q ∈ due → { q with again := false } ∈ t.cx.pend

/-- The layout change and the map's reload (R231, R257, R260): an ARM is refused with the lowest CAUSE that applies, or waits, PEND; a CANCEL takes it back; once the device stands at the
boundary it names and the collective engine has drained, epoch, logical coordinate and cuts take the armed values, and every context's epoch with them. A RELOAD is held until then.
Both ends raise source 0x08A.
Completion is stated here of .mapReload, .layoutArm, .layoutCancel, .layoutApply. -/
def Obligations.LayoutChanges : Prop :=
  ∀ (s : State) (a : Agent),
    let cause := s.armCause
    (∃ t, exec (.mapReload a) s = .next t ∧ t.cx = { s.cx with reload := true } ∧ t.flag F.FAB_MAP_CTL_PEND = true ∧ ChangesOnly [.cx, .regs] s t ∧
      RegsOnly [R.FAB_MAP_CTL] s t) ∧
    (∃ t, exec (.layoutCancel a) s = .next t ∧ t.flag F.CXE_NEXT_STS_PEND = false ∧ ChangesOnly [.regs] s t ∧ RegsOnly [R.CXE_NEXT_STS] s t) ∧
    (cause = 0 → ∃ t, exec (.layoutArm a) s = .next t ∧ t.flag F.CXE_NEXT_STS_PEND = true ∧ t.fget F.CXE_NEXT_STS_CAUSE = 0 ∧
      t.flag F.CXE_NEXT_STS_REFUSED = false ∧ ChangesOnly [.regs] s t ∧ RegsOnly [R.CXE_NEXT_STS] s t) ∧
    (cause ≠ 0 → ∃ t, exec (.layoutArm a) s = .next t ∧ t.flag F.CXE_NEXT_STS_REFUSED = true ∧ t.fget F.CXE_NEXT_STS_CAUSE = cause ∧
      t.flag F.CXE_NEXT_STS_PEND = s.flag F.CXE_NEXT_STS_PEND ∧ ChangesOnly [.regs, .icu] s t) ∧
    (s.layoutReady = false → exec .layoutApply s = .next s) ∧
    (s.layoutReady = true → ∃ t : State, exec .layoutApply s = .next t.boundaryRest.settle ∧ ChangesOnly ([.contexts, .cx, .map, .test] ++ Obligations.readPieces) s t ∧
      (s.cx.reload = false → ChangesOnly [.regs, .icu, .contexts] s t) ∧
      t.rd R.CXE_EPOCH = s.rd R.CXE_NEXT_EPOCH ∧ t.rd R.CXE_LCOORD = s.rd R.CXE_NEXT_LCOORD ∧
      (∀ k, k < 4 → t.rd (R.CXE_CUT + 4 * k) = s.rd (R.CXE_NEXT_CUT + 4 * k)) ∧ (∀ n, n < 64 → t.getC n = { s.getC n with epoch := s.rd R.CXE_NEXT_EPOCH }) ∧
      t.flag F.CXE_NEXT_STS_PEND = false ∧ t.flag F.CXE_NEXT_STS_APPLIED = true ∧ t.cx.reload = false ∧ (s.cx.reload = false → t.map = s.map))

/-! ### The step ledger -/

/-- A record of the ledger engine whose work has not begun. -/
def Obligations.lxUnbegun (s : State) (f : Flight) (op : Nat) : Prop :=
  s.runs f ∧ queueEngine f.queue = 14 ∧ recOpcode f.word = op ∧ s.cx.begun.all (fun b => b.1 ≠ f.rid) = true

/-- LX_RECORD and LX_FORWARD (R264 to R266, R287) on memory that can be read: the first run of a step writes the boundary record, if it fits; a later run writes it anew
and counts the difference only where the bytes' CRC-64 differs. A forward to a lost partner ends with UNREACHABLE; otherwise the data goes to the yoke partner in packets of up to 4,096
bytes, addressed from the second address on, the last of them with the signal if the record asks for one.
Completion is stated here of .lxRecord, .lxForward. -/
def Obligations.LedgerRecords : Prop :=
  (∀ (s : State) (f : Flight), Obligations.lxUnbegun s f 0x60 → s.rangeFenced (lxAddr0 f.word) (lxLen f.word) = false → s.healthy →
    let w := f.word
    let bs := s.bytes (lxAddr0 w) (lxLen w)
    let cmd := f.queue * 2 ^ 32 + f.entry * 2 ^ 16 + f.idx
    let r : BoundRec := { step := f.step, kind := lxKind w, origin := fieldOf w 277 260, mb := 0, cmd := cmd, crc := crc64 bs, bytes := bs }
    let old := s.ledger.bounds.find? fun b => b.step = f.step && b.cmd = cmd
    (old = none → s.ledgerFits (64 + lxLen w) = false →
      ∃ t, exec (.lxRecord f.rid) s = .next t ∧ EndedWith s t f 0x30 0 ∧ ChangesOnly [.flights] s t) ∧
    (old = none → s.ledgerFits (64 + lxLen w) = true → ∃ t, exec (.lxRecord f.rid) s = .next t ∧ EndedWith s t f 0 0 ∧
      ChangesOnly ([.flights, .ledger] ++ Obligations.readPieces) s t ∧ t.ledger = { s.ledger with bounds := s.ledger.bounds ++ [r] }) ∧
    ∀ b, old = some b → ∃ t, exec (.lxRecord f.rid) s = .next t ∧ EndedWith s t f 0 0 ∧ ChangesOnly ([.flights, .ledger] ++ Obligations.readPieces) s t ∧
      t.rd R.LXE_RECDIFF_CNT = (if b.crc = r.crc then s.rd R.LXE_RECDIFF_CNT else min (s.rd R.LXE_RECDIFF_CNT + 1) 0xFFFFFFFF) ∧
      t.ledger = if b.crc = r.crc then s.ledger else { s.ledger with bounds := s.ledger.bounds.map fun x => if x = b then r else x }) ∧
  ∀ (s : State) (f : Flight), Obligations.lxUnbegun s f 0x61 →
    let w := f.word
    let n := ceilDiv (lxLen w) 4096
    (s.ledger.yokeLost = true → ∃ t, exec (.lxForward f.rid) s = .next t ∧ EndedWith s t f 0x21 2 ∧ ChangesOnly [.flights] s t) ∧
    (s.ledger.yokeLost = false → s.rangeFenced (lxAddr0 w) (lxLen w) = false → s.healthy → s.shadowing = false →
      ∃ t, exec (.lxForward f.rid) s = .next t ∧ ChangesOnly ([.cx, .links, .out] ++ Obligations.readPieces) s t ∧ t.cx.begun = s.cx.begun ++ [(f.rid, false)] ∧
        ∃ qs : List Pend, t.cx.pend = s.cx.pend ++ qs ∧ qs.length = n ∧ ∀ i q, qs[i]? = some q →
          let signal : Bool := i + 1 = n && fieldOf w 310 310 = 1
          q.opid = f.rid ∧ q.pseq = i ∧ q.pkt.ptype = 0x80 ∧ q.pkt.y = true ∧ q.pkt.dst = s.fget F.FAB_YOKE_PARTNER ∧
            q.pkt.body.drop 32 = s.bytes (lxAddr0 w + 4096 * i) (min 4096 (lxLen w - 4096 * i)) ∧
            (Sub.ofBytes q.pkt.body).addr = (lxAddr1 w + 4096 * i) % 2 ^ 48 ∧ (Sub.ofBytes q.pkt.body).rctx = fieldOf w 330 325 ∧
            (Sub.ofBytes q.pkt.body).value = if signal then fieldOf w 309 278 else 0)

/-- What follows a command by which a run may pass or fail: a held stop rises with the step that has passed, acts if it can, and a held LX_CKPT is looked at again (R313, R327). -/
def Obligations.heldOn (s : State) : State := s.preemptPassed.actOnHeld.resumeCkpt

/-- Verdicts (R270 to R274, R290). LX_VERDICT forms the stage's record: in a group of one device, stage 1 without a cause of failure passes, and stage 2 without a failed window
seals the step; in a larger one the record goes out and the reduction begins. CX_VERDICT: a record of another epoch is counted and refused, one of an earlier run is discarded, a
FAIL record of stage 1 gives the run up, and one for the run that has just failed joins its failure (R144, R272); any other is kept for its round, and with the second of the last round
stage 1 passes, if none of the three records failed.
Completion is stated here of .cxVerdict, .lxVerdict. -/
def Obligations.Verdicts : Prop :=
  (∀ (s : State) (f : Flight), Obligations.lxUnbegun s f 0x62 → s.run.red = none → s.run.failSent = false → (∀ h, s.pre.held = some h → s.stepNum ≤ h) →
    let c := s.run.causes &&& 0xBF
    let two : VRec := if bit s.run.causes 6 then ⟨true, false, 64, s.lcoord, s.ownSummary⟩ else ⟨false, false, 0, 0x3FFFF, s.ownSummary⟩
    (lxStage f.word = 1 → c = 0 → s.verdictParts = [] → ∃ t, exec (.lxVerdict f.rid) s = .next (Obligations.heldOn t) ∧ EndedWith s t f 0 0 ∧ t.run.passed = true ∧
      bits (t.rd R.LXE_VSTS) 31 29 = 2 ∧ t.rd64 R.LXE_VSTEP = s.stepNum % 2 ^ 64 ∧ ChangesOnly [.flights, .run, .regs] s t) ∧
    (lxStage f.word = 1 → c ≠ 0 → exec (.lxVerdict f.rid) s = .next (Obligations.heldOn (s.failRun ⟨true, false, c, s.lcoord, 0⟩))) ∧
    (lxStage f.word = 2 → bit s.run.causes 6 = false → s.verdictParts = [] → s.ckpt.stalled = [] → ∃ t, exec (.lxVerdict f.rid) s = .next (Obligations.heldOn t) ∧
      t.pos.lastSealed = some s.stepNum ∧ t.pos.issued = false ∧ t.pos.run = 0 ∧ t.flight? f.rid = none ∧ (∀ b ∈ t.ledger.bounds, b.step ≠ s.stepNum)) ∧
    ∀ k b ps, s.verdictParts = (k, b) :: ps → (lxStage f.word = 2 ∨ (lxStage f.word = 1 ∧ c = 0)) →
      ∃ t : State, exec (.lxVerdict f.rid) s = .next (Obligations.heldOn (t.runVerdict 512)) ∧ ChangesOnly [.run, .links, .out, .regs] s t ∧ t.run.formed = true ∧
        t.run.red = some ⟨lxStage f.word, f.rid, if lxStage f.word = 1 then ⟨false, false, 0, 0x3FFFF, 0⟩ else two, s.verdictParts, 0⟩) ∧
  ∀ (s u : State) (port : Nat) (p : Packet), Obligations.taken s u port p 0x15 →
    let n := leNat (p.body.take 32)
    let stage := bits n 187 186
    let r : VRec := ⟨bit n 185, bit n 184, bits n 183 176, bits n 145 128, if stage = 2 then leNat (p.body.drop 32) else 0⟩
    let x : VIn := ⟨bits n 255 192, bits n 191 188, stage, bits n 159 158, bits n 157 157, bits n 175 160, bits n 156 156, r⟩
    let old : Prop := x.step < u.currentStep ∨ (x.step = u.currentStep ∧ x.run < u.pos.run)
    let mine : Prop := u.pos.issued = true ∧ x.step = u.stepNum ∧ x.run = u.pos.run
    let same := epochCheck p.epoch (u.rd R.CXE_EPOCH) = 0
    let late : Prop := r.fail = true ∧ stage = 1 ∧ u.pos.issued = false ∧ x.step = u.stepNum ∧ x.run + 1 = u.pos.run
    (¬ same → ∃ t : State, exec (.cxVerdict port p) s = .next (Obligations.heldOn t) ∧ ChangesOnly [.regs] u t ∧ RegsOnly [R.CXE_REFUSE_CNT] u t ∧
      t.rd R.CXE_REFUSE_CNT = min (u.rd R.CXE_REFUSE_CNT + 1) 0xFFFFFFFF) ∧
    (same → old → ¬ late ∨ u.run.failure = none → exec (.cxVerdict port p) s = .next (Obligations.heldOn u)) ∧
    (∀ f, same → old → late → u.run.failure = some f → u.replaySpent (u.pos.run - 1) (f.join r false).cause = false →
      ∃ t : State, exec (.cxVerdict port p) s = .next (Obligations.heldOn t) ∧ ChangesOnly [.run, .regs] u t ∧ t.run = { u.run with failure := some (f.join r false) }) ∧
    (same → ¬ old → r.fail = true → stage = 1 → mine → exec (.cxVerdict port p) s = .next (Obligations.heldOn (if u.run.failSent then u else u.failRun r))) ∧
    (same → ¬ old → ¬ (r.fail = true ∧ stage = 1 ∧ mine) → u.run.red = none → ∃ t : State, exec (.cxVerdict port p) s = .next (Obligations.heldOn t) ∧ ChangesOnly [.run] u t ∧
      t.run = { u.run with inbox := if u.run.inbox.contains x then u.run.inbox else u.run.inbox ++ [x] }) ∧
    ∀ (red : VRed) (y : VIn) (k b : Nat), same → ¬ old → r.fail = false → stage = 1 → x.step = u.stepNum → x.run = u.pos.run → x.cut = k → x.part = b → x.round = red.round →
      u.run.red = some red → red.stage = 1 → red.phases = [(k, b)] → ringRounds (u.part k b).size ≤ red.round + 1 → red.body.fail = false →
      u.run.inbox = [y] → y = { x with dir := y.dir, body := y.body } → y.dir = 1 - x.dir → x.dir < 2 → y.dir < 2 → y.body.fail = false →
      ∃ t, exec (.cxVerdict port p) s = .next (Obligations.heldOn t) ∧ t.run.passed = true ∧ t.run.red = none ∧ ChangesOnly [.run, .flights, .regs] u t ∧
        ∀ f, u.flight? red.rid = some f → f.resp = none → EndedWith u t f 0 0

/-- The committed digest of a window. -/
def Obligations.digestOf (s : State) (key : Nat) : Option WinDig := tget (fun _ => (none : Option WinDig)) s.ledger.digests key

/-- A window commits (R282, R283): it closes, its record ends with resp, and its digest is in the table; memory stays. -/
def Obligations.committed (u t : State) (w : Window) (digest resp : Nat) : Prop :=
  Obligations.digestOf t w.key = some ⟨digest, w.len, w.base⟩ ∧ (∀ k, k ≠ w.key → Obligations.digestOf t k = Obligations.digestOf u k) ∧
    (∀ x ∈ t.ledger.windows, x.rid ≠ w.rid) ∧ (∀ f, u.flight? w.rid = some f → f.resp = none → EndedWith u t f resp 0)

/-- Update windows (R267, R282 to R285). LX_WINDOW waits until it may start; then, if the pre-image fits the ledger, the window opens with it, and its sub-waybill is written to the ring
of its queue and rung. A digest of another step is discarded; the partner's digest of the first attempt commits the window if it is this side's own, and otherwise, while WIN_RETRY allows,
puts the pre-image back. The re-read of a committed window completes: one whose digest no longer holds is asked for from the partner; the bytes of memory stay.
Completion is stated here of .lxWindow, .lxDigest, .stateReread. -/
def Obligations.UpdateWindows : Prop :=
  (∀ (s : State) (f : Flight), Obligations.lxUnbegun s f 0x63 → s.ledger.windows.any (fun w => w.rid = f.rid) = false →
    let w := f.word
    let q := s.getQ (lxQueue w)
    let tail := (q.tail + 1) % 2 ^ q.sizeLog2
    (s.windowMayStart w = false → exec (.lxWindow f.rid) s = .next s.settle) ∧
    (s.windowMayStart w = true → s.ledgerFits (64 + lxLen w) = false →
      ∃ t, exec (.lxWindow f.rid) s = .next t.settle ∧ EndedWith s t f 0x30 0 ∧ ChangesOnly [.flights] s t) ∧
    (s.windowMayStart w = true → s.ledgerFits (64 + lxLen w) = true → s.rangeFenced (lxAddr0 w) (lxLen w) = false → s.healthy → tail ≠ q.head →
      s.innerBellOk q.ctx q.ctx (lxQueue w) tail = true →
      ∃ t : State, exec (.lxWindow f.rid) s = .next t.settle ∧ ChangesOnly ([.ledger, .queues] ++ Obligations.readPieces) s t ∧
        (∀ a, t.byte a = afterWrites s.byte [(q.base + 16 * q.tail, entryBytes s.stepNum (lxRecs w) (lxAddr1 w))] a) ∧
        t.getQ (lxQueue w) = { q with tail := tail } ∧ (∀ n, n ≠ lxQueue w → t.getQ n = s.getQ n) ∧
        t.ledger.windows = s.ledger.windows ++ [{
          rid := f.rid, win := lxWin w, side := lxSide w, base := lxAddr0 w, len := lxLen w, vqueue := lxQueue w, entry := q.tail, sub := lxAddr1 w, wrecs := lxRecs w,
          pre := s.bytes (lxAddr0 w) (lxLen w), mine := [], theirs := [], unc := false, digested := false, fetching := false,
          redo := false }])) ∧
  (∀ (s u : State) (port : Nat) (p : Packet), Obligations.taken s u port p 0x82 →
    let n := leNat p.body
    let own0 : Prop := u.domReason 0x1E = 0
    let key := joinKey (bits n 47 47 * 65536 + bits n 63 48)
    let own : Prop := own0 ∧ port = 6 ∧ u.fget F.HUB_JOIN_STS_ROLE = 0
    let now : Prop := p.step = u.currentStep
    (¬ own0 → exec (.lxDigest port p) s = .next u.earlyFailure) ∧
    (own0 → u.ledgerFrom port p = false → exec (.lxDigest port p) s = .next (u.respond p 0 0 0x0A).earlyFailure) ∧
    (own → ¬ now → exec (.lxDigest port p) s = .next u.earlyFailure) ∧
    (own → now → u.openWin key = none → ∃ t, exec (.lxDigest port p) s = .next (State.earlyFailure t) ∧ ChangesOnly [.ledger] u t ∧
      t.ledger = { u.ledger with peer := t.ledger.peer } ∧ (⟨key, bits n 43 40, bits n 46 44, bits n 127 64⟩ : PeerDig) ∈ t.ledger.peer) ∧
    ∀ (w : Window) (d : Nat), own → now → u.openWin key = some w → w.digested = true → w.fetching = false → w.mine = [some d] → w.theirs = [] →
      u.rcv.join.early = [] → bits n 43 40 = u.pos.run →
      bits n 46 44 = 0 →
      (d = bits n 127 64 → ∃ t, exec (.lxDigest port p) s = .next (State.earlyFailure t) ∧ Obligations.committed u t w d 0 ∧ ChangesOnly [.ledger, .flights, .run] u t) ∧
      (d ≠ bits n 127 64 → 1 ≤ u.fget F.LXE_CFG_WIN_RETRY → u.healthy → ∃ t : State, exec (.lxDigest port p) s =
          .next (t.startAttempt { w with theirs := [bits n 127 64] }).earlyFailure ∧
        (∀ a, t.byte a = afterWrites u.byte [(w.base, w.pre)] a) ∧ t.rd R.LXE_WIN_REDO_CNT = min (u.rd R.LXE_WIN_REDO_CNT + 1) 0xFFFFFFFF ∧
        ChangesOnly (.ledger :: Obligations.readPieces) u t)) ∧
  ∀ (s : State) (key : Nat),
    let due : Prop := s.flag F.LXE_CFG_REREAD_EN = true ∧ s.pos.issued = true ∧ s.openWin key = none ∧ s.ledger.repairs.any (fun r => r.1 = key) = false
    (Obligations.digestOf s key = none → exec (.stateReread key) s = .next s) ∧
    (¬ due → exec (.stateReread key) s = .next s) ∧
    ∀ d, due → Obligations.digestOf s key = some d → s.healthy →
      ∃ t : State, exec (.stateReread key) s = .next t ∧ ChangesOnly (.ledger :: Obligations.readPieces) s t ∧ (∀ a, t.byte a = s.byte a) ∧
        t.ledger = { s.ledger with repairs := if crc64 (s.bytes d.base d.len) = d.digest then s.ledger.repairs else s.ledger.repairs ++ [(key, true)] }

/-- LX_DATA, LX_HEADER and LX_RESP (R254, R264, R266, R282, R285). A packet from neither the Yoke port nor a device that the join names is answered NOT_MEMBER; one that fails a check is
answered with its reason, and one that a fenced ledger engine cannot take FENCED; none of them changes anything else. Data for a context is stored, and its signal applied; data of a window that is fetched is stored, and the last of it commits the window,
REPLAYED, if it has the digest. The pieces of a run header are kept until it is whole. Answers to the ledger engine's packets act as those to the collective engine's.
Completion is stated here of .lxData, .lxHeader, .lxResp. -/
def Obligations.LedgerPackets : Prop :=
  (∀ (s u : State) (port : Nat) (p : Packet), Obligations.taken s u port p 0x80 →
    let x := Sub.ofBytes p.body
    let data := p.body.drop 32
    let free : Prop := u.domReason 0x1E = 0
    let plain : Prop := free ∧ u.ledgerFrom port p = true ∧ (x.stepped = true ∨ u.fetchTarget x.addr = none) ∧ u.fget F.HUB_JOIN_STS_ROLE ≠ 1
    let open' : Prop := u.healthy ∧ u.rangeFenced x.addr data.length = false ∧ u.guardedCtx x.rctx x.addr data.length = false
    let reason := firstReason [epochCheck p.epoch (u.getC x.rctx).epoch, u.runStepCheck p x true, u.remoteCtxCheck x.rctx x.stepped,
      if x.value ≠ 0 then u.remoteCtxCheck (ctrOwner x.rctr) x.stepped else 0, if u.rangeDetail (u.getC x.rctx) x.addr data.length = 0 then 0 else 7,
      if checkOk p x then 0 else 8]
    let ends (t : State) : Prop := exec (.lxData port p) s = .next t.earlyFailure.actOnHeld.resumeCkpt
    (¬ free → ends (u.respond p x.opid x.pseq 9)) ∧
    (free → u.ledgerFrom port p = false → ends (u.respond p x.opid x.pseq 0x0A)) ∧
    (plain → reason ≠ 0 → ends (u.respond p x.opid x.pseq reason)) ∧
    (plain → reason = 0 → open' → x.value = 0 → ∃ t : State, ends (t.respond p x.opid x.pseq 0) ∧ ChangesOnly Obligations.readPieces u t ∧
      ∀ a, t.byte a = afterWrites u.byte [(x.addr, data)] a) ∧
    (plain → reason = 0 → open' → x.value ≠ 0 → x.stepped = false → (p.src, x.opid, x.pseq) ∉ u.cx.signals →
      ∃ t : State, ends (t.respond p x.opid x.pseq 0) ∧ ChangesOnly ([.cx, .counters, .queues] ++ Obligations.readPieces) u t ∧
        (∀ a, t.byte a = afterWrites u.byte [(x.addr, data)] a) ∧ t.getCtr x.rctr = (u.getCtr x.rctr + x.value) % 2 ^ 64 ∧
        (∀ d, d ≠ x.rctr → t.getCtr d = u.getCtr d) ∧ (p.src, x.opid, x.pseq) ∈ t.cx.signals) ∧
    ∀ key base len digest, free → u.ledgerFrom port p = true → x.stepped = false → u.fetchTarget x.addr = some (key, base, len, digest) → checkOk p x = true →
      x.addr + data.length ≤ base + len → u.healthy →
      let after := (List.range len).map fun i => afterWrites u.byte [(x.addr, data)] (base + i)
      ∃ t : State, ChangesOnly ([.links, .out] ++ Obligations.readPieces) u t ∧ (∀ a, t.byte a = afterWrites u.byte [(x.addr, data)] a) ∧
        (x.addr + data.length < base + len → ends t) ∧
        (x.addr + data.length = base + len → crc64 after = digest → u.rcv.join.early = [] → ∀ w, (u.ledger.windows.find? fun w => w.key = key && w.fetching) = some w →
          ∃ v, ends v ∧ Obligations.committed t v w digest 1 ∧ ChangesOnly ([.ledger, .flights, .run] ++ Obligations.readPieces) t v) ∧
        (x.addr + data.length = base + len → crc64 after ≠ digest → ∃ v : State, ends (v.stepAbort 6 0xFF) ∧ ChangesOnly Obligations.readPieces t v ∧
          ∀ a, v.byte a = t.byte a)) ∧
  (∀ (s u : State) (port : Nat) (p : Packet), Obligations.taken s u port p 0x81 →
    let x := Sub.ofBytes p.body
    let data := p.body.drop 32
    let reason := firstReason [if port ≠ 6 then 0 else epochCheck p.epoch (u.rd R.CXE_EPOCH), if port ≠ 6 then 0 else u.runStepCheck p x true,
      if x.addr + data.length ≤ 12288 then 0 else 7, if checkOk p x then 0 else 8]
    let free : Prop := u.domReason 0x1E = 0
    let src := p.src * 2 ^ 32 + x.opid
    let parts := (src, x.addr, data) :: u.ledger.hdrIn.filter fun q => !(q.1 = src && q.2.1 = x.addr)
    (¬ free → exec (.lxHeader port p) s = .next (u.respond p x.opid x.pseq 9).earlyFailure) ∧
    (free → u.ledgerFrom port p = false → exec (.lxHeader port p) s = .next (u.respond p x.opid x.pseq 0x0A).earlyFailure) ∧
    (free → u.ledgerFrom port p = true → reason ≠ 0 → exec (.lxHeader port p) s = .next (u.respond p x.opid x.pseq reason).earlyFailure) ∧
    (free → u.ledgerFrom port p = true → reason = 0 → ((parts.filter fun q => q.1 = src).map fun q => q.2.2.length).sum < 12288 →
      ∃ t : State, exec (.lxHeader port p) s = .next t.earlyFailure ∧ ChangesOnly [.ledger] (u.respond p x.opid x.pseq 0) t ∧
        t.ledger = { u.ledger with hdrIn := parts }) ∧
    ∀ b0 b1 : List Byte, free → u.ledgerFrom port p = true → reason = 0 → u.fget F.HUB_JOIN_STS_ROLE = 0 → port = 6 → x.addr = 8192 → data.length = 4096 → b0.length = 4096 →
      b1.length = 4096 → (u.ledger.hdrIn.filter fun q => q.1 = src) = [(src, 4096, b1), (src, 0, b0)] →
      let h := RunHdr.ofBytes (b0 ++ b1 ++ data)
      let mirror := if u.run.hdr.step = h.step ∧ u.run.hdr.run = h.run then u.run.hdr.mirror else u.sideDigest 1
      ∃ t : State, exec (.lxHeader port p) s =
          .next (if u.mirrorOn = true ∧ h.step = u.currentStep ∧ h.run = u.pos.run ∧ h.own ≠ mirror then t.noteCause 4 else t).earlyFailure ∧
        ChangesOnly [.ledger] (u.respond p x.opid x.pseq 0) t ∧ h ∈ t.ledger.partner ∧ (∀ q ∈ t.ledger.hdrIn, q.1 ≠ src)) ∧
  ∀ (s u : State) (port : Nat) (p : Packet), Obligations.taken s u port p 0x83 →
    let n := leNat p.body
    let reason := bits n 63 56
    (u.domReason 0x1E ≠ 0 ∨ u.answered p.src (bits n 127 96) (bits n 95 64) = none → exec (.lxResp port p) s = .next u) ∧
    ∀ q, u.domReason 0x1E = 0 → u.answered p.src (bits n 127 96) (bits n 95 64) = some q →
      let counts : Prop := isLedgerType q.pkt.ptype = true ∧ (0x88 ≤ q.pkt.ptype ∨ u.ledgerFrom port p = true)
      (¬ counts → exec (.lxResp port p) s = .next u) ∧
      (counts →
        (reason = 0 → ∃ t : State, exec (.lxResp port p) s = .next (((t.settleOp q.opid).releaseSignals).handedOver) ∧ ChangesOnly [.cx] u t ∧
          t.cx = { u.cx with pend := acceptRun u.cx.pend q } ∧ (q.again = false → q ∉ t.cx.pend)) ∧
        (resendReason reason = true → (reason = 8 → q.checks < u.fget F.CXE_CFG_RESENDS) → ∃ t : State, exec (.lxResp port p) s = .next t.handedOver ∧
          ChangesOnly [.cx] u t ∧ { q with again := true, checks := q.checks + b2n (reason = 8) } ∈ t.cx.pend) ∧
        (reason = 0x0C → ∃ t : State, exec (.lxResp port p) s = .next t.handedOver ∧ ChangesOnly [.cx] u t ∧
          t.cx = { u.cx with pend := u.cx.pend.filter fun y => y ≠ q }) ∧
        (reason = 8 → u.fget F.CXE_CFG_RESENDS ≤ q.checks → ∃ t : State, exec (.lxResp port p) s = .next t.handedOver ∧ ChangesOnly [.cx, .flights] u t ∧
          ∀ f, u.flight? q.opid = some f → EndedWith u t f 0x24 0) ∧
        (reason ≠ 0 → reason ≠ 0x0C → resendReason reason = false → ∃ t : State, exec (.lxResp port p) s = .next t.handedOver ∧ ChangesOnly [.cx, .flights] u t ∧
          ∀ f, u.flight? q.opid = some f → EndedWith u t f (if reason = 1 ∨ reason = 3 then 0x20 else 0x22) reason))

/-! ### Spares and membership -/

/-- A spare's self-test and the requests of CAR_REMOUNT_CTL (R294 to R296): a spare that passes may be remounted, a core then being in state 1; one that fails may not, is recorded,
and is in state 6 if it is a core; a unit that is no spare is not concerned. A request is held, PEND set, in the place of an earlier one.
Completion is stated here of .spareSelfTest, .remountRetire, .remountReturn. -/
def Obligations.SparesAndRemounts : Prop :=
  (∀ (s : State) (carriage kind index : Nat),
    let u : UnitId := ⟨kind, if kind = 2 then 0xF else carriage, index⟩
    (s.isSpare u = false → ∀ pass, exec (.spareSelfTest carriage kind index pass) s = .next s) ∧
    (s.isSpare u = true → ∃ t, exec (.spareSelfTest carriage kind index true) s = .next t ∧ u ∈ t.spares.tested ∧ ChangesOnly [.spares, .regs] s t ∧
      RegsOnly (if kind = 0 then [carReg R.CAR_CORE_STS carriage] else []) s t ∧ (kind = 0 → t.coreState carriage index = 1)) ∧
    (s.isSpare u = true → ∃ t, exec (.spareSelfTest carriage kind index false) s = .next t ∧ u ∉ t.spares.tested ∧
      ChangesOnly [.spares, .regs, .icu, .history, .free] s t ∧ (kind = 0 → t.coreState carriage index = 6) ∧
      (u ∉ s.spares.now → s.history.length < 131072 → ∃ x ∈ t.history, x.kind = u.kind ∧ x.die = u.die ∧ x.index = u.index ∧ x.event = 6 ∧ x.cls = 3))) ∧
  ∀ (s : State) (a : Agent) (n kind index : Nat),
    let held (c : Instr) (action : Nat) : Prop := ∃ t, exec c s = .next t ∧ t.flag (F.CAR_REMOUNT_STS_PEND.car n) = true ∧ ChangesOnly [.spares, .regs] s t ∧
      RegsOnly [carReg R.CAR_REMOUNT_STS n] s t ∧ tget (fun _ => none) t.spares.requests n = some (action, kind % 2, index % 32) ∧
      (∀ m, m ≠ n → tget (fun _ => none) t.spares.requests m = tget (fun _ => none) s.spares.requests m) ∧ t.spares = { s.spares with requests := t.spares.requests }
    (n < 4 → held (.remountRetire a n kind index) 0 ∧ held (.remountReturn a n kind index) 1) ∧
    (4 ≤ n → exec (.remountRetire a n kind index) s = .next s ∧ exec (.remountReturn a n kind index) s = .next s)

/-- The recovery commands with their RCMD (R306), and whether R308 asks for a quorum. -/
def Obligations.recoveryRows : List ((GMsg → Instr) × Nat × Bool) :=
  [(.expel, 1, true), (.abortStep, 2, false), (.reissue, 3, false), (.joinLoad, 4, false), (.takeover, 5, true), (.joinCancel, 6, false), (.standby, 7, false)]

/-- The Ostler hears a request of a code: it runs, and one by the mailbox is the one that the mailbox holds. -/
def Obligations.heard (s : State) (m : GMsg) (code : Nat) : Prop := s.ostlerUp = true ∧ (m.path = 3 → s.mailboxHolds m code = true)

/-- It reads the request at once: no other one waits for a slot change. -/
def Obligations.read (s : State) (m : GMsg) (code : Nat) : Prop := Obligations.heard s m code ∧ s.mgmt.changes = []

/-- The state with the SEQ of an admitted sealed request taken (R393). -/
def Obligations.seqTaken (s : State) (m : GMsg) : State := if m.sealed then { s with mgmt := { s.mgmt with rxSeq := m.seq } } else s

/-- A RECOVERY request passes the checks of R390 to R395 that come before its order. -/
def Obligations.genuine (s : State) (m : GMsg) (rcmd : Nat) : Prop :=
  Obligations.read s m 0x10 ∧ s.admits m false true (m.plainLen = 17160) = 0 ∧ (∃ j, s.mgmt.job = some j ∧ m.signer < j.managers.length) ∧ m.proofOk = true ∧
    m.cmd 7 0 = rcmd ∧ m.rFieldsOk = true

/-- The order of recovery commands (R307, R308, R309, R388, R395): a request that is not heard is not answered; one that comes while a slot change waits is queued; one that does not pass is answered with its status or response, the first that applies of the registry, the signature, the
fields, an old epoch, a SEQ already applied, a gap, and the quorum's configuration. A new epoch ends a join as JOIN_CANCEL does, and held votes stay. Where votes are asked for, one short of
K is held and answered; those for a body that expires are answered and go. What acts stores its response, and RCV_SEQ takes its SEQ.
Completion is stated here of .voteExpired. -/
def Obligations.RecoveryOrder : Prop :=
  (∀ (s : State) (m : GMsg) (c : GMsg → Instr) (rcmd : Nat) (voted : Bool), (c, rcmd, voted) ∈ Obligations.recoveryRows →
    let st := s.admits m false true (m.plainLen = 17160)
    let u := Obligations.seqTaken s m
    let e := s.rd R.HUB_RCV_EPOCH
    let n := s.rd R.HUB_RCV_SEQ
    (¬ Obligations.heard s m 0x10 → exec (c m) s = .next s) ∧
    (Obligations.heard s m 0x10 → s.mgmt.changes ≠ [] → exec (c m) s = .next (s.queueRequest m 0x10 (0x10 + 256 * rcmd))) ∧
    (Obligations.read s m 0x10 → st ≠ 0 → exec (c m) s = .next (s.refuseMsg m 0x10 st)) ∧
    (∀ j, Obligations.read s m 0x10 → st = 0 → s.mgmt.job = some j →
      (j.managers.length ≤ m.signer → exec (c m) s = .next (u.answer m 7)) ∧
      (m.signer < j.managers.length → m.proofOk = false → exec (c m) s = .next (u.answer m 6)) ∧
      (m.signer < j.managers.length → m.proofOk = true → (m.cmd 7 0 ≠ rcmd ∨ m.rFieldsOk = false) → exec (c m) s = .next (u.answer m 0xA))) ∧
    (Obligations.genuine s m rcmd →
      (m.rEpoch < e → exec (c m) s = .next (u.answer m 2).settle) ∧
      (e < m.rEpoch → m.rSeq ≠ 1 → ∃ t : State, exec (c m) s = .next (t.answer m (if m.rSeq = 0 then 5 else 3)).settle ∧ t.rd R.HUB_RCV_EPOCH = m.rEpoch ∧
        t.rd R.HUB_RCV_SEQ = 0 ∧ (s.fget F.HUB_JOIN_STS_ROLE ≠ 0 → t.rd R.HUB_JOIN_STS = 0) ∧ ChangesOnly [.rcv, .regs] u t ∧
        RegsOnly [R.HUB_RCV_EPOCH, R.HUB_RCV_SEQ, R.HUB_JOIN_STS] u t ∧
        t.rcv = { s.rcv with answers := [], opened := false, join := if s.fget F.HUB_JOIN_STS_ROLE = 0 then s.rcv.join else Join.none }) ∧
      (m.rEpoch = e → m.rSeq ≤ n → ∃ r, exec (c m) s = .next (u.answer m r).settle ∧
        r = match s.rcv.answers.find? (fun a => a.1 = m.rSeq) with | none => 5 | some a => if a.2.1 = Config.sha256 (m.body.take 64) then a.2.2 else 4) ∧
      (m.rEpoch = e → n + 1 < m.rSeq → exec (c m) s = .next (u.answer m 3).settle) ∧
      (m.rEpoch = e → m.rSeq = n + 1 → voted = true → s.quorumOk = false → exec (c m) s = .next (u.answer m 0xB).settle) ∧
      (m.rEpoch = e → m.rSeq = n + 1 → voted = true → s.quorumOk = true → s.flag F.HUB_RCV_CFG_POLICY = true →
        let body := m.body.take 64
        let voters := ((s.rcv.votes.find? fun v => v.body = body).map fun v => v.voters).getD []
        let more := voters.filter (fun v => v.1 ≠ m.signer) ++ [(m.signer, m)]
        more.length < s.fget F.HUB_RCV_CFG_K → ∃ t : State, exec (c m) s = .next (t.answer m 1).settle ∧ ChangesOnly [.rcv, .regs] u t ∧ RegsOnly [R.HUB_RCV_STS] u t ∧
          t.rcv = { s.rcv with votes := t.rcv.votes } ∧ ⟨body, more⟩ ∈ t.rcv.votes ∧ (∀ v, v.body ≠ body → (v ∈ t.rcv.votes ↔ v ∈ s.rcv.votes))))) ∧
  (∀ (s : State) (m : GMsg) (r : Nat), (s.store m r).rd R.HUB_RCV_SEQ = m.rSeq ∧ ChangesOnly [.rcv, .regs] s (s.store m r) ∧ RegsOnly [R.HUB_RCV_SEQ] s (s.store m r) ∧
    (s.store m r).rcv.answers = ((m.rSeq, Config.sha256 (m.body.take 64), r) :: s.rcv.answers).take 16) ∧
  ∀ (s : State) (low high : Nat),
    let due (v : Vote) : Bool := leNat v.body = low + 2 ^ 256 * high
    ∃ t : State, exec (.voteExpired low high) s = .next (((s.rcv.votes.filter due).flatMap fun v => v.voters).foldl (fun t x => t.answer x.2 8) t) ∧
      t.rcv = { s.rcv with votes := s.rcv.votes.filter fun v => !due v } ∧ ChangesOnly [.rcv, .regs] s t ∧ RegsOnly [R.HUB_RCV_STS] s t

/-- A recovery command of the next SEQ of the epoch in force that needs no votes: it acts, its response is stored and it is answered (R307, R309). -/
def Obligations.acts (c : GMsg → Instr) (s : State) (m : GMsg) (rcmd : Nat) (resp : Nat) (u : State) : Prop :=
  Obligations.genuine s m rcmd → m.rEpoch = s.rd R.HUB_RCV_EPOCH → m.rSeq = s.rd R.HUB_RCV_SEQ + 1 →
    (rcmd = 1 ∨ rcmd = 5 → s.quorumOk = true ∧ s.flag F.HUB_RCV_CFG_POLICY = false) →
    exec (c m) s = .next ((u.store m resp).answer m resp).settle

/-- What each recovery command does (R287, R302 to R306, R310, R347, R350): EXPEL drops PT from now on, and with the yoke partner the yoke is lost; ABORT_STEP aborts the step in progress if it
is STEP; REISSUE issues the aborted step as its next run, unless R350 refuses it; JOIN_LOAD takes the role and its coordinates, unless the device has one; TAKEOVER is armed where R305 lets it;
JOIN_CANCEL ends the join; STANDBY stops the device at a boundary.
Completion is stated here of .expel, .abortStep, .reissue, .joinLoad, .takeover, .joinCancel, .standby. -/
def Obligations.RecoveryActions : Prop :=
  ∀ (s : State) (m : GMsg),
    let s0 := Obligations.seqTaken s m
    let pt := m.cmd 397 380
    let yoke : Prop := s.flag F.FAB_YOKE_EN = true ∧ s.fget F.FAB_YOKE_PARTNER = pt
    let role := m.cmd 343 342
    let none' : Prop := s.fget F.HUB_JOIN_STS_ROLE = 0
    (∃ u, Obligations.acts .expel s m 1 0 u ∧ pt ∈ u.rcv.expelled ∧ (∀ x, x ≠ pt → (x ∈ u.rcv.expelled ↔ x ∈ s.rcv.expelled)) ∧
      u.rcv = { s.rcv with expelled := u.rcv.expelled, opened := true } ∧ (s.rcv.opened = false → u.recov.recovering = true) ∧
      (¬ yoke → ChangesOnly [.rcv, .recov] s0 u) ∧ (yoke → u.ledger.yokeLost = true ∧ u.ledger.windows = [])) ∧
    (s.inProgress = true → s.abortable = some m.rStep → Obligations.acts .abortStep s m 2 0 (s0.stepAbort 8 0xFF).openRecovery) ∧
    (¬ (s.inProgress = true ∧ s.abortable = some m.rStep) → Obligations.acts .abortStep s m 2 0 s0.openRecovery) ∧
    (s.reissueRefused m.rStep = true → Obligations.acts .reissue s m 3 9 s0) ∧
    (s.reissueRefused m.rStep = false → s.issueHeld = true → ∃ u, Obligations.acts .reissue s m 3 0 u ∧ u.recov.reissued = some (m.rStep, s.pos.run) ∧
      u.recov.aborted = none ∧ ChangesOnly [.recov] s0 u) ∧
    (s.reissueRefused m.rStep = false → s.issueHeld = false → ∃ u : State, Obligations.acts .reissue s m 3 0 u.settle.meetFailure ∧
      u.recov.reissued = some (m.rStep, s.pos.run) ∧ Obligations.issuedAs s u m.rStep s.pos.run) ∧
    (¬ none' → Obligations.acts .joinLoad s m 4 9 s0.openRecovery) ∧ (none' → role = 0 → Obligations.acts .joinLoad s m 4 0 s0.openRecovery) ∧
    (none' → role ≠ 0 → ∃ u, Obligations.acts .joinLoad s m 4 0 u ∧ (u.fget F.HUB_JOIN_STS_ROLE = role ∨ (role = 3 ∧ u.fget F.HUB_JOIN_STS_ROLE = 0 ∧ u.rcv.join = Join.none)) ∧
      (role ≠ 3 ∨ pt ∉ s.rcv.expelled → u.rcv.join = { Join.none with pt := pt, pp := m.cmd 379 362, pj := m.cmd 361 344, shadow := !s.rcv.expelled.contains pt } ∧
        u.fget F.HUB_JOIN_STS_STATE = (if role = 2 then 2 else 1)) ∧
      (role = 2 ∨ pt ∉ s.rcv.expelled → ChangesOnly [.rcv, .recov, .regs] s0 u ∧ RegsOnly [R.HUB_JOIN_STS] s0 u) ∧
      (role = 1 ∨ role = 3 → pt ∈ s.rcv.expelled → u.flag F.FAB_YOKE_EN = true ∧
        u.fget F.FAB_YOKE_PARTNER = (if role = 1 then m.cmd 379 362 else m.cmd 361 344) ∧ u.ledger.yokeLost = false)) ∧
    (s.takeoverOk m.rStep = false → Obligations.acts .takeover s m 5 9 s0) ∧
    (s.takeoverOk m.rStep = true → Obligations.acts .takeover s m 5 0 { s0 with rcv := { s.rcv with join := { s.rcv.join with
      takeover := some m.rStep, lcoord := m.cmd 415 398, lepoch := m.cmd 447 416 } } }) ∧
    (∃ u, Obligations.acts .joinCancel s m 6 0 u ∧ u.rcv = { s.rcv with join := Join.none } ∧ u.rd R.HUB_JOIN_STS = 0 ∧ ChangesOnly [.rcv, .regs] s0 u ∧
      RegsOnly [R.HUB_JOIN_STS] s0 u) ∧
    (s.standsAtBoundary = false → Obligations.acts .standby s m 7 0 { s0 with rcv := { s.rcv with standby := true } }) ∧
    (s.standsAtBoundary = true → s.rcv.stopped = false → ∃ u, Obligations.acts .standby s m 7 0 u ∧ u.rcv = { s.rcv with standby := true, stopped := true } ∧
      u.fget F.HUB_STEP_STS_PHASE = 7 ∧ ChangesOnly [.rcv, .regs] s0 u ∧ RegsOnly [R.HUB_STEP_STS] s0 u)

/-! ### Checkpoints -/

/-- Every byte of memory can be read and written, whether or not a checkpoint has still to copy a page and a write waits for it. -/
def Obligations.sound (s : State) : Prop := ({ s with ckpt := { s.ckpt with uncopied := [], stalled := [] } } : State).healthy

/-- A range that the device itself may write: no fence covers it, and no page of it is still to be read by a checkpoint. -/
def Obligations.clear (s : State) (a n : Nat) : Prop := s.rangeFenced a n = false ∧ s.unread a n = []

/-- Taking a checkpoint (R313 to R315, R319, R321, R323, R331): LX_CKPT is refused where its step lies behind, or else while a generation is in use, held until the device stands at the
boundary after its step, and then takes the snapshot; a page, as it is or as the copy has read it ahead of a write, is coded, appended to the shard and counted, and a page with a lost block
fails the generation; the writes that waited for pages are performed once the copy has read them all, and a packet that brought one is then answered; DRAINED and DISCARD move STATE.
Completion is stated here of .lxCkpt, .ckptPageCopy, .stalledWritePerformed, .ckptDrained, .ckptDiscard. -/
def Obligations.CheckpointTakes : Prop :=
  (∀ (s : State) (f : Flight), Obligations.lxUnbegun s f 0x68 → s.ckpt.rid ≠ some f.rid → f.rid ∉ s.ckpt.held →
    let n := ckStep f.word
    let free : Prop := s.ckState = 0 ∨ s.ckState = 4
    let behind : Prop := ∃ l, s.pos.lastSealed = some l ∧ n < l
    let here : Prop := s.pos.lastSealed = some n ∧ s.standsAtBoundary = true ∧ s.layoutDue = false
    let refused (r : Nat) : Prop := ∃ t, exec (.lxCkpt f.rid) s = .next t ∧ EndedWith s t f r 0 ∧ t.fget F.LXE_CKPT_STS_RESP = r ∧
      t.ckpt = s.ckpt ∧ ChangesOnly [.flights, .regs] s t ∧ RegsOnly [R.LXE_CKPT_STS] s t
    (behind → refused 0x36) ∧
    (¬ behind → ¬ free → refused 0x39) ∧
    (¬ behind → free → ¬ here → ∃ t, exec (.lxCkpt f.rid) s = .next t ∧ t.ckpt = { s.ckpt with held := s.ckpt.held ++ [f.rid] } ∧
      ChangesOnly [.ckpt] s t) ∧
    (free → here → rangePages s.mpart.srcCur ≠ [] → ∃ t, exec (.lxCkpt f.rid) s = .next t ∧ ChangesOnly [.ckpt, .regs, .icu] s t ∧
      t.ckpt.rid = some f.rid ∧ t.ckpt.held = s.ckpt.held ∧ t.ckpt.uncopied = rangePages s.mpart.srcCur ∧ t.ckpt.digests = [] ∧ t.ckpt.len = mib ∧ t.ckState = 1 ∧
      t.ckpt.manifest = s.manifestOf (ckGen f.word) n (rangePages s.mpart.srcCur).length ∧
      t.rd R.LXE_CKPT_GEN = ckGen f.word ∧ t.rd64 R.LXE_CKPT_STEP = n ∧ t.rd R.LXE_CKPT_PROG = 0 ∧ t.rd R.LXE_CKPT_UNITS = 0)) ∧
  (∀ (s : State) (page : Nat),
    let taken := s.ckpt.taken.find? fun x => x.page = page
    let plain := (taken.map fun x => x.data).getD (s.bytes (page * mib) mib)
    let c := pageChunk (s.slotKey (s.fget F.LXE_CKPT_CFG_KEYSLOT)) (s.rd R.LXE_CKPT_GEN) s.lcoord page plain
    (s.copies page = false → exec (.ckptPageCopy page) s = .next s) ∧
    (s.copies page = true → s.rangeFenced (page * mib) mib = false → (∀ x, taken = some x → x.resp = 0) → Obligations.sound s →
      Obligations.clear s (s.unitAt 0 + s.ckpt.len) c.length → s.ckpt.len + c.length ≤ s.rd R.LXE_CKPT_SIZE * mib →
      ∃ t : State, exec (.ckptPageCopy page) s = .next ((State.fillUnits 4 t).endCopy.formCk.settleCk) ∧ ChangesOnly (.ckpt :: Obligations.readPieces) s t ∧
        t.ckpt = { s.ckpt with uncopied := s.ckpt.uncopied.filter (fun p => p ≠ page), taken := s.ckpt.taken.filter (fun x => x.page ≠ page),
                               len := s.ckpt.len + c.length, digests := s.ckpt.digests ++ [(page, crc64 plain)] } ∧
        t.rd R.LXE_CKPT_PROG = min (s.rd R.LXE_CKPT_PROG + 1) 0xFFFFFFFF ∧ ∀ a, t.byte a = afterWrites s.byte [(s.unitAt 0 + s.ckpt.len, c)] a) ∧
    (∀ b ∈ s.mpart.bad, s.copies page = true → b / 8192 = page → isStacked (page * mib) = true → taken = none → s.barred [(page * mib, mib)] = none →
      s.mpart.syms = [] → s.mpart.cache = [] → s.ckpt.red = none → ∃ t, exec (.ckptPageCopy page) s = .next t ∧ t.ckState = 5 ∧ t.ckpt.uncopied = [] ∧
      (∀ a, t.byte a = s.byte a) ∧ ∀ f, s.ckpt.rid = some f.rid → s.flight? f.rid = some f → f.resp = none → EndedWith s t f 0x15 0)) ∧
  (∀ (s : State) (page : Nat), Obligations.sound s →
    let due (w : Stall) : Bool := w.addr / mib ≤ page && page ≤ (w.addr + w.data.length - 1) / mib && (s.unread w.addr w.data.length).isEmpty
    let ws := s.ckpt.stalled.filter due
    let performed (t : State) : Prop := ChangesOnly (.ckpt :: Obligations.readPieces) s t ∧ t.ckpt = { s.ckpt with stalled := s.ckpt.stalled.filter fun w => !due w } ∧
      ∀ a, t.byte a = afterWrites s.byte (ws.map fun w => (w.addr, w.data)) a
    ((∀ w ∈ ws, w.pkt = none) → ∃ t, exec (.stalledWritePerformed page) s = .next t ∧ performed t) ∧
    ∀ w p, ws = [w] → w.pkt = some p → ∃ t : State, exec (.stalledWritePerformed page) s = .next (t.written p 0) ∧ performed t) ∧
  ∀ s : State,
    (s.ckState ≠ 3 → exec .ckptDrained s = .next s) ∧
    (s.ckState = 3 → ∃ t, exec .ckptDrained s = .next t ∧ t.ckState = 4 ∧ ChangesOnly [.regs, .icu] s t) ∧
    (s.ckState ∈ [1, 2, 6, 7] → exec .ckptDiscard s = .next s) ∧
    (s.ckState ∈ [0, 3, 4, 5] → ∃ t, exec .ckptDiscard s = .next t ∧ t.ckState = 0 ∧ ChangesOnly [.regs, .icu, .ckpt] s t ∧
      t.ckpt = { s.ckpt with rows := [], ends := [], digests := [], manifest := [], bad := false, formed := false, group := none })

/-- Memory after the pages of a shard have been written back (R329): each chunk is read, opened, and written to its page. -/
def Obligations.restored (key : List Byte) (coord : Nat) (mem : Nat → Byte) : List (Nat × Nat) → Nat → Byte
  | [] => mem
  | p :: ps =>
    match openPage key coord (Obligations.take mem p.2 (ChunkHdr.ofBytes (Obligations.take mem p.2 64)).len) with
    | some bs => Obligations.restored key coord (afterWrites mem [(p.1 * mib, bs)]) ps
    | none => Obligations.restored key coord mem ps

/-- The packets and commands of a stripe group (R320 to R322, R324, R329): a member's bytes of a row are XORed into its parity once, in their order; end markers and reduction records are kept; a
fetch is answered with this member's units, its parity rows and its end marker, or noted while the copy runs. A rebuild asks every other member. A restore alone in its group writes the pages of the shard that verifies, and
stands at its step; where none does it ends with RESTORE_NONE and writes nothing.
Completion is stated here of .ckptUnit, .ckptEnd, .ckptReduce, .ckptFetch, .lxCkptRebuild, .lxRestore. -/
def Obligations.CheckpointGroup : Prop :=
  (∀ (s u : State) (port : Nat) (p : Packet), Obligations.taken s u port p 0x88 →
    let x := Sub.ofBytes p.body
    let data := p.body.drop 32
    let row := x.addr / mib
    let off := x.addr % mib
    let answered (r : Nat) : Prop := exec (.ckptUnit port p) s = .next (u.respond p x.opid x.pseq r)
    let reason := firstReason [epochCheck p.epoch (u.rd R.CXE_EPOCH), if checkOk p x then 0 else 8]
    let free : Prop := u.domReason 0x1E = 0
    (¬ free → answered 9) ∧ (free → u.stripeFrom p.src = none → answered 0x0A) ∧
    ∀ m, free → u.stripeFrom p.src = some m →
      let again : Prop := u.ckState = 3 ∧ x.opid = ckOp (u.rd R.LXE_CKPT_GEN) ∧ off + data.length ≤ u.rowGot row m
      (reason ≠ 0 → answered reason) ∧ (reason = 0 → u.ckState = 5 ∨ again → answered 0) ∧ (reason = 0 → u.ckState ∈ [0, 3, 4, 6] → ¬ again → answered 5) ∧
      (reason = 0 → u.ckState ∈ [1, 2, 7] → u.rowTarget row = none → answered 7) ∧
      ∀ base, reason = 0 → u.ckState ∈ [1, 2, 7] → u.rowTarget row = some base →
        (off + data.length ≤ u.rowGot row m → answered 0) ∧ (u.rowGot row m < off + data.length → off ≠ u.rowGot row m → answered 5) ∧
        (u.rowGot row m < off + data.length → off = u.rowGot row m → u.rd R.LXE_CKPT_SIZE < u.unitsWith row + u.parityWith row →
          exec (.ckptUnit port p) s = .next ((u.respond p x.opid x.pseq 0).failGen 0x35).formCk.settleCk) ∧
        (u.rowGot row m < off + data.length → off = u.rowGot row m → u.unitsWith row + u.parityWith row ≤ u.rd R.LXE_CKPT_SIZE → Obligations.sound u →
          Obligations.clear u base mib → Obligations.clear u (base + off) data.length →
          let first : Bool := u.stripeOthers.all fun m => u.rowGot row m = 0
          let old (a : Nat) : Byte := if first = true ∧ base ≤ a ∧ a < base + mib then 0 else u.byte a
          ∃ t : State, exec (.ckptUnit port p) s = .next (((t.respond p x.opid x.pseq 0).formCk.settleCk).completeGen) ∧ ChangesOnly (.ckpt :: Obligations.readPieces) u t ∧
            t.ckpt = { u.ckpt with rows := t.ckpt.rows } ∧ t.rowGot row m = off + data.length ∧ (∀ r k, k < 32 → (r, k) ≠ (row, m) → t.rowGot r k = u.rowGot r k) ∧
            ∀ a, t.byte a = if base + off ≤ a ∧ a < base + off + data.length then old a ^^^ data.getD (a - (base + off)) 0 else old a)) ∧
  (∀ (s u : State) (port : Nat) (p : Packet),
    let same : Prop := u.domReason 0x1E = 0 ∧ epochCheck p.epoch (u.rd R.CXE_EPOCH) = 0
    let gen := leNat (p.body.take 4)
    let n := leNat ((p.body.drop 4).take 4)
    (Obligations.taken s u port p 0x8B →
      (u.stripeFrom p.src = none ∨ ¬ same → exec (.ckptEnd port p) s = .next u) ∧
      ∀ m, u.stripeFrom p.src = some m → same → ∃ t : State, exec (.ckptEnd port p) s = .next t.formCk.endRed.completeGen.rebuilt ∧ ChangesOnly [.ckpt] u t ∧
        t.ckpt = { u.ckpt with ends := (gen, m, n) :: u.ckpt.ends.filter fun e => !(e.1 = gen && e.2.1 = m) }) ∧
    (Obligations.taken s u port p 0x8A →
      (¬ same → exec (.ckptReduce port p) s = .next u) ∧
      (same → ∃ t : State, exec (.ckptReduce port p) s = .next (State.runCk 512 t).endRed ∧ ChangesOnly [.ckpt] u t ∧
        t.ckpt = { u.ckpt with inbox := if ckOfBytes p.body ∈ u.ckpt.inbox then u.ckpt.inbox else u.ckpt.inbox ++ [ckOfBytes p.body] })) ∧
    (Obligations.taken s u port p 0x8C →
      let ready : Prop := gen = u.rd R.LXE_CKPT_GEN ∧ (u.ckState = 2 ∨ u.ckState = 3)
      let later : Prop := gen = u.rd R.LXE_CKPT_GEN ∧ u.ckState = 1
      (u.stripeFrom p.src = none ∨ ¬ same ∨ (¬ ready ∧ ¬ later) → exec (.ckptFetch port p) s = .next u) ∧
      (∀ m, u.stripeFrom p.src = some m → same → later → ∃ t : State, exec (.ckptFetch port p) s = .next t ∧ ChangesOnly [.ckpt] u t ∧
        t.ckpt = { u.ckpt with asked := m :: u.ckpt.asked.filter fun k => k ≠ m }) ∧
      ∀ m, u.stripeFrom p.src = some m → same → ready → Obligations.sound u → (∀ a n, u.rangeFenced a n = false) → ∃ (t : State) (qs : List Pend),
        exec (.ckptFetch port p) s = .next t ∧ ChangesOnly ([.cx, .links, .out] ++ Obligations.readPieces) u t ∧
        t.cx = { u.cx with pend := u.cx.pend ++ qs } ∧ (∀ q ∈ qs, q.pkt.ptype = 0x88 ∧ q.pkt.dst = p.src) ∧
        let sent (row a : Nat) : Prop := ∀ i, i < 256 → ∃ q ∈ qs, (Sub.ofBytes q.pkt.body).addr = (row * mib + 4096 * i) % 2 ^ 48 ∧
          q.pkt.body.drop 32 = u.bytes (a + 4096 * i) 4096
        (∀ j, j < u.rd R.LXE_CKPT_UNITS → (j ≠ 0 ∨ u.ckpt.group ≠ none) → sent (unitRow u.stripeG u.stripeMe j) (u.unitAt j)) ∧
          ∀ r ∈ u.heldRows, sent r (u.parityAt r))) ∧
  (∀ (s : State) (f : Flight), Obligations.lxUnbegun s f 0x69 → s.ckpt.rid ≠ some f.rid →
    (¬(s.ckState = 0 ∨ s.ckState = 4) → ∃ t, exec (.lxCkptRebuild f.rid) s = .next t ∧ EndedWith s t f 0x39 0 ∧ ChangesOnly [.flights, .regs] s t) ∧
    (s.ckState = 0 ∨ s.ckState = 4 → ∃ t, exec (.lxCkptRebuild f.rid) s = .next t ∧ ChangesOnly [.ckpt, .regs, .icu, .links, .out] s t ∧
      t.ckpt.rid = some f.rid ∧ t.ckState = 7 ∧ t.rd R.LXE_CKPT_GEN = ckGen f.word ∧ t.rd64 R.LXE_CKPT_STEP = ckStep f.word ∧ t.ckpt.rows = [] ∧
      t.ckpt.ends = s.ckpt.ends.filter fun e => e.1 = ckGen f.word)) ∧
  ∀ (s : State) (f : Flight), Obligations.lxUnbegun s f 0x6A → s.ckpt.rid ≠ some f.rid →
    let may : Prop := s.standsAtBoundary = true ∧ (s.fget F.HUB_STEP_STS_PHASE = 0 ∨ s.fget F.HUB_STEP_STS_PHASE = 7) ∧ s.ckState ∈ [0, 3, 4, 5]
    let x := s.readShard (ckAreaA f.word) s.lcoord
    let y := s.readShard (ckAreaB f.word) s.lcoord
    let good (x : Shard) : Bool := !(s.slotOf x).bad && (s.slotOf x).gdMin = (s.slotOf x).hx
    let took (z : Shard) : Prop := ∃ t, exec (.lxRestore f.rid) s = .next t ∧ EndedWith s t f 0 0 ∧ t.ckState = s.ckState ∧
      ChangesOnly ([.flights, .ckpt, .contexts, .pos, .ledger, .watch, .run, .recov] ++ Obligations.readPieces) s t ∧ t.stepNum = z.step ∧ t.pos.lastSealed = some z.step ∧
      t.pos.run = 0 ∧ t.atBoundary = true ∧ t.ledger = { s.ledger with digests := [] } ∧ t.recov = { s.recov with aborted := none, reissued := none } ∧
      (∀ n, n < 64 → t.getC n = { s.getC n with srkey := leNat ((z.manifest.drop (128 + 8 * n)).take 8) }) ∧
      ∀ a, t.byte a = Obligations.restored (s.slotKey (s.fget F.LXE_CKPT_CFG_KEYSLOT)) s.lcoord s.byte z.pages a
    (¬ may → s.ckState ≤ 7 → ∃ t, exec (.lxRestore f.rid) s = .next t ∧ EndedWith s t f 0x39 0 ∧ ChangesOnly [.flights, .regs] s t) ∧
    (may → s.verdictParts = [] → s.ckpt.inbox = [] → s.healthy → (∀ r ∈ s.restoreAreas f.word, s.rangeDetail (s.getC f.ctx) r.1 r.2 = 0) →
      s.barred (s.restoreAreas f.word ++ s.sourceSpans) = none →
      (good x = true → (ckTwo f.word = false ∨ good y = false ∨ y.step ≤ x.step) → took x) ∧
      (ckTwo f.word = true → good y = true → (good x = false ∨ x.step < y.step) → took y) ∧
      (good x = false → (ckTwo f.word = false ∨ good y = false) → ∃ t d, exec (.lxRestore f.rid) s = .next t ∧ EndedWith s t f 0x38 d ∧
        d = (if (s.slotOf x).bad then 1 else 0) + (if ckTwo f.word && (s.slotOf y).bad then 2 else 0) ∧
        ChangesOnly ([.flights, .ckpt] ++ Obligations.readPieces) s t))

/-- Pre-emption (R325 to R328, R350): a notice, by the register or by an enabled pin, or a decision received from another device sets the step after which to stop, unless one as early is held; at
the boundary after it the device stops, in PHASE 7; RELEASE ends the stop, and the abort of a pre-emption.
Completion is stated here of .preNotice, .preemptN, .ckptStop, .release. -/
def Obligations.Preemption : Prop :=
  (∀ (s : State) (l : Nat),
    let stops (c : Instr) (pin : Nat) : Prop := ∃ t, exec c s = .next t ∧ t.pre.held = some l ∧ t.fget F.HUB_PRE_STS_STATE = 2 ∧ t.fget F.HUB_PRE_STS_PIN = pin ∧
      t.fget F.HUB_PRE_STS_REMOTE = 0 ∧ t.rd64 R.HUB_PRE_STEP = l % 2 ^ 64 ∧ t.fget F.HUB_STEP_STS_PHASE = 7 ∧ ChangesOnly [.pre, .regs, .icu] s t
    let idle : Prop := s.pos.lastSealed = some l ∧ s.standsAtBoundary = true ∧ s.atBoundary = true ∧ s.inProgress = false
    let alone : Prop := idle ∧ l ≠ 0 ∧ s.recov.cur = none ∧ s.pre.held = none ∧ s.verdictParts = [] ∧ (s.recov.aborted = none ∨ s.ckpt.held = [])
    (∀ a data, bit data 31 = false → exec (.preNotice a data) s = .next s) ∧ (s.flag F.HUB_PRE_CFG_PIN_EN = false → exec .preemptN s = .next s) ∧
    (alone → s.flag F.HUB_PRE_CFG_PIN_EN = true → stops .preemptN 1) ∧
    (idle → l = 0 → ∀ a data, bit data 31 = true → exec (.preNotice a data) s = .next (s.raise 0x088)) ∧ ∀ a data, bit data 31 = true → alone → stops (.preNotice a data) 0) ∧
  (∀ (s : State) (a : Agent) (data : Nat), bit data 31 = true → s.atBoundary = false →
    (s.run.passed = true → exec (.preNotice a data) s = .next ((s.raise 0x088).decideStop s.stepNum false false)) ∧
    (s.run.passed = false → ∃ t n, exec (.preNotice a data) s = .next (State.decideStop t n false false) ∧ ChangesOnly [.regs, .icu, .free] s t ∧
      (n = s.stepNum ∨ n = s.pos.lastSealed.getD 0))) ∧
  (∀ (s u : State) (port : Nat) (p : Packet), Obligations.taken s u port p 0x89 →
    let n := bits (leNat p.body) 127 64
    let idle : Prop := u.atBoundary = true ∨ u.inProgress = false
    let same := epochCheck p.epoch (u.rd R.CXE_EPOCH) = 0
    let known : Prop := ∃ h, u.pre.held = some h ∧ h ≤ n
    let stop := if u.inProgress = true ∧ u.sealing = false ∧ u.run.passed = true then max n u.stepNum else n
    (¬ same ∨ (n = 0 ∧ idle) ∨ known → exec (.ckptStop port p) s = .next u) ∧
    (same → ¬ (n = 0 ∧ idle) → ¬ known → ∃ t : State, exec (.ckptStop port p) s = .next t.actOnHeld.resumeCkpt ∧ ChangesOnly [.pre, .regs, .links, .out] u t ∧
      t.pre.held = some stop ∧ t.rd64 R.HUB_PRE_STEP = stop % 2 ^ 64 ∧ t.fget F.HUB_PRE_STS_STATE = 1 ∧ t.flag F.HUB_PRE_STS_REMOTE = true)) ∧
  ∀ s : State, ∃ t, exec .release s = .next t ∧ t.pre.held = none ∧ t.fget F.HUB_PRE_STS_STATE = 0 ∧ ChangesOnly [.pre, .regs, .recov] s t ∧
    RegsOnly [R.HUB_PRE_STS] s t ∧ t.recov = if s.fget F.HUB_ABORT_STS_REASON = 7 then { s.recov with aborted := none } else s.recov

/-! ### Hangs, aborts and resets -/

/-- No sequence runs or waits, and the domain can be fenced (R335, R336, R345); a fence that resets it meets no stepped work there (R343). -/
def Obligations.quiet (s : State) (d : Nat) (hold : Bool) : Prop :=
  d ∈ allDomains ∧ s.domOos d = false ∧ (∀ c, c ∈ [1, 2, 3, 4] → domainContains c d = true → s.domOos c = false) ∧ s.recov.cur = none ∧ s.recov.waiting = [] ∧
    (hold = true ∨ s.holdsStepped d = false)

/-- The sequence of a domain has begun (R336, R340): it is fenced, and HUB_RST_STS shows it. -/
def Obligations.begun (s u : State) (d : Nat) (hold : Bool) (reason : Nat) : Prop :=
  u.recov.cur = some ⟨d, hold, reason, 1⟩ ∧ u.fenced d = true ∧ u.fget F.HUB_RST_STS_SEQ = 1 ∧ u.fget F.HUB_RST_STS_DOMAIN = d ∧
    u.fget F.HUB_RST_STS_REASON = reason % 256 ∧ ChangesOnly [.regs, .icu, .recov] s u

/-- A step has been aborted (R347, R350): the device stands at the boundary before it, in PHASE 7, with no stepped record in flight and no window open, and shows what the abort was. -/
def Obligations.abortedAt (s t : State) (p reason domain : Nat) (isLocal : Bool) : Prop :=
  t.recov.aborted = some p ∧ t.pos.issued = false ∧ t.fget F.HUB_STEP_STS_PHASE = 7 ∧ (s.inProgress = true → s.sealing = false → t.stepNum = p - 1) ∧ t.atBoundary = true ∧
    t.ledger.windows = [] ∧ t.ledger.repairs = [] ∧ (∀ f ∈ t.que.flights, (t.getC f.ctx).stepped = false) ∧ t.rd64 R.HUB_ABORT_STEP = p % 2 ^ 64 ∧
    t.flag F.HUB_ABORT_STS_LOCAL = isLocal ∧ t.fget F.HUB_ABORT_STS_REASON = reason % 256 ∧ t.fget F.HUB_ABORT_STS_DOMAIN = domain % 256 ∧
    ∀ q ∈ [Piece.pairs, .lanes, .slots, .fabKey, .map, .rcv, .power, .pending], q.same s t

/-- Aborts (R257, R303, R327, R347 to R350): a cause on this device aborts the step that is in progress or comes next, unless one is aborted already; an ABORT flit, for that step and of a run not
older than its reissue, aborts it too, goes on over the other active ports once, and an LX_CKPT held for the boundary that this reaches is applied (R313); any other flit only brings its link header. ABORT_CTL's REISSUE issues the aborted step again unless
R350 refuses it.
Completion is stated here of .abort, .abortCtlReissue. -/
def Obligations.Aborts : Prop :=
  (∀ (s : State) (reason domain : Nat),
    (s.abortable = none ∨ s.fget F.HUB_STEP_STS_PHASE = 7 → s.stepAbort reason domain = s) ∧
    ∀ p, s.abortable = some p → s.fget F.HUB_STEP_STS_PHASE ≠ 7 → (s.atBoundary = true ∨ s.sealing = false) →
      Obligations.abortedAt s (s.stepAbort reason domain) p reason domain true) ∧
  (∀ (s : State) (port : Nat) (h : FlitHdr) (step reason run domain origin : Nat), port < 7 → s.linkUp port = true → Obligations.goodHeader s port h →
    let c := Instr.abort port h step reason run domain origin
    ∃ t : State, Obligations.headed s t port h ∧ ChangesOnly [.links, .out] s t ∧ (t.getLink port).rxExp = ((s.getLink port).rxExp + 1) % 1024 ∧
      let v := t.serveLink port
      let mine : Prop := v.abortable = some step ∧ v.reissueRun step ≤ run
      (¬ mine → exec c s = .next v) ∧
      (mine → (step, v.reissueRun step) ∈ v.recov.forwarded → v.fget F.HUB_STEP_STS_PHASE = 7 → exec c s = .next v) ∧
      (mine → (step, v.reissueRun step) ∉ v.recov.forwarded → v.fget F.HUB_STEP_STS_PHASE = 7 → ∃ w, exec c s = .next w ∧ ChangesOnly [.recov, .links, .out] v w ∧
        w.recov = { v.recov with forwarded := (step, v.reissueRun step) :: v.recov.forwarded }) ∧
      (mine → v.fget F.HUB_STEP_STS_PHASE ≠ 7 → (v.atBoundary = true ∨ v.sealing = false) →
        ∃ w : State, exec c s = .next w.resumeCkpt ∧ Obligations.abortedAt v w step reason domain false ∧ w.rd R.HUB_ABORT_ORIGIN = origin % 2 ^ 18)) ∧
  ∀ s : State,
    let p := s.rd64 R.HUB_ABORT_STEP
    (s.reissueRefused p = true → exec .abortCtlReissue s = .next s) ∧
    (s.reissueRefused p = false → s.issueHeld = true → exec .abortCtlReissue s =
      .next { s with recov := { s.recov with reissued := some (p, s.pos.run), aborted := none } }) ∧
    (s.reissueRefused p = false → s.issueHeld = false → ∃ t : State, exec .abortCtlReissue s = .next t.settle.meetFailure ∧ Obligations.issuedAs s t p s.pos.run ∧
      t.recov.reissued = some (p, s.pos.run))

/-- HUB_WD_INFO after an expiry (R339). -/
def Obligations.captured (s t : State) (kind queue counter : Nat) : Prop :=
  t.rd R.HUB_WD_INFO = kind * 2 ^ 30 + queue % 2 ^ 14 * 2 ^ 16 + counter % 2 ^ 14 ∧ ChangesOnly [.regs, .icu] s t

/-- Watchdogs (R221, R275, R337 to R339, R346 to R348): each expiry is captured. An engine without progress is fenced and reset, unless all its records wait on peers: then those of unstepped contexts
end with RESPONSE_TIMEOUT; a verdict that waits is not counted (R275). A wait for a counter stops an unstepped queue and aborts a stepped one's step; so does the wait for a verdict. An operation without its answer ends; a port that
trains in no normal service goes out of service; an engine that does not discard after an abort is reset. An expiry that names nothing that waits does nothing.
Completion is stated here of .engineProgressExpire, .syncWaitExpire, .fabricResponseExpire, .peerTimeout, .discardTimeout. -/
def Obligations.Watchdogs : Prop :=
  (∀ (s : State) (e : Nat),
    let fs := (s.engineFlights e).filter fun f => !(e = 14 && recOpcode f.word = 0x62 && f.resp.isNone)
    let waits : Prop := (e = 12 ∨ e = 14) ∧ fs ≠ [] ∧ ∀ f ∈ fs, s.waitsOnPeer f = true
    (16 ≤ e ∨ s.fenced (0x10 + e) = true → exec (.engineProgressExpire e) s = .next s ∧ exec (.discardTimeout e) s = .next s) ∧
    (s.recov.aborted = none → exec (.discardTimeout e) s = .next s) ∧
    (e < 16 → s.fenced (0x10 + e) = false → s.recov.aborted ≠ none → Obligations.quiet s (0x10 + e) false →
      ∃ u : State, exec (.discardTimeout e) s = .next u.settle ∧ Obligations.begun s u (0x10 + e) false 1 ∧ u.recov.hangSet = s.hangSetOf e) ∧
    (e < 16 → s.fenced (0x10 + e) = false → fs = [] → s.eligibleQueues e = [] → exec (.engineProgressExpire e) s = .next s.settle) ∧
    (e < 16 → s.fenced (0x10 + e) = false → ¬ (fs = [] ∧ s.eligibleQueues e = []) → s.recov.search = none → ¬ waits → Obligations.quiet s (0x10 + e) false →
      ∃ t u : State, exec (.engineProgressExpire e) s = .next u.settle ∧ Obligations.captured s t 0 (s.engineQueue e) 0 ∧ Obligations.begun t u (0x10 + e) false 1) ∧
    (e < 16 → s.fenced (0x10 + e) = false → s.recov.search = none → waits → (∀ f ∈ fs, (s.getC f.ctx).stepped = false ∧ s.ckpt.rid ≠ some f.rid) →
      (∀ f ∈ fs, s.flight? f.rid = some f) →
      ∃ u : State, exec (.engineProgressExpire e) s = .next u.settle ∧ u.rd R.HUB_WD_INFO = s.engineQueue e % 2 ^ 14 * 2 ^ 16 ∧ ChangesOnly [.regs, .icu, .cx, .flights] s u ∧
        ∀ f ∈ fs, u.flight? f.rid = some { f with resp := some (0x23, 0) })) ∧
  (∀ (s : State) (q : Nat),
    (∀ c, s.unmetWait q = some c → ∃ t : State, Obligations.captured s t 1 q c ∧
      ((s.ctxOf q).stepped = true → exec (.syncWaitExpire q) s = .next (t.stepAbort 3 0xFF).settle) ∧
      ((s.ctxOf q).stepped = false → ∃ u : State, exec (.syncWaitExpire q) s = .next u.settle ∧ u.getQ q = { s.getQ q with mode := .stop } ∧
        (∀ p, p ≠ q → u.getQ p = s.getQ p) ∧ ChangesOnly [.queues] t u)) ∧
    (s.unmetWait q = none → s.verdictWaits q = true → ∃ t : State, Obligations.captured s t 1 q 0 ∧ exec (.syncWaitExpire q) s = .next (t.stepAbort 3 0xFF).settle) ∧
    (s.unmetWait q = none → s.verdictWaits q = false → exec (.syncWaitExpire q) s = .next s.settle)) ∧
  (∀ (s : State) (opid : Nat),
    let window := s.ledger.windows.find? fun w => w.rid = opid && w.digested && !w.fetching
    let some' : Prop := s.cx.pend.any (fun p => p.opid = opid) = true
    (window = none → ¬ some' → exec (.fabricResponseExpire opid) s = .next s.settle) ∧
    (∀ f, window = none → some' → s.flight? opid = some f → f.resp = none → ∃ u : State, exec (.fabricResponseExpire opid) s = .next u.settle ∧ EndedWith s u f 0x23 0 ∧
      ChangesOnly [.regs, .icu, .cx, .flights] s u ∧ u.rd R.HUB_WD_INFO = 2 ^ 31 + f.queue % 2 ^ 14 * 2 ^ 16) ∧
    ∀ w f, window = some w → s.flight? opid = some f → f.resp = none → s.healthy → ∃ u : State, exec (.fabricResponseExpire opid) s = .next u.settle ∧ EndedWith s u f 0x33 0 ∧
      (∀ a, u.byte a = afterWrites s.byte [(w.base, w.pre)] a) ∧ (∀ x ∈ u.ledger.windows, x.rid ≠ opid) ∧ u.rd R.HUB_WD_INFO = 2 ^ 31 + f.queue % 2 ^ 14 * 2 ^ 16) ∧
  ∀ (s : State) (port : Nat),
    let joining : Prop := port = 6 ∧ s.rcv.join.takeover ≠ none ∧ s.portState 6 ≠ 2
    let training : Prop := s.portState port = 1 ∧ s.mode ≠ 1
    (7 ≤ port → exec (.peerTimeout port) s = .next s) ∧ (port < 7 → ¬ joining → ¬ training → exec (.peerTimeout port) s = .next s.settle) ∧
    (port < 6 → training → ∃ u : State, exec (.peerTimeout port) s = .next u.settle ∧ u.portState port = 5 ∧
      u.fget (F.FAB_PORT_STS_CAUSE.page port) = s.fget (F.FAB_PORT_STS_CAUSE.page port) ∧ u.rd R.HUB_WD_INFO = 3 * 2 ^ 30 ∧ (u.getLink port).waiting = [] ∧
      ChangesOnly [.regs, .icu, .links, .out] s u) ∧
    (joining → ¬ training → s.fget F.HUB_JOIN_STS_ROLE = 1 → ∃ u : State, exec (.peerTimeout port) s = .next u.settle ∧ u.fget F.HUB_JOIN_STS_STATE = 4 ∧
      Obligations.captured s u 3 0 0)

/-- The device after its reset (R25, R343, R344): as after reset but for what flash keeps, the counts of resets, what sensors show, and what is outside. -/
def Obligations.deviceAfterReset (s t : State) : Prop :=
  (∀ q ∈ [Piece.pairs, .mem, .queues, .contexts, .flights, .choice, .counters, .pos, .ledger, .run, .links, .lanes, .host, .slots, .fabKey, .map, .watch, .cx, .ckpt, .pre, .rcv, .test,
    .measure], q.same State.reset t) ∧ (∀ q ∈ [Piece.history, .out, .free, .pending], q.same s t) ∧
    (∀ k, flashReg k = true → t.rd k = s.rd k) ∧ (∀ k, k < 0x80000 → flashReg k = false → t.rd k = State.reset.rd k) ∧
    t.mpart = { State.reset.mpart with remap := s.mpart.remap.map fun (r : Remap) => { r with poison := 0 }, retired := s.mpart.retired, deadRows := s.mpart.deadRows,
                                       era := s.mpart.era + 1 } ∧ t.spares = { State.reset.spares with standin := s.spares.standin } ∧ t.recov.cur = none ∧ t.mgmt.job = none ∧ t.log.length = s.log.length + 1

/-- The stages of a sequence (R336, R340 to R345, R352): the fence is complete; the dump is stored, or abandoned, or skipped where the dump engine is out of service; a held domain stays fenced, a
domain at its limit goes out of service, another loses what R343 says and serves again. A device reset keeps its summary, waits for ACK or HOLD_MS where it is to be copied, and resets
the device. A command that does not meet its stage does nothing.
Completion is stated here of .fenceDrainExpire, .collectComplete, .dumpReadTimeout, .collectAbandon, .domainResetComplete, .dumpAck, .dumpHoldExpire. -/
def Obligations.ResetSequences : Prop :=
  (∀ (s : State) (d : Nat),
    (s.sequences.find? (fun q => q.domain = d && q.stage = 1) = none → exec (.fenceDrainExpire d) s = .next s.settle) ∧
    ∀ q, s.recov.cur = some q → q.domain = d → q.stage = 1 → s.que.flights = [] → ∃ u : State, exec (.fenceDrainExpire d) s = .next u.settle ∧
      u.recov.cur = some { q with stage := 2 } ∧ u.fget F.HUB_RST_STS_SEQ = 2 ∧ u.fget F.DMP_STS_STATE = 1 ∧ ChangesOnly [.regs, .icu, .recov] s u) ∧
  (∀ (s : State) (w : Nat), (∀ q, s.recov.cur = some q → q.stage ≠ 2) ∨ windowPages w = 0 ∨ w ∈ s.recov.marked → exec (.dumpReadTimeout w) s = .next s) ∧
  (∀ (s : State) (w : Nat) (q : Seqn), s.recov.cur = some q → q.stage = 2 → windowPages w ≠ 0 → w ∉ s.recov.marked →
    exec (.dumpReadTimeout w) s = .next { s with recov := { s.recov with marked := s.recov.marked ++ [w] } }) ∧
  (∀ (s : State) (tick recent dumps : Nat), (∀ q, s.recov.cur = some q → q.stage ≠ 2 ∨ s.recov.devReset ≠ none) →
    exec (.collectComplete tick recent) s = .next s ∧ exec (.collectAbandon recent dumps) s = .next s) ∧
  (∀ (s : State) (q : Seqn) (tick recent dumps : Nat), s.recov.cur = some q → q.stage = 2 → s.recov.devReset = none → s.recov.waiting = [] → s.recov.search = none →
    let after (c : Instr) (v : State) : Prop :=
      (q.hold = true → ∃ u : State, exec c s = .next u.sequenceEnded.settle ∧ q.domain ∈ u.recov.held ∧ u.recov.cur = none ∧ u.fget F.HUB_RST_STS_SEQ = 5 ∧
        ChangesOnly [.regs, .icu, .recov] v u) ∧
      (q.hold = false → q.domain = 0 → s.fget F.DMP_CFG_HOLD_MS ≠ 0 → s.flag F.DMP_CFG_OUT_EN = true → ∃ u, exec c s = .next u ∧ u.recov.devReset = some q.reason ∧
        u.fget F.DMP_STS_STATE = 3 ∧ ChangesOnly [.regs, .recov, .mgmt, .free] v u) ∧
      (q.hold = false → q.domain = 0 → (s.fget F.DMP_CFG_HOLD_MS = 0 ∨ s.flag F.DMP_CFG_OUT_EN = false) → ∃ u, exec c s = .next u ∧
        Obligations.deviceAfterReset { v with free := u.free } u) ∧
      (q.hold = false → q.domain ∈ allDomains → q.domain ≠ 0 → s.atLimit recent = true → ∃ u : State, exec c s = .next u.sequenceEnded.settle ∧ u.domOos q.domain = true ∧
        u.recov.cur = none ∧ u.fget F.HUB_RST_STS_SEQ = 6 ∧ (q.domain = 0x26 → u.ledger.yokeLost = true ∧ u.ledger.windows = []) ∧
        (q.domain < 0x20 ∨ 0x26 < q.domain → ChangesOnly [.regs, .icu, .recov] v u)) ∧
      (q.hold = false → q.domain ≠ 0 → s.atLimit recent = false → ∃ u, exec c s = .next u ∧ u.recov.cur = some { q with stage := 3 } ∧ u.fget F.HUB_RST_STS_SEQ = 3 ∧
        (∀ n, n < 4 → q.domain = n + 1 → u.fget (coreField n) = 1) ∧
        tget (fun _ => 0) u.recov.total q.domain = tget (fun _ => 0) v.recov.total q.domain + 1 ∧ ChangesOnly [.regs, .icu, .recov, .mpart] v u)
    (∃ v, after (.collectComplete tick recent) v ∧
      (s.domOos 0x44 = true → ChangesOnly [.regs] s v ∧ v.fget F.DMP_STS_STATE = 0) ∧
      (s.domOos 0x44 = false → s.flag F.DMP_CFG_OUT_EN = false → ChangesOnly [.regs, .recov, .free] s v) ∧
      (s.domOos 0x44 = false → ChangesOnly ([.recov, .ckpt, .test] ++ Obligations.readPieces) s v ∧ v.recov.dumps.length = min 4 (s.recov.dumps.length + 1) ∧
        v.rd R.DMP_SEQ = (s.rd R.DMP_SEQ + 1) % 2 ^ 32 ∧ v.fget F.DMP_STS_STATE = 0)) ∧
    ∃ v, after (.collectAbandon recent dumps) v ∧ ChangesOnly ([.recov, .pairs] ++ Obligations.readPieces) s v ∧ v.fget F.DMP_STS_MARKED = 0xFFFF ∧ v.fget F.DMP_STS_STATE = 0) ∧
  (∀ s : State, (∀ q, s.recov.cur = some q → q.stage ≠ 3) → exec .domainResetComplete s = .next s) ∧
  (∀ (s : State) (q : Seqn), s.recov.cur = some q → q.stage = 3 → s.recov.waiting = [] → s.recov.search = none →
    ∃ u : State, exec .domainResetComplete s = .next (u.searchAfter q).sequenceEnded.settle ∧ u.recov.cur = none ∧
      u.fget F.HUB_RST_STS_SEQ = 0 ∧
      (∀ n, n < 4 → q.domain = n + 1 → s.que.flights = [] → ∀ a, a < 2 ^ 48 → u.byte (2 ^ 48 * (n + 1) + a) = 0) ∧
      (∀ e, e < 16 → domainContains q.domain (0x10 + e) = true → (∀ f ∈ u.que.flights, queueEngine f.queue ≠ e) ∧
        ∀ n, queueEngine n = e → (u.getQ n).en = false ∧ (u.getQ n).mode = .reset ∧ (u.getQ n).head = 0 ∧ (u.getQ n).tail = 0) ∧
      (domainContains q.domain 0x41 = true → (∀ c, u.getCtr c = 0) ∧ u.que.flights = []) ∧
      (∀ p, p < 7 → q.domain = 0x20 + p → u.portState p = (if s.flag (F.FAB_PORT_CTL_EN.page p) = true then 1 else 0) ∧ (u.getLink p).unacked = [] ∧ (u.getLink p).newKey = true)) ∧
  ∀ s : State,
    (s.recov.devReset = none → exec .dumpAck s = .next s ∧ exec .dumpHoldExpire s = .next s) ∧
    ∀ r, s.recov.devReset = some r → ∃ t, exec .dumpAck s = .next t ∧ exec .dumpHoldExpire s = .next t ∧ Obligations.deviceAfterReset s t ∧
      tget (fun _ => 0) t.recov.total 0 = tget (fun _ => 0) s.recov.total 0 + 1

/-- Requests and control processors (R17, R335, R336, R344, R351, R446, R448, R449): host software requests neither the host attachment nor the dump engine; a request begins the domain's sequence, a
device reset aborts the step first, and what a running sequence holds already absorbs it. RELEASE lets a held domain serve again. EN of an engine's block holds its engine, shown in BLK_STS;
EVT_SET sets event bits 4 to 0. A control processor that stops is recorded; a carriage controller's carriage is reset, the Ostler serves no more, and for any other one the device is
reset.
Completion is stated here of .processorFault, .rstFenceCollectReset, .rstFenceHold, .rstRelease, .blkResetReq, .blkFenceReq, .blkEngineEn, .blkEvtSet. -/
def Obligations.ResetsAndFaults : Prop :=
  ((∀ (s : State) (a : Agent) (d : Nat),
    (mayRequest a d = false → ∀ c ∈ [Instr.rstFenceCollectReset a d, .rstFenceHold a d, .rstRelease a d], exec c s = .next s.settle) ∧
    (mayRequest a d = true → d ≠ 0 → Obligations.quiet s d false → ∃ u : State, exec (.rstFenceCollectReset a d) s = .next u.settle ∧ Obligations.begun s u d false 0x0A) ∧
    (Obligations.quiet (s.stepAbort 0x0B 0) 0 false → ∃ u : State, exec (.rstFenceCollectReset a 0) s = .next u.settle ∧
      Obligations.begun (s.stepAbort 0x0B 0) u 0 false 0x0B) ∧
    (mayRequest a d = true → Obligations.quiet s d true → ∃ u : State, exec (.rstFenceHold a d) s = .next u.settle ∧ Obligations.begun s u d true 0x0A) ∧
    (d ≠ 0 → s.sequences.any (fun q => domainContains q.domain d) = true → exec (.rstFenceCollectReset a d) s = .next s.settle ∧ exec (.rstFenceHold a d) s = .next s.settle) ∧
    (d ∉ s.recov.held → exec (.rstRelease a d) s = .next s.settle) ∧
    (mayRequest a d = true → d ∈ s.recov.held → ∃ u : State, exec (.rstRelease a d) s = .next u.settle ∧ u.recov = { s.recov with held := s.recov.held.filter fun x => x ≠ d } ∧
      ChangesOnly [.regs, .icu, .recov, .links, .out] s u ∧ (s.recov.cur = none → u.fget F.HUB_RST_STS_SEQ = 0) ∧
      (0x20 ≤ d → d ≤ 0x26 → u.portState (d - 0x20) =
        (if s.portState (d - 0x20) ≠ 4 then s.portState (d - 0x20) else if s.flag (F.FAB_PORT_CTL_EN.page (d - 0x20)) = true then 1 else 0)))) ∧
  (∀ (s : State) (a : Agent) (off d : Nat), ctlDomains off = [d] →
    exec (.blkResetReq a off) s = exec (.rstFenceCollectReset a d) s ∧ (offWindow off ≠ 0 → exec (.blkFenceReq a off) s = exec (.rstFenceHold a d) s)) ∧
  (∀ (s : State) (a : Agent) (off : Nat), (ctlDomains off = [] → exec (.blkResetReq a off) s = .next s.settle ∧ exec (.blkFenceReq a off) s = .next s.settle) ∧
    (offWindow off = 0 → exec (.blkFenceReq a off) s = .next s.settle)) ∧
  ∀ (s : State) (off data : Nat),
    let w := offWindow off
    let named : Prop := offPage off < windowPages w
    let now := s.rd (w * 65536 + R.BLK_STS) / 2 ^ 29
    (isEngineWindow w = false ∨ ¬ named → exec (.blkEngineEn off data) s = .next s.settle) ∧
    (isEngineWindow w = true → named → ∃ u : State, exec (.blkEngineEn off data) s = .next u.settle ∧ ChangesOnly [.regs, .icu] s u ∧
      u.rd (w * 65536 + R.BLK_CTL) = (if bit data 31 then 2 ^ 31 else 0) ∧
      u.rd (w * 65536 + R.BLK_STS) / 2 ^ 29 = (if now = 0 ∨ now = 6 then (if bit data 31 then 0 else 6) else now)) ∧
    (0x300 ≤ w ∨ ¬ named → exec (.blkEvtSet off data) s = .next s) ∧
    (w < 0x300 → named → ∃ t, exec (.blkEvtSet off data) s = .next t ∧ ChangesOnly [.regs, .icu] s t ∧
      t.rd (w * 65536 + R.BLK_EVT_RAW) = s.rd (w * 65536 + R.BLK_EVT_RAW) ||| (data % 32))) ∧
  ∀ (s : State) (proc cls : Nat),
    let noted (t : State) : Prop := t.fget (coreField proc) = 3 ∧ t.log = ⟨4, s.stepNum, proc * 256 + cls % 256⟩ :: s.log
    (8 ≤ proc → exec (.processorFault proc cls) s = .next s) ∧
    (proc = 7 → ∃ u : State, exec (.processorFault proc cls) s = .next u.settle ∧ noted u ∧ u.ostlerStopped = true ∧ u.power = { s.power with fault := true } ∧
      ChangesOnly [.regs, .icu, .log, .history, .spares, .free, .power] s u) ∧
    (proc < 4 → Obligations.quiet s (1 + proc) false → ∃ t u : State, exec (.processorFault proc cls) s = .next u.settle ∧ noted t ∧
      ChangesOnly [.regs, .icu, .log, .history, .spares, .free] s t ∧ Obligations.begun t u (1 + proc) false 9) ∧
    (4 ≤ proc → proc < 7 → ∃ v u : State, exec (.processorFault proc cls) s = .next u.settle ∧ Obligations.deviceAfterReset v u ∧
      v.mgmt.flash.dumps.length = min 2 (s.mgmt.flash.dumps.length + 1))

/-! ### Interrupts -/

/-- Timers, deliveries, ends of interrupt and masks (R354 to R363): a running timer makes its group ready; of the ready groups that may deliver the one of highest priority, and of lowest number
among equals, delivers: its vector enters the target's stack and its count and timer clear. The write of the top vector pops it, of another freezes the stack, which is shown; a frozen one
only counts. CLEAR empties the stack, POPTOP pops it. A mask word is replaced, and a pending source that it unmasks counts once. Host software reaches target 0 and plane H alone.
Completion is stated here of .groupTimerExpire, .interruptDelivery, .endOfInterrupt, .stackClear, .stackPoptop, .icuMaskWrite. -/
def Obligations.Interrupts : Prop :=
  (∀ (s : State) (g : Nat),
    let x := s.getGrp g
    (¬ (x.en = true ∧ x.timing = true) → exec (.groupTimerExpire g) s = .next s) ∧
    (x.en = true → x.timing = true → ∃ t, exec (.groupTimerExpire g) s = .next t ∧ t.getGrp g = { x with timing := false, ready := true } ∧
      (∀ h, h ≠ g → t.getGrp h = s.getGrp h) ∧ t.icu = { s.icu with groups := t.icu.groups } ∧ ChangesOnly [.icu] s t)) ∧
  (∀ (s : State) (target : Nat),
    (s.nextGroup target = none → exec (.interruptDelivery target) s = .next s) ∧
    ∀ g, s.nextGroup target = some g → s.groupTarget g = target ∧ s.mayDeliver g = true ∧
      (∀ h v, (h, v) ∈ s.icu.groups → s.groupTarget h = target → s.mayDeliver h = true → s.groupPrio h ≤ s.groupPrio g) ∧
      ∃ t, exec (.interruptDelivery target) s = .next t ∧ ChangesOnly [.icu, .regs, .links, .out] s t ∧
        t.getTarget target = { s.getTarget target with stack := (s.getTarget target).stack ++ [g] } ∧ (∀ n, n ≠ target → t.getTarget n = s.getTarget n) ∧
        t.getGrp g = { s.getGrp g with count := 0, timing := false, ready := false } ∧ (∀ h, h ≠ g → t.getGrp h = s.getGrp h) ∧
        ((s.getGrp g).autoMask = false → ChangesOnly [.icu, .links, .out] s t) ∧ (target ≠ 0 → t.out = .coreEntry target g :: s.out)) ∧
  (∀ (s : State) (a : Agent) (n v : Nat),
    let x := s.getTarget n
    let others (t : State) : Prop := ∀ m, m ≠ n → t.getTarget m = s.getTarget m
    (targetAllowed a n = false → exec (.endOfInterrupt a n v) s = .next s ∧ exec (.stackClear a n) s = .next s ∧ exec (.stackPoptop a n) s = .next s) ∧
    (targetAllowed a n = true →
      (x.frozen = true → ∃ t, exec (.endOfInterrupt a n v) s = .next t ∧ t.getTarget n = { x with faults := min (x.faults + 1) 255 } ∧ others t ∧ ChangesOnly [.icu] s t) ∧
      (x.frozen = false → x.stack.getLast? = some (v % 256) → ∃ t, exec (.endOfInterrupt a n v) s = .next t ∧ t.getTarget n = { x with stack := x.stack.dropLast } ∧
        others t ∧ ChangesOnly [.icu] s t) ∧
      (x.frozen = false → x.stack.getLast? ≠ some (v % 256) → ∃ t, exec (.endOfInterrupt a n v) s = .next t ∧
        t.getTarget n = { x with frozen := true, faultVec := v % 256 } ∧ others t ∧ ChangesOnly [.icu, .regs, .links, .out] s t ∧
        bit (t.rd (rawReg 0 5)) (8 + n) = true) ∧
      (∃ t, exec (.stackClear a n) s = .next t ∧ t.getTarget n = { x with stack := [], frozen := false, faults := 0 } ∧ others t ∧ ChangesOnly [.icu, .regs] s t ∧
        bit (t.rd (rawReg 0 5)) (8 + n) = false) ∧
      ∃ t, exec (.stackPoptop a n) s = .next t ∧ t.getTarget n = { x with stack := x.stack.dropLast } ∧ others t ∧ ChangesOnly [.icu] s t)) ∧
  ∀ (s : State) (a : Agent) (plane i data : Nat),
    let rises (k : Nat) : Prop := bit (s.rd (maskReg plane i)) k = true ∧ bit data k = false ∧ bit (s.rd (pendReg plane i)) k = true
    (planeAllowed a plane = false ∨ 64 ≤ i → exec (.icuMaskWrite a plane i data) s = .next s) ∧
    (planeAllowed a plane = true → i < 64 → ∃ t, exec (.icuMaskWrite a plane i data) s = .next t ∧ t.rd (maskReg plane i) = data % 2 ^ 32 ∧
      ChangesOnly [.regs, .icu] s t ∧ RegsOnly [maskReg plane i] s t ∧ ((∀ k, k < 32 → ¬ rises k) → t.icu = s.icu) ∧
      ∀ k g, k < 32 → rises k → (∀ j, j < 32 → j ≠ k → ¬ rises j) → s.srcGroup plane (32 * i + k) = some g → t.icu = (s.countEvent g).icu)

/-! ### The host attachment -/

/-- A record of the host transport whose copying has not begun. -/
def Obligations.htUnbegun (s : State) (f : Flight) (op : Nat) : Prop :=
  s.runs f ∧ queueEngine f.queue = 15 ∧ recOpcode f.word = op ∧ s.host.copies.all (fun c => c.rid ≠ f.rid) = true

/-- HT_TO_DEV, HT_TO_HOST and HT_RING (R185, R375, R376): a copy of a retired page ends ADDRESS_ERROR, one of a fenced range FENCED; otherwise it is asked for, or sent, in pieces of up to 4,096 bytes, each with a request that waits for its
answer. HT_RING rings the doorbell of a queue whose context shares its GROUP; one that is refused is counted, and the record ends with DOORBELL_REFUSED.
Completion is stated here of .htToDev, .htToHost, .htRing. -/
def Obligations.HostRecords : Prop :=
  (∀ (s : State) (f : Flight) (out : Bool), Obligations.htUnbegun s f (if out then 0x71 else 0x70) →
    let c := if out then Instr.htToHost f.rid else .htToDev f.rid
    let len := htLen f.word
    (s.rangeRetired (htDev f.word) len = true → ∃ t, exec c s = .next t ∧ EndedWith s t f 0x11 5 ∧ ChangesOnly [.flights] s t) ∧
    (s.rangeRetired (htDev f.word) len = false → s.rangeFenced (htDev f.word) len = true → ∃ t, exec c s = .next t ∧ EndedWith s t f 0x19 0 ∧ ChangesOnly [.flights] s t) ∧
    (s.rangeFenced (htDev f.word) len = false → s.healthy → (out = true ∨ s.readsOut + ceilDiv len 4096 ≤ 256) →
      ∃ (t : State) (qs : List HostReq), exec c s = .next t ∧ ChangesOnly ([.host, .links, .out] ++ Obligations.readPieces) s t ∧
        t.host.copies = s.host.copies ++ [⟨f.rid, len, false⟩] ∧ t.host.reqs = s.host.reqs ++ qs ∧ qs.length = ceilDiv len 4096 ∧
        ∀ i q, qs[i]? = some q → q.ctx = f.ctx ∧ q.addr = htHost f.word + 4096 * i ∧ q.len = min 4096 (len - 4096 * i) ∧
          q.kind = if out then .copyOut f.rid else .copyIn f.rid (htDev f.word + 4096 * i))) ∧
  ∀ (s : State) (f : Flight), Obligations.htUnbegun s f 0x72 →
    let q := bits (htBell f.word) 29 16
    let tail := bits (htBell f.word) 15 0
    let c := (s.getQ q).ctx
    let ok : Prop := (s.getC c).group = (s.getC f.ctx).group ∧ s.innerBellOk f.ctx c q tail = true
    (ok → ∃ t : State, exec (.htRing f.rid) s = .next t.settle ∧ EndedWith s t f 0 0 ∧ t.getQ q = { s.getQ q with tail := tail } ∧
      (∀ n, n ≠ q → t.getQ n = s.getQ n) ∧ ChangesOnly [.flights, .queues] s t) ∧
    (¬ ok → ∃ t : State, exec (.htRing f.rid) s = .next t.settle ∧ EndedWith s t f 0x3D 0 ∧
      t.getC c = { s.getC c with dbRej := min ((s.getC c).dbRej + 1) 0xFFFF } ∧ (∀ n, n ≠ c → t.getC n = s.getC n) ∧ ChangesOnly [.flights, .contexts] s t)

/-- The request that a TAG names (R372), if the message answers its kind. -/
def Obligations.asked (s : State) (tag : Nat) (answers : ReqKind → Bool) (r : HostReq) : Prop :=
  (s.host.reqs.find? fun r => r.tag = tag && answers r.kind) = some r

def Obligations.isRead (k : ReqKind) : Bool := match k with | .ring _ => true | .copyIn _ _ => true | _ => false
def Obligations.isWrite (k : ReqKind) : Bool := match k with | .copyOut _ => true | .compl _ => true | _ => false

/-- The last request of its record: everything has been asked for, and nothing else waits. -/
def Obligations.lastOf (s : State) (r : HostReq) (c : Copy) (f : Flight) : Prop :=
  s.flight? c.rid = some f ∧ f.resp = none ∧ s.host.copies.find? (fun x => x.rid = c.rid) = some c ∧ htLen f.word ≤ c.next ∧
    ∀ q ∈ s.host.reqs, q.tag ≠ r.tag → match q.kind with | .copyIn x _ => x ≠ c.rid | .copyOut x => x ≠ c.rid | _ => True

/-- Messages of the host (R98, R340, R369, R376 to R378, R381 to R383): an answer to an engine that a fence has stopped is discarded; one that answers nothing is a violation; the data of a copy is stored, and of a ring is kept for its queue; with the last
answer the record ends. A refusal or a missing answer ends the record with HOST_ERROR or HOST_TIMEOUT. A pre-emption notice acts as HUB_PRE_NOTICE and is answered. The link becomes active with the
modules that trained, keeping what a retrain held, or goes down without one.
Completion is stated here of .dmaRdData, .dmaWrAck, .hostTimeout, .hostPre, .hostLinkTrain. -/
def Obligations.HostMessages : Prop :=
  (∀ (s u : State) (m : HostMsg), s.hostArrive m 0x12 = (u, true) → u.answerLost m.tag = false →
    ((∀ r ∈ u.host.reqs, ¬ (r.tag = m.tag ∧ Obligations.isRead r.kind = true)) → exec (.dmaRdData m) s = .next (u.hostViolate 8 m.tag).settle) ∧
    ∀ r, Obligations.asked u m.tag Obligations.isRead r →
      let last := tget (fun _ => (none : Option Nat)) u.host.rxCtr r.ctx
      let good : Prop := m.status = 0 ∧ m.len = r.len ∧ last.any (m.mctr ≤ ·) = false ∧ m.tagOk = true
      (m.status ≠ 0 → exec (.dmaRdData m) s = .next (u.failReq r 0x3A m.status).settle) ∧
      (m.status = 0 → m.len ≠ r.len → exec (.dmaRdData m) s = .next ((u.hostViolate 9 m.tag).failReq r 0x3A 0).settle) ∧
      (m.status = 0 → m.len = r.len → last.any (m.mctr ≤ ·) = true → exec (.dmaRdData m) s = .next (u.hostViolate 0x0A m.tag).settle) ∧
      (m.status = 0 → m.len = r.len → last.any (m.mctr ≤ ·) = false → m.tagOk = false →
        exec (.dmaRdData m) s = .next (((u.count R.UCI_AUTH_CNT).hostViolate 0x0B m.tag).failReq r 0x3C 0).settle) ∧
      (∀ c f a, good → r.kind = .copyIn c.rid a → Obligations.lastOf u r c f → u.healthy → u.writesFreely f →
        ∃ t : State, exec (.dmaRdData m) s = .next t.askAll.settle ∧ EndedWith u t f (if c.unc then 0x15 else 0) 0 ∧
          (∀ x, t.byte x = afterWrites u.byte [(a, m.body)] x) ∧ t.host.reqs = u.host.reqs.filter (fun q => q.tag ≠ m.tag) ∧
          ChangesOnly ([.host, .flights] ++ Obligations.readPieces) u t) ∧
      ∀ q, good → r.kind = .ring q → (u.getQ q).fetching = true → ∃ t : State, exec (.dmaRdData m) s = .next t.askAll.settle ∧ ChangesOnly [.host, .queues] u t ∧
        (t.getQ q).got = (u.getQ q).got + 1 ∧ (t.getQ q).fetching = false ∧ (∀ n, n ≠ q → t.getQ n = u.getQ n) ∧
        ∀ a, tget memDefault (t.getQ q).host a = if r.addr ≤ a ∧ a < r.addr + m.body.length then m.body.getD (a - r.addr) 0 else tget memDefault (u.getQ q).host a) ∧
  (∀ (s u : State) (m : HostMsg), s.hostArrive m 0x13 = (u, true) → u.answerLost m.tag = false →
    ((∀ r ∈ u.host.reqs, ¬ (r.tag = m.tag ∧ Obligations.isWrite r.kind = true)) → exec (.dmaWrAck m) s = .next (u.hostViolate 8 m.tag).settle) ∧
    ∀ r, Obligations.asked u m.tag Obligations.isWrite r →
      (m.status ≠ 0 → exec (.dmaWrAck m) s = .next (u.failReq r 0x3A m.status).settle) ∧
      (∀ c f, m.status = 0 → r.kind = .copyOut c.rid → Obligations.lastOf u r c f → ∃ t : State, exec (.dmaWrAck m) s = .next t.settle ∧
        EndedWith u t f (if c.unc then 0x15 else 0) 0 ∧ t.host.reqs = u.host.reqs.filter (fun q => q.tag ≠ m.tag) ∧ ChangesOnly [.host, .flights] u t) ∧
      ∀ c x, m.status = 0 → r.kind = .compl c → (u.getC c).crWait = [x] → ∃ t : State, exec (.dmaWrAck m) s = .next t.settle ∧
        (t.getC c).crTail = ((u.getC c).crTail + 1) % 2 ^ (u.getC c).crSize ∧ (t.getC c).crWait = [] ∧ (∀ n, n ≠ c → t.getC n = u.getC n)) ∧
  (∀ (s : State) (tag : Nat),
    let found := s.host.reqs.find? fun r => r.tag = tag
    (found = none ∨ s.answerLost tag = true → exec (.hostTimeout tag) s = .next s) ∧
    ∀ r, found = some r → s.answerLost tag = false → exec (.hostTimeout tag) s = .next (s.failReq r 0x3B 0).settle) ∧
  (∀ (s : State) (r : HostReq) (f : Flight) (resp detail : Nat), s.flight? f.rid = some f → f.resp = none → s.host.copies.any (fun c => c.rid = f.rid) = true →
    (r.kind = .copyOut f.rid ∨ ∃ a, r.kind = .copyIn f.rid a) → EndedWith s (s.failReq r resp detail) f resp detail ∧ ChangesOnly [.host, .flights] s (s.failReq r resp detail)) ∧
  (∀ (s u : State) (m : HostMsg), s.hostArrive m 0x30 = (u, true) →
    let v := u.notice (bits m.data 15 0) false
    exec (.hostPre m) s = .next (v.sendHost (mkHost 0x31 2 0 (v.rd R.HUB_PRE_STS) m.tag 0))) ∧
  (∀ (s u : State) (m : HostMsg),
    (s.hostArrive m 0x12 = (u, false) → exec (.dmaRdData m) s = .next u) ∧ (s.hostArrive m 0x13 = (u, false) → exec (.dmaWrAck m) s = .next u) ∧
    (s.hostArrive m 0x12 = (u, true) → u.answerLost m.tag = true → exec (.dmaRdData m) s = .next u) ∧
    (s.hostArrive m 0x13 = (u, true) → u.answerLost m.tag = true → exec (.dmaWrAck m) s = .next u) ∧
    (s.hostArrive m 0x30 = (u, false) → exec (.hostPre m) s = .next u)) ∧
  ∀ (s : State) (modules : Nat),
    let link := s.fget F.UCI_STS_LINK
    (link = 1 ∨ link = 3 → exec (.hostLinkTrain modules) s = .next s) ∧
    (link = 0 ∨ link = 2 → modules % 16 = 0 → ∃ t : State, exec (.hostLinkTrain modules) s = .next t.settle ∧ t.fget F.UCI_STS_LINK = 3 ∧ t.fget F.UCI_STS_MODULES = 0 ∧
      t.host.copies = [] ∧ (s.host.reqs = [] → t.getLink 7 = Link.reset)) ∧
    (link = 0 → modules % 16 ≠ 0 → ∃ t : State, exec (.hostLinkTrain modules) s = .next (t.drainLink 7) ∧ t.fget F.UCI_STS_LINK = 1 ∧ t.fget F.UCI_STS_MODULES = modules % 16 ∧
      ChangesOnly [.regs, .links] s t ∧ RegsOnly [R.UCI_STS] s t ∧ (t.getLink 7).unacked = [] ∧ (t.getLink 7).rxExp = 0 ∧
      ∀ b ∈ [0, 2, 4], tget (fun _ => 0) (t.getLink 7).credits b = bufSize 7 b) ∧
    (link = 2 → modules % 16 ≠ 0 → ∃ t : State, exec (.hostLinkTrain modules) s = .next (t.drainLink 7) ∧ t.fget F.UCI_STS_LINK = 1 ∧ t.fget F.UCI_STS_MODULES = modules % 16 ∧
      ChangesOnly [.regs, .out] s t ∧ RegsOnly [R.UCI_STS] s t)

/-! ### Management and security -/

/-- A Grielle request is read, and its header and protection pass (R390 to R393). -/
def Obligations.admitted (s : State) (m : GMsg) (code : Nat) (sealed signed lenOk : Bool) : Prop := Obligations.read s m code ∧ s.admits m sealed signed lenOk = 0

/-- The requests with their codes, their protection, and whether their length fits (R391). FW_COMMIT needs no seal over the I3C path without a job (R396). -/
def Obligations.requestRows (s : State) (m : GMsg) : List (Instr × Nat × Bool × Bool) :=
  let n := m.plainLen
  [(.discover m, 0x01, false, n = 0), (.getCert m, 0x02, false, n = 4), (.attest m, 0x03, false, n = 32), (.jobOpen m, 0x04, false, n = 1400),
   (.jobClose m, 0x05, true, n = 0), (.keyLoad m, 0x06, true, n = 48), (.keyDerive m, 0x07, true, n = 8), (.keyErase m, 0x08, true, n = 8),
   (.read m, 0x12, false, n = 8), (.fwBegin m, 0x20, false, n = 0),
   (.fwWrite m, 0x21, false, n = m.body.length && 4104 ≤ n && n ≤ 16392 && (n - 8) % 4096 = 0), (.fwActivate m, 0x22, false, n = 0),
   (.fwCommit m, 0x23, !(s.mgmt.job.isNone && m.path = 0), n = 0), (.holdRelease m, 0x24, false, n = 0), (.debugChal m, 0x25, false, n = 0),
   (.debugUnlock m, 0x26, false, n = 7904 && m.body.length = 7904), (.forward m, 0x30, false, 29 ≤ n && n = m.body.length)]

/-- A key slot is changed at once and the request answered, or, while a record uses the slot, the change waits (R401). -/
def Obligations.slotChange (c : Instr) (s : State) (m : GMsg) (code n : Nat) (v : Option Slot) : Prop :=
  (s.slotUsed n = true → exec c s = .next { Obligations.seqTaken s m with mgmt := { (Obligations.seqTaken s m).mgmt with changes := s.mgmt.changes ++ [⟨n, v, code, m⟩] } }) ∧
  (s.slotUsed n = false → ∃ t : State, exec c s = .next (t.reply m code 0 []) ∧ tget (fun _ => none) t.slots n = v ∧
    (∀ k, k ≠ n → tget (fun _ => none) t.slots k = tget (fun _ => none) s.slots k) ∧ ChangesOnly [.slots, .host] (Obligations.seqTaken s m) t ∧
    (∀ k, v = some k → k.purpose = 1 → tget (fun _ => (none : Option Nat)) t.host.rxCtr k.owner = none ∧ tget (fun _ => 0) t.host.txCtr k.owner = 0) ∧
    ((∀ k, v = some k → k.purpose ≠ 1) → t.host = s.host))

/-- Jobs and key slots (R399 to R402): JOB_OPEN takes the job's identity, secret and managers, derives its fabric key, extends MR4 and rekeys the ports; JOB_CLOSE, at a boundary, ends all of it.
KEY_LOAD, KEY_DERIVE and KEY_ERASE change a slot that no record uses, and wait otherwise: the change is made once no record uses it, or answered BUSY after its time, and the requests that have waited for it are then taken (R388).
Completion is stated here of .jobOpen, .jobClose, .keyLoad, .keyDerive, .keyErase, .keySlotChangeApply, .keySlotWaitTimeout. -/
def Obligations.JobsAndKeys : Prop :=
  (∀ (s : State) (m : GMsg), Obligations.admitted s m 0x04 false false (m.plainLen = 1400) →
    let s0 := Obligations.seqTaken s m
    let at' (o n : Nat) : List Byte := (m.body.drop o).take n
    let st := if s.mgmt.job ≠ none then 7 else if s.mgmt.unlocked ≠ none then 0xC else if s.mgmt.kem = none ∨ m.proofOk = false then 5 else if payloadOk m = false then 3 else 0
    (st ≠ 0 → exec (.jobOpen m) s = .next (s0.refuseMsg m 0x04 st)) ∧
    (st = 0 → ∃ t : State, exec (.jobOpen m) s = .next (t.reply m 0x04 0 []) ∧ ChangesOnly [.fabKey, .mgmt, .measure, .links, .out, .regs, .log] s0 t ∧
      (∃ j, t.mgmt.job = some j ∧ j.id = at' 0 32 ∧ j.js = at' 32 32 ∧ j.managers.length = m.num 64 1 ∧ j.path = m.path ∧
        (∀ i, i < m.num 64 1 → j.managers[i]? = some (at' (72 + 32 * i) 32)) ∧ t.fabKey = some (Config.hkdf j.js j.id (ascii "cuaris-fabric"))) ∧
      t.mgmt.kem = none ∧ t.mgmt.rxSeq = 0 ∧ t.mgmt.txSeq = 1 ∧ t.getMr 4 = Config.sha256 (s.getMr 4 ++ Config.sha256 (at' 0 32 ++ at' 72 224)) ∧
      (∀ i, i ≠ 4 → t.getMr i = s.getMr i) ∧
      (∀ p, p < 7 → (1 ≤ s.portState p ∧ s.portState p ≤ 3 → t.portState p = 1 ∧ (t.getLink p).newKey = true) ∧
        (¬ (1 ≤ s.portState p ∧ s.portState p ≤ 3) → t.portState p = s.portState p)))) ∧
  (∀ (s : State) (m : GMsg), Obligations.admitted s m 0x05 true false (m.plainLen = 0) →
    let s0 := Obligations.seqTaken s m
    (s.mayClose = false → exec (.jobClose m) s = .next (s0.refuseMsg m 0x05 8)) ∧
    (s.mayClose = true → ∃ t, exec (.jobClose m) s = .next t ∧
      ChangesOnly [.slots, .fabKey, .mgmt, .measure, .links, .out, .regs, .log] (s0.reply m 0x05 0 []) t ∧
      t.slots = [] ∧ t.fabKey = none ∧ t.mgmt.job = none ∧ t.getMr 4 = mrReset 4 ∧ ∀ i, i ≠ 4 → t.getMr i = s.getMr i)) ∧
  (∀ (s : State) (m : GMsg), Obligations.admitted s m 0x06 true false (m.plainLen = 48) →
    let ok : Prop := slotFieldsOk m = true ∧ m.num 3 5 = 0
    (¬ ok → exec (.keyLoad m) s = .next ((Obligations.seqTaken s m).refuseMsg m 0x06 3)) ∧
    (ok → m.proofOk = false → ∃ (t : State) (r : Nat), exec (.keyLoad m) s = .next (t.refuseMsg m 0x06 r) ∧ 1 ≤ r ∧ ChangesOnly [.free] (Obligations.seqTaken s m) t) ∧
    (ok → m.proofOk = true → Obligations.slotChange (.keyLoad m) s m 0x06 (m.num 0 1) (some ⟨m.num 1 1, m.num 2 1, padTo 32 (m.body.drop 8)⟩))) ∧
  (∀ (s : State) (m : GMsg) (j : Job), Obligations.admitted s m 0x07 true false (m.plainLen = 8) → s.mgmt.job = some j →
    let ok : Prop := slotFieldsOk m = true ∧ m.num 1 1 ≠ 2 ∧ m.num 3 1 = 0
    let info := if m.num 1 1 = 1 then ascii "cuaris-ctx" ++ leBytes 1 (m.num 2 1) ++ leBytes 4 (m.num 4 4) else ascii "cuaris-ckpt" ++ leBytes 4 (m.num 4 4)
    (¬ ok → exec (.keyDerive m) s = .next ((Obligations.seqTaken s m).refuseMsg m 0x07 3)) ∧
    (ok → Obligations.slotChange (.keyDerive m) s m 0x07 (m.num 0 1) (some ⟨m.num 1 1, m.num 2 1, padTo 32 (Config.hkdf j.js j.id info)⟩))) ∧
  (∀ (s : State) (m : GMsg), Obligations.admitted s m 0x08 true false (m.plainLen = 8) →
    (m.num 0 1 = 0 ∨ m.num 1 7 ≠ 0 → exec (.keyErase m) s = .next ((Obligations.seqTaken s m).refuseMsg m 0x08 3)) ∧
    (m.num 0 1 ≠ 0 → m.num 1 7 = 0 → Obligations.slotChange (.keyErase m) s m 0x08 (m.num 0 1) none)) ∧
  ∀ (s : State) (n : Nat),
    let found := s.mgmt.changes.find? fun c => c.slot = n
    (found = none → exec (.keySlotChangeApply n) s = .next s ∧ exec (.keySlotWaitTimeout n) s = .next s) ∧
    ∀ c, found = some c →
      let off : State := { s with mgmt := { s.mgmt with changes := s.mgmt.changes.filter fun x => x ≠ c } }
      exec (.keySlotWaitTimeout n) s = .next (off.refuseMsg c.msg c.code 8).serveRequests ∧ (s.slotUsed n = true → exec (.keySlotChangeApply n) s = .next s) ∧
      (s.slotUsed n = false → ∃ t : State, exec (.keySlotChangeApply n) s = .next (t.reply c.msg c.code 0 []).serveRequests ∧ ChangesOnly [.slots, .host] off t ∧
        tget (fun _ => none) t.slots n = c.put ∧ ∀ k, k ≠ n → tget (fun _ => none) t.slots k = tget (fun _ => none) s.slots k)

/-- Requests (R296, R345, R385, R387 to R398, R405 to R408, R441): one that is not heard does nothing, one that comes while a slot change waits is queued, one that does not pass is answered with the
first status that applies. What answers a request, and what it
changes: objects are read from an offset on; a firmware session erases and programs the bank that does not run, makes it pending, and commits the SVN; debug opens with a token for the live
challenge; a message is forwarded once, and its answer or none passes back. A hold is released.
Completion is stated here of .discover, .getCert, .attest, .read, .fwBegin, .fwWrite, .fwActivate, .fwCommit, .fwSessionTimeout, .holdRelease,
.debugChal, .debugUnlock, .challengeExpire, .forward, .forwardResponse, .forwardTimeout. -/
def Obligations.Requests : Prop :=
  (∀ (s : State) (m : GMsg), ∀ row ∈ Obligations.requestRows s m,
    (¬ Obligations.heard s m row.2.1 → exec row.1 s = .next s) ∧
    (Obligations.heard s m row.2.1 → s.mgmt.changes ≠ [] → exec row.1 s = .next (s.queueRequest m row.2.1 row.2.1)) ∧
    (Obligations.read s m row.2.1 → s.admits m row.2.2.1 false row.2.2.2 ≠ 0 → exec row.1 s = .next (s.refuseMsg m row.2.1 (s.admits m row.2.2.1 false row.2.2.2)))) ∧
  (∀ (s : State) (m : GMsg),
    let s0 := Obligations.seqTaken s m
    let f := s.mgmt.flash
    let ob := 1 - f.run % 2
    let piece (c : Instr) (code off : Nat) (bs : List Byte) : Prop :=
      (bs.length < off → exec c s = .next (s0.refuseMsg m code 3)) ∧ (off ≤ bs.length → exec c s = .next (s0.reply m code 0 (leBytes 4 bs.length ++ (bs.drop off).take 16384)))
    let mine : Prop := s.mgmt.session = some m.path
    let other : Prop := ∃ p, s.mgmt.session = some p ∧ p ≠ m.path
    (Obligations.admitted s m 0x01 false false (m.plainLen = 0) → exec (.discover m) s = .next (s0.reply m 0x01 0 (serialBytes ++ leBytes 4 (windowCap0 0) ++ leBytes 1 0xB0 ++
      leBytes 1 f.svn ++ leBytes 1 f.fuses ++ leBytes 4 s0.ostSts ++ List.replicate 13 0))) ∧
    (Obligations.admitted s m 0x02 false false (m.plainLen = 4) → piece (.getCert m) 0x02 (m.num 0 4) Config.certChain) ∧
    (Obligations.admitted s m 0x03 false false (m.plainLen = 32) →
      exec (.attest m) s = .next (s0.reply m 0x03 0 (s0.evidence m.body ++ padTo 17088 (Config.slhSign (s0.evidence m.body))))) ∧
    (Obligations.admitted s m 0x12 false false (m.plainLen = 8) →
      (m.num 0 1 = 0 ∨ 5 < m.num 0 1 → exec (.read m) s = .next (s0.refuseMsg m 0x12 3)) ∧
      (m.num 0 1 = 1 → m.num 1 3 = 0 → piece (.read m) 0x12 (m.num 4 4) (s.history.flatMap histBytes)) ∧
      (∀ i, i < 2 → m.num 0 1 = 3 + i → m.num 1 3 = 0 → piece (.read m) 0x12 (m.num 4 4) (f.dumps.getD i [])) ∧
      (∀ n, (m.num 0 1 = 2 ∧ n = 32 * min s.log.length 131072 ∨ m.num 0 1 = 5 ∧ n = 268) → m.num 1 3 = 0 → m.num 4 4 ≤ n → ∃ (t : State) (bs : List Byte), bs.length = n ∧
        ChangesOnly [.free] s0 t ∧ exec (.read m) s = .next (t.reply m 0x12 0 (leBytes 4 n ++ (bs.drop (m.num 4 4)).take 16384)))) ∧
    (Obligations.admitted s m 0x20 false false (m.plainLen = 0) →
      (other → exec (.fwBegin m) s = .next (s0.refuseMsg m 0x20 8)) ∧ (¬ other → m.proofOk = false → exec (.fwBegin m) s = .next (s0.refuseMsg m 0x20 0xB)) ∧
      (¬ other → m.proofOk = true → ∃ t : State, exec (.fwBegin m) s = .next (t.reply m 0x20 0 []) ∧ ChangesOnly [.mgmt] s0 t ∧ t.mgmt.session = some m.path ∧
        (∀ o, o < 2 ^ 25 → tget erased t.mgmt.flash.bytes (bankAt ob o) = 0xFF ∧ tget erased t.mgmt.flash.bytes (bankAt (1 - ob) o) = tget erased f.bytes (bankAt (1 - ob) o)))) ∧
    (Obligations.admitted s m 0x21 false false (m.plainLen = m.body.length && 4104 ≤ m.plainLen && m.plainLen ≤ 16392 && (m.plainLen - 8) % 4096 = 0) →
      let off := m.num 0 4
      let bad : Prop := off % 4096 ≠ 0 ∨ 24 * mib < off + (m.plainLen - 8) ∨ m.num 4 4 ≠ 0
      (bad → exec (.fwWrite m) s = .next (s0.refuseMsg m 0x21 3)) ∧ (¬ bad → ¬ mine → exec (.fwWrite m) s = .next (s0.refuseMsg m 0x21 8)) ∧
      (¬ bad → mine → m.proofOk = false → exec (.fwWrite m) s = .next (s0.refuseMsg m 0x21 0xB)) ∧
      (¬ bad → mine → m.proofOk = true → ∃ t : State, exec (.fwWrite m) s = .next (t.reply m 0x21 0 []) ∧ ChangesOnly [.mgmt] s0 t ∧
        (∀ i, i < m.plainLen - 8 → tget erased t.mgmt.flash.bytes (bankAt ob (off + i)) = m.body.getD (8 + i) 0) ∧
        ∀ k, ¬ (bankAt ob off ≤ k ∧ k < bankAt ob off + (m.plainLen - 8)) → tget erased t.mgmt.flash.bytes k = tget erased f.bytes k)) ∧
    (Obligations.admitted s m 0x22 false false (m.plainLen = 0) →
      (¬ mine → exec (.fwActivate m) s = .next (s0.refuseMsg m 0x22 8)) ∧
      (mine → s.bundleOk ob = false ∨ m.proofOk = false → exec (.fwActivate m) s = .next (s0.refuseMsg m 0x22 9)) ∧
      (mine → s.bundleOk ob = true → m.proofOk = true → s.bundleSvn ob < f.fuses → exec (.fwActivate m) s = .next (s0.refuseMsg m 0x22 0xA)) ∧
      (mine → s.bundleOk ob = true → m.proofOk = true → f.fuses ≤ s.bundleSvn ob → ∃ t : State, exec (.fwActivate m) s = .next (t.reply m 0x22 0 (leBytes 8 ob)) ∧
        ChangesOnly [.mgmt] s0 t ∧ t.mgmt.flash = { f with pend := some ob, bad := false, starts := 0 } ∧ t.mgmt.session = none)) ∧
    (Obligations.admitted s m 0x23 (!(s.mgmt.job.isNone && m.path = 0)) false (m.plainLen = 0) →
      (other ∨ f.reached = false → exec (.fwCommit m) s = .next (s0.refuseMsg m 0x23 8)) ∧
      (¬ other → f.reached = true → ∃ t : State, exec (.fwCommit m) s = .next (t.reply m 0x23 0 (leBytes 8 (max f.fuses f.svn))) ∧ ChangesOnly [.mgmt] s0 t ∧
        t.mgmt.flash = { f with fuses := max f.fuses f.svn })) ∧
    (Obligations.admitted s m 0x24 false false (m.plainLen = 0) →
      (s.power.stage ≠ 3 → exec (.holdRelease m) s = .next (s0.refuseMsg m 0x24 0xE)) ∧
      (s.power.stage = 3 → ∃ t, exec (.holdRelease m) s = .next t ∧ t.power = { s.power with stage := 0, limit := 0, fault := false } ∧
        ChangesOnly [.power] (s0.reply m 0x24 0 []) t)) ∧
    (Obligations.admitted s m 0x25 false false (m.plainLen = 0) → ∃ t : State, exec (.debugChal m) s = .next (t.reply m 0x25 0 (padTo 32 (Config.challenge s.mgmt.chals))) ∧
      ChangesOnly [.mgmt] s0 t ∧ t.mgmt.chal = some s.mgmt.chals ∧ t.mgmt.chals = s.mgmt.chals + 1) ∧
    (Obligations.admitted s m 0x26 false false (m.plainLen = 7904 && m.body.length = 7904) →
      let st := if 4 ≤ m.num 40 1 ∨ m.num 41 7 ≠ 0 then 3 else if s.mgmt.unlocked ≠ none then 0xC else if s.mgmt.job ≠ none then 8 else if s.tokenOk m = false then 5 else 0
      (st ≠ 0 → exec (.debugUnlock m) s = .next (s0.refuseMsg m 0x26 st)) ∧
      (st = 0 → ∃ t : State, exec (.debugUnlock m) s = .next (t.reply m 0x26 0 []) ∧ ChangesOnly [.slots, .mgmt, .measure, .log] s0 t ∧ t.slots = [] ∧ t.mgmt.kem = none ∧
        t.mgmt.chal = none ∧ t.mgmt.unlocked = some (m.num 40 1) ∧ t.getMr 5 = Config.sha256 (s.getMr 5 ++ Config.sha256 m.body))) ∧
    (Obligations.admitted s m 0x30 false false (29 ≤ m.plainLen && m.plainLen = m.body.length) →
      let dst := m.num 0 4
      let inner := m.body.drop 8
      let bad : Prop := 2 ^ 18 ≤ dst ∨ m.num 4 4 ≠ 0 ∨ innerHeader inner 15 8 = 0x30
      let there : Prop := s.inTorus dst = true ∧ s.reaches dst = true
      (bad → exec (.forward m) s = .next (s0.refuseMsg m 0x30 3)) ∧ (¬ bad → ¬ there → exec (.forward m) s = .next (s0.refuseMsg m 0x30 0xD)) ∧
      (¬ bad → there → ∃ t : State, exec (.forward m) s = .next (t.sendFabric dst inner) ∧ ChangesOnly [.mgmt] s0 t ∧
        t.mgmt.forwards = s.mgmt.forwards ++ [⟨dst, innerHeader inner 63 48, m⟩]))) ∧
  ∀ s : State,
    exec .fwSessionTimeout s = .next { s with mgmt := { s.mgmt with session := none } } ∧ exec .challengeExpire s = .next { s with mgmt := { s.mgmt with chal := none } } ∧
    (∀ dst reqId, (s.mgmt.forwards.find? fun f => f.dst = dst && f.reqId = reqId) = none → exec (.forwardTimeout dst reqId) s = .next s ∧
      ∀ code m, m.src = dst → m.reqId = reqId → exec (.forwardResponse code m) s = .next s) ∧
    ∀ dst reqId f, (s.mgmt.forwards.find? fun f => f.dst = dst && f.reqId = reqId) = some f →
      let off : State := { s with mgmt := { s.mgmt with forwards := s.mgmt.forwards.filter fun x => x ≠ f } }
      exec (.forwardTimeout dst reqId) s = .next (off.refuseMsg f.msg 0x30 0xD) ∧
      ∀ code m, m.src = dst → m.reqId = reqId → exec (.forwardResponse code m) s =
        .next (off.sendPath f.msg.path f.msg.src (gPrefix ++ gHeader m.len m.seq m.reqId m.status m.sealed true code ++ m.body))

/-- The mailbox and the test port (R407, R408, R441): GO without the bit does nothing; while a request is busy a fragment is lost and shown; a fragment is appended, and the last one of a request makes
the mailbox BUSY; LEN 0 takes the next fragment of a response, or acknowledges the last one. The test port answers BYPASS, IDCODE and SAMPLE always, the other instructions that the spec names
under SYS_RESET_N or while debug is open; while it is open, an instruction that the spec does not name is refused by this model (log entry 105), and otherwise acts as BYPASS.
Completion is stated here of .mailboxGo, .jtagInstruction. -/
def Obligations.MailboxAndJtag : Prop :=
  (∀ (s : State) (data : Nat),
    let len := min (bits data 11 0) 4032
    let busy := s.flag F.OST_MBX_STS_BUSY
    let part := ((List.range (ceilDiv len 4)).flatMap fun i => leBytes 4 (s.rd (R.OST_MBX_REQ + 4 * i))).take len
    let whole := (if bit data 30 then [] else s.mgmt.request) ++ part
    (bit data 31 = false → exec (.mailboxGo data) s = .next s) ∧
    (bit data 31 = true → busy = true → ∃ t, exec (.mailboxGo data) s = .next t ∧ t.flag F.OST_MBX_STS_OVF = true ∧ ChangesOnly [.regs] s t ∧ RegsOnly [R.OST_MBX_STS] s t) ∧
    (bit data 31 = true → busy = false → len ≠ 0 → bit data 29 = false →
      exec (.mailboxGo data) s = .next { s with mgmt := { s.mgmt with request := whole } }) ∧
    (bit data 31 = true → busy = false → len ≠ 0 → bit data 29 = true → whole.take 5 = gPrefix → 21 ≤ whole.length → innerHeader whole 15 8 ∈ requestCodes →
      innerHeader whole 7 0 = 1 → innerHeader whole 32 32 = 0 → ∃ t, exec (.mailboxGo data) s = .next t ∧ t.mgmt = { s.mgmt with request := whole } ∧
        t.flag F.OST_MBX_STS_BUSY = true ∧ ChangesOnly [.mgmt, .regs] s t ∧ RegsOnly [R.OST_MBX_STS] s t) ∧
    (bit data 31 = true → busy = false → len ≠ 0 → bit data 29 = true → whole.take 5 ≠ gPrefix →
      exec (.mailboxGo data) s = .next { s with mgmt := { s.mgmt with request := [] } }) ∧
    (bit data 31 = true → busy = false → len = 0 →
      (s.flag F.OST_MBX_STS_READY = false → exec (.mailboxGo data) s = .next s) ∧
      (s.flag F.OST_MBX_STS_READY = true → s.mgmt.response = [] → ∃ t, exec (.mailboxGo data) s = .next t ∧ t.flag F.OST_MBX_STS_READY = false ∧ ChangesOnly [.regs] s t ∧
        RegsOnly [R.OST_MBX_STS] s t) ∧
      (s.flag F.OST_MBX_STS_READY = true → s.mgmt.response ≠ [] → ∃ t, exec (.mailboxGo data) s = .next t ∧ t.mgmt = { s.mgmt with response := s.mgmt.response.drop 4032 } ∧
        ChangesOnly [.regs, .mgmt] s t ∧ t.fget F.OST_MBX_STS_LEN = min 4032 s.mgmt.response.length ∧
        t.rd R.OST_MBX_RSP = leNat (s.mgmt.response.take 4)))) ∧
  ∀ (s : State) (code : Nat),
    let act := if code ≤ 2 then code else if code ≤ 5 ∧ (s.power.low = true ∨ s.mgmt.unlocked ≠ none) then code else 0
    (s.mgmt.unlocked ≠ none → 6 ≤ code → exec (.jtagInstruction code) s = .refused (.debugInstruction code)) ∧
    (s.mgmt.unlocked = none ∨ code < 6 → ∃ (t : State) (v : Nat), exec (.jtagInstruction code) s = .next t ∧ t.mgmt = { s.mgmt with jtag := act } ∧ t.out = .jtag v :: s.out ∧
      ChangesOnly [.mgmt, .out, .free] s t ∧ (act = 0 → v = 0) ∧ (act = 1 → v = 0x1940056F) ∧ v < 2 ^ 269 ∧
      (2 ≤ act → bit v 262 = !s.power.low ∧ bit v 268 = s.pwrGood))

/-! ### Power, clocks, start-up and tests -/

/-- MCLK is throttled as long as a cause holds (R418). -/
def Obligations.throttledRight (t : State) : Prop :=
  t.flag F.PWR_THROT_STS_THROTTLED = (t.flag F.PWR_THROT_STS_SUPPLY || t.flag F.PWR_THROT_STS_TEMP || t.flag F.PWR_THROT_STS_POWER || t.flag F.PWR_THROT_STS_SOFT)

/-- The open windows discard their current attempts and begin anew (R412). -/
def Obligations.attemptsAnew (s t : State) : Prop :=
  t.ledger = { s.ledger with windows := t.ledger.windows } ∧ t.ledger.windows.length = s.ledger.windows.length ∧
    ∀ (i : Nat) (w x : Window), s.ledger.windows[i]? = some w → t.ledger.windows[i]? = some x →
      if w.fetching then x = w else x = { w with redo := true, digested := false, mine := if w.digested then w.mine.dropLast else w.mine }

/-- Supply, power and temperature (R411 to R414, R416 to R418, R421, R344): a fall below WARN throttles, raises source 0x085 and is counted; the recovery ends both. One that lasts is a
sag. A fall below SUSPECT fails the run before its stage-1 record, makes the open windows begin anew after it, and does nothing at a boundary. Below RESET, from SYS_RESET_N, and at 105 °C the
device resets, and stays so until the supply starts, the pin rises, or every junction is cool. The limiters and the thermal comparators throttle and release.
Completion is stated here of .supplyStart, .sysResetN, .supplyWarn, .supplyWarnRecover, .supplySag, .supplySuspect, .supplySuspectRecover,
.supplyReset, .powerTransientLimit, .powerCapTick, .thermalThrottle, .thermalRelease, .thermalReset, .thermalRestart, .powerTransientRelease. -/
def Obligations.PowerEvents : Prop :=
  (∀ (s : State) (mv : Nat),
    let dip := s.fget F.PWR_STS_SUPPLY
    let least := min (s.fget F.PWR_DIP_MIN_MIN) (min (mv / 10) 0xFFFF)
    (s.awake = false ∨ dip ≠ 0 → exec (.supplyWarn mv) s = .next s) ∧
    (s.awake = true → dip = 0 → ∃ t, exec (.supplyWarn mv) s = .next t ∧ ChangesOnly [.regs, .icu, .out, .mgmt, .free] s t ∧ t.fget F.PWR_STS_SUPPLY = 1 ∧
      t.fget F.PWR_STS_DIPS = min (s.fget F.PWR_STS_DIPS + 1) 0xFFFF ∧ t.fget F.PWR_DIP_MIN_MIN = min (mv / 10) 0xFFFF ∧ t.flag F.PWR_THROT_STS_SUPPLY = true ∧
      Obligations.throttledRight t ∧ bit (t.rd (rawReg 0 4)) 5 = true) ∧
    (dip = 0 → exec (.supplyWarnRecover mv) s = .next s) ∧
    (dip ≠ 0 → ∃ t, exec (.supplyWarnRecover mv) s = .next t ∧ ChangesOnly [.regs, .icu] s t ∧ t.fget F.PWR_STS_SUPPLY = 0 ∧ t.fget F.PWR_DIP_MIN_MIN = least ∧
      t.flag F.PWR_THROT_STS_SUPPLY = false ∧ Obligations.throttledRight t ∧ bit (t.rd (rawReg 0 4)) 5 = false ∧ bit (t.rd (pendReg 0 4)) 6 = true) ∧
    (dip ≠ 1 → exec (.supplySag mv) s = .next s) ∧
    (dip = 1 → ∃ t, exec (.supplySag mv) s = .next t ∧ ChangesOnly [.regs, .log] s t ∧ RegsOnly [R.PWR_STS, R.PWR_DIP_MIN] s t ∧ t.fget F.PWR_STS_SUPPLY = 2 ∧
      t.fget F.PWR_DIP_MIN_MIN = least ∧ t.log = if s.ostlerUp then ⟨1, s.stepNum, mv / 10⟩ :: s.log else s.log) ∧
    (s.awake = false → exec (.supplySuspect mv) s = .next s.settle) ∧
    (s.awake = true → ∃ u : State, ChangesOnly [.regs, .power] s u ∧ RegsOnly [R.PWR_STS, R.PWR_DIP_MIN] s u ∧ u.power = { s.power with suspect := true } ∧
      u.flag F.PWR_STS_SUSPECT_SEEN = true ∧ u.fget F.PWR_DIP_MIN_MIN = least ∧
      (s.atBoundary = true ∨ s.sealing = true → exec (.supplySuspect mv) s = .next u.settle) ∧
      (s.atBoundary = false → s.sealing = false →
        (s.run.formed = false → s.run.failSent = false →
          exec (.supplySuspect mv) s = .next ({ u with run := { u.run with causes := u.run.causes ||| 0x20 } } : State).earlyFailure.settle) ∧
        (s.run.formed = true ∨ s.run.failSent = true → ∃ t : State, exec (.supplySuspect mv) s = .next t.settle ∧ ChangesOnly [.ledger] u t ∧
          Obligations.attemptsAnew u t)))) ∧
  (∀ s : State,
    (s.power.suspect = false → exec .supplySuspectRecover s = .next s) ∧
    (s.power.suspect = true → ∃ t : State, exec .supplySuspectRecover s = .next t.settle ∧ ChangesOnly [.power, .ledger] s t ∧
      t.power = { s.power with suspect := false } ∧ Obligations.attemptsAnew s t) ∧
    (∃ t, exec .supplyReset s = .next t ∧ Obligations.deviceAfterReset s t ∧ t.power.off = 1 ∧ t.power.suspect = false) ∧
    (s.power.off ≠ 1 → exec .supplyStart s = .next s) ∧
    (s.power.off = 1 → ∃ t, exec .supplyStart s = .next t ∧ t.power = { s.power with off := 0, limit := 0, stage := 0, fault := false } ∧ ChangesOnly [.regs, .power] s t ∧
      RegsOnly [R.PWR_STS, R.PWR_THROT_STS, rawReg 0 4, rawReg 1 4] s t ∧ t.fget F.PWR_STS_SUPPLY = 0 ∧ t.flag F.PWR_THROT_STS_SUPPLY = false ∧ Obligations.throttledRight t) ∧
    exec (.sysResetN false) s = .next { s with power := { s.power with low := false } } ∧
    (s.power.low = true → exec (.sysResetN true) s = .next s) ∧
    (s.power.low = false → ∃ t, exec (.sysResetN true) s = .next t ∧ Obligations.deviceAfterReset s t ∧ t.power.low = true)) ∧
  (∀ (s : State) (watts : Nat),
    let share := s.fget F.PWR_THROT_STS_SHARE
    let cap := min (s.fget F.PWR_CAP_PCAP) 2400
    let only (t : State) : Prop := ChangesOnly [.regs, .power] s t ∧ RegsOnly [R.PWR_THROT_STS] s t ∧ Obligations.throttledRight t
    (∃ t, exec .powerTransientLimit s = .next t ∧ only t ∧ t.power = { s.power with spike := true } ∧ t.flag F.PWR_THROT_STS_POWER = true ∧ t.fget F.PWR_THROT_STS_SHARE = share) ∧
    (∃ t, exec .powerTransientRelease s = .next t ∧ only t ∧ t.power = { s.power with spike := false } ∧ t.flag F.PWR_THROT_STS_POWER = decide (share ≠ 0) ∧
      t.fget F.PWR_THROT_STS_SHARE = share) ∧
    (s.ostlerUp = false ∨ watts ≤ cap ∧ cap ≤ watts + 50 → exec (.powerCapTick watts) s = .next s) ∧
    (s.ostlerUp = true → cap < watts ∨ watts + 50 < cap → ∃ t, exec (.powerCapTick watts) s = .next t ∧ only t ∧ t.power = s.power ∧
      t.fget F.PWR_THROT_STS_SHARE = (if cap < watts then min (share + 1) 15 else share - 1) ∧
      t.flag F.PWR_THROT_STS_POWER = (s.power.spike || decide (t.fget F.PWR_THROT_STS_SHARE ≠ 0)))) ∧
  ∀ (s : State) (die : Nat),
    let hot := s.flag F.PWR_THROT_STS_TEMP
    (s.awake = false ∨ hot = true → exec (.thermalThrottle die) s = .next s) ∧
    (s.awake = true → hot = false → ∃ t, exec (.thermalThrottle die) s = .next t ∧ ChangesOnly [.regs, .icu, .log] s t ∧ t.flag F.PWR_THROT_STS_TEMP = true ∧ t.thermAlert = true ∧
      Obligations.throttledRight t ∧ bit (t.rd (rawReg 0 4)) 7 = true ∧ t.log = if s.ostlerUp then ⟨2, s.stepNum, die⟩ :: s.log else s.log) ∧
    (hot = false → exec .thermalRelease s = .next s) ∧
    (hot = true → ∃ t, exec .thermalRelease s = .next t ∧ ChangesOnly [.regs] s t ∧ t.thermAlert = false ∧ Obligations.throttledRight t ∧ bit (t.rd (rawReg 0 4)) 7 = false) ∧
    (s.awake = false → exec (.thermalReset die) s = .next s) ∧
    (s.awake = true → ∃ v t, exec (.thermalReset die) s = .next t ∧ ChangesOnly [.log] s v ∧ Obligations.deviceAfterReset v t ∧ t.power.off = 2 ∧ t.power.suspect = false) ∧
    exec .thermalRestart s = .next (if s.power.off = 2 then { s with power := { s.power with off := 0 } } else s)

/-- An item is held once, behind those that are held (R425). -/
def Obligations.addTest (s : State) (x : TestItem) : State := { s with test := { s.test with held := if x ∈ s.test.held then s.test.held else s.test.held ++ [x] } }

/-- A command has an item held; then what may start does. -/
def Obligations.heldItem (c : Instr) (s : State) (x : TestItem) : Prop := exec c s = .next (Obligations.addTest s x).startTests

/-- Two byte ranges share a byte. -/
def Obligations.overlap (a b : Nat × Nat) : Bool := a.2 ≠ 0 && b.2 ≠ 0 && a.1 < b.1 + b.2 && b.1 < a.1 + a.2

/-- Clocks and start-up (R25, R179, R293, R294, R396, R403, R420 to R424): the device goes over to the other reference when the selected one alone goes bad, returns at a boundary, and resets when
both stay bad. The Ostler starts from the pending bank or the running one, whichever verifies first, or not at all, and holds the device at its limit of resets. Control cores start in order, memory is zeroed, the
self-test tests the spares and remounts what failed, and the seal holds once every condition of R424 does: CAUSE is else the lowest that fails.
Completion is stated here of .firmwareBoot, .controlCoreRelease, .memoryInitComplete, .startupSelfTestComplete, .seal, .refclkBad, .refclkRevertTimer,
.refclkHoldExpire, .refclkGood. -/
def Obligations.ClocksAndStart : Prop :=
  (∀ (s : State) (n : Nat),
    let sel := s.fget F.CLK_STS_SEL
    let other := s.flag (refOk (1 - n))
    let seen (t : State) (ok swapped : Bool) : Prop := RegsOnly [R.CLK_STS] s t ∧ t.flag (refOk n) = ok ∧ t.flag (refOk (1 - n)) = other ∧
      t.fget F.CLK_STS_SEL = (if swapped then (if ok then n else 1 - n) else sel) ∧
      t.fget F.CLK_STS_SWITCHES = (if swapped then min (s.fget F.CLK_STS_SWITCHES + 1) 0xFFFF else s.fget F.CLK_STS_SWITCHES)
    (2 ≤ n → exec (.refclkBad n) s = .next s ∧ exec (.refclkGood n) s = .next s) ∧
    (n < 2 → (∃ t, exec (.refclkBad n) s = .next t ∧ ChangesOnly [.regs] s t ∧ seen t false (decide (sel = n) && other)) ∧
      ∃ t, exec (.refclkGood n) s = .next t ∧ ChangesOnly [.regs, .power] s t ∧ seen t true (decide (sel ≠ n) && !other) ∧
        t.power = if s.power.off = 3 then { s.power with off := 0, fault := false } else s.power)) ∧
  (∀ s : State,
    let p := s.fget F.CLK_CFG_PREF
    let due : Prop := s.flag F.CLK_CFG_REVERT = true ∧ s.fget F.CLK_STS_SEL ≠ p ∧ s.flag (refOk p) = true
    (¬ due → exec .refclkRevertTimer s = .next s) ∧
    (due → Obligations.heldItem .refclkRevertTimer s ⟨5, p, false⟩) ∧
    (due → s.standsAtBoundary = true → s.test.spent = false → s.layoutDue = false → s.test.running = none → s.test.held = [] → ∃ t, exec .refclkRevertTimer s = .next t ∧ ChangesOnly [.regs] s t ∧ RegsOnly [R.CLK_STS] s t ∧
      t.fget F.CLK_STS_SEL = p ∧ t.fget F.CLK_STS_SWITCHES = min (s.fget F.CLK_STS_SWITCHES + 1) 0xFFFF) ∧
    (s.flag (refOk 0) = true ∨ s.flag (refOk 1) = true → exec .refclkHoldExpire s = .next s) ∧
    (s.flag (refOk 0) = false → s.flag (refOk 1) = false → ∃ v t, exec .refclkHoldExpire s = .next t ∧ ChangesOnly [.power, .out, .mgmt, .free] s v ∧
      Obligations.deviceAfterReset v t ∧ t.power.off = 3 ∧ t.power.fault = true)) ∧
  (∀ (s : State) (banks : List Bool) (recent : Nat),
    let f := s.mgmt.flash
    let spent : Prop := f.pend ≠ none ∧ 2 ≤ f.starts
    let first := if f.pend ≠ none ∧ f.starts < 2 then f.pend.getD f.run else f.run
    let ok (b : Nat) : Bool := banks.getD b false
    let booted (b : Nat) : Prop := ∃ t, exec (.firmwareBoot banks recent) s = .next t ∧ ChangesOnly [.power, .mgmt, .measure, .regs, .log] s t ∧
      RegsOnly [R.CLK_STS, R.HUB_CCORE_STS] s t ∧ t.flag F.CLK_STS_ROOT_LOCK = true ∧ t.fget (coreField 0) = 1 ∧
      (∀ i, i < 8 → i ≠ 0 → t.fget (coreField i) = s.fget (coreField i)) ∧ t.power = { s.power with stage := 1 } ∧
      t.getMr 0 = Config.sha256 (s.getMr 0 ++ Config.imageDigest b 0 f.bytes) ∧ (∀ i, i ≠ 0 → t.getMr i = s.getMr i) ∧
      t.mgmt.flash = { f with started := b, reached := false, svn := (if b = f.run then f.runSvn else s.bundleSvn b),
                              pend := t.mgmt.flash.pend, bad := t.mgmt.flash.bad, starts := t.mgmt.flash.starts } ∧
      (f.pend ≠ none → f.starts < 2 → b = first → t.mgmt.flash.pend = f.pend ∧ t.mgmt.flash.starts = f.starts + 1) ∧
      (spent ∨ b ≠ first → t.mgmt.flash.pend = none) ∧ (spent → t.mgmt.flash.bad = true)
    let off : Prop := s.awake = false ∨ s.power.stage ≠ 0
    let held : Prop := s.power.limit ≠ 0 ∧ s.power.limit ≤ recent
    (off → exec (.firmwareBoot banks recent) s = .next s) ∧
    (¬ off → held → ∃ t, exec (.firmwareBoot banks recent) s = .next t ∧ t.power = { s.power with stage := 3, fault := true } ∧ ChangesOnly [.power, .log, .out, .mgmt, .free] s t) ∧
    (¬ off → ¬ held → ok first = true → booted first) ∧
    (¬ off → ¬ held → ok first = false → ok (1 - first) = true → booted (1 - first)) ∧
    (¬ off → ¬ held → ok first = false → ok (1 - first) = false → ∃ t, exec (.firmwareBoot banks recent) s = .next t ∧
      t.power = { s.power with stage := 4, fault := true } ∧ ChangesOnly [.power, .mgmt, .log, .out, .free] s t)) ∧
  (∀ (s : State) (n : Nat),
    let may : Prop := s.awake = true ∧ s.power.off = 0 ∧ s.power.stage = 1 ∧ n < 7 ∧ s.fget (coreField n) = 1 ∧ ∀ i, i < n → s.fget (coreField i) = 2
    (¬ may → exec (.controlCoreRelease n) s = .next s) ∧
    (may → ∃ t, exec (.controlCoreRelease n) s = .next t ∧ ChangesOnly [.regs, .measure, .mpart, .power] s t ∧ RegsOnly [R.HUB_CCORE_STS] s t ∧ t.fget (coreField n) = 2 ∧
      (∀ i, i < 8 → i ≠ n → t.fget (coreField i) = if i = n + 1 ∧ n < 6 then 1 else s.fget (coreField i)) ∧
      t.getMr 1 = Config.sha256 (s.getMr 1 ++ Config.imageDigest s.mgmt.flash.started (n + 1) s.mgmt.flash.bytes) ∧ (∀ i, i ≠ 1 → t.getMr i = s.getMr i) ∧
      t.power = { s.power with stage := if n = 6 then 2 else 1 } ∧
      ∀ k p, k < 8 → p < 32 → t.pchSts (pchKey k p) = if n < 4 ∧ k / 2 = n ∧ bits (s.pchSts (pchKey k p)) 31 29 ≠ 4 then setBits (s.pchSts (pchKey k p)) 31 29 1 else s.pchSts (pchKey k p)) ∧
    let mayInit : Prop := n < 4 ∧ s.fget (coreField n) = 2 ∧ n ∉ s.power.init ∧ s.flag F.HUB_SEAL_STS_READY = false
    (¬ mayInit → exec (.memoryInitComplete n) s = .next s) ∧
    (mayInit → s.test.running = none → ∃ t, exec (.memoryInitComplete n) s = .next t ∧ ChangesOnly [.mem, .mpart, .power] s t ∧ t.power = { s.power with init := n :: s.power.init } ∧
      (∀ b ∈ t.mpart.bad, 128 * b < carSpan * n ∨ carSpan * (n + 1) ≤ 128 * b) ∧
      ∀ a, t.byte a = if carSpan * n ≤ a ∧ a < carSpan * (n + 1) then 0 else s.byte a)) ∧
  (∀ s : State,
    let may : Prop := s.power.stage = 2 ∧ (∀ n, n < 4 → n ∈ s.power.init) ∧ s.flag F.HUB_SEAL_STS_READY = false
    (¬ may → ∀ failed, exec (.startupSelfTestComplete failed) s = .next s) ∧
    (may → ∀ failed, ∃ t, exec (.startupSelfTestComplete failed) s = .next t ∧ t.flag F.HUB_SEAL_STS_READY = true ∧
      ChangesOnly [.regs, .icu, .spares, .history, .free, .out, .mgmt] s t ∧
      (failed = [] → ChangesOnly [.regs, .spares] s t ∧ RegsOnly (R.HUB_SEAL_STS :: (List.range 4).map (carReg R.CAR_CORE_STS)) s t ∧ ∀ u ∈ s.spareUnits, u ∈ t.spares.tested) ∧
      ∀ n i c p, n < 4 → c < 9 → p < 9 → p ≠ c → failed = [4096 * n + c] → s.coreName n c = some i → s.isSpare (coreUnit n c) = false → s.isSpare (coreUnit n p) = true →
        (∀ q, q < p → s.isSpare (coreUnit n q) = false) → t.coreOf n i = p ∧ t.coreState n p = 0 ∧ t.coreState n c = 5)) ∧
  ∀ (s : State) (a : Agent),
    let coord := s.fget F.FAB_COORD_COORD
    let c :=
      if s.inTorus coord = false ∨ (s.flag F.FAB_YOKE_EN = true ∧ s.fget F.FAB_YOKE_PARTNER = coord) then 1
      else if ¬ (s.sealRegions ++ reservedRegions).Pairwise (fun x y => Obligations.overlap x y = false) then 2
      else if s.fget F.LXE_LEDGER_SIZE_MIB < 1024 ∨ (s.fget F.LXE_CKPT_SIZE_MIB ≠ 0 ∧ s.fget F.LXE_CKPT_SIZE_MIB < 64) then 3
      else if s.fget F.HUB_RCV_CFG_K = 0 ∨ s.fget F.HUB_RCV_CFG_N = 0 then 4
      else if s.flag F.HUB_SEAL_STS_READY = false then 5 else 0
    let f := s.mgmt.flash
    let begins (p : Nat) : Prop := bit (s.rd (pageReg R.FAB_PORT_CTL p)) 31 = true ∧ s.portState p = 0
    (s.isSealed = true → exec (.seal a) s = .next s) ∧
    (s.isSealed = false → c ≠ 0 → ∃ t, exec (.seal a) s = .next t ∧ ChangesOnly [.regs] s t ∧ RegsOnly [R.HUB_SEAL_STS] s t ∧ t.isSealed = false ∧ t.fget F.HUB_SEAL_STS_CAUSE = c) ∧
    (s.isSealed = false → c = 0 → ∃ t, exec (.seal a) s = .next t ∧ ChangesOnly [.regs, .links, .out, .measure, .mgmt, .log] s t ∧ t.isSealed = true ∧ t.fget F.HUB_SEAL_STS_CAUSE = 0 ∧
      (∃ values, t.getMr 2 = Config.sha256 (s.getMr 2 ++ Config.sha256 values)) ∧ (∀ i, i ≠ 2 → t.getMr i = s.getMr i) ∧
      (∀ p, p < 7 → (begins p → t.portState p = 1) ∧ (¬ begins p → t.portState p = s.portState p)) ∧
      t.mgmt.flash = { f with run := f.started, runSvn := f.svn, pend := if f.pend = some f.started then none else f.pend, starts := 0, reached := true })

/-- Tests (R181, R220, R257, R294, R298, R425, R426, R429): an idle spare is tested at once, in the background; a unit with a name, a pseudo-channel, a port and the whole device have a test or a retrain held for
a boundary; with IMMEDIATE in a run, the run fails with cause TEST first, and an immediate test of more than 50 ms is refused. A full self-test is refused unless PHASE is 0 or 7, the periodic calibration is asked for unless it is disabled. At a
boundary whose budget lasts, with no layout change still to come, none running and none held before, an item starts (a channel out of service excepted); the budget is spent once an item ends after CAL_BUDGET_MS, 0 acting as 1; when an item ends, a unit that failed is recorded, permanent and to be retired, and FAIL is set.
Completion is stated here of .testUnitSelfTest, .testPchRetrain, .testPortRetrain, .testFullSelfTest, .calibrationPeriod, .testComplete. -/
def Obligations.TestsDuringWork : Prop :=
  (∀ (s : State) (a : Agent) (target : Nat) (immediate : Bool) (ms : Nat),
    let u := unitOf target
    let item : TestItem := ⟨0, target, immediate⟩
    let c := Instr.testUnitSelfTest a target immediate ms
    let added := Obligations.addTest s item
    (unitExists u = false → exec c s = .next s.settle) ∧
    (unitExists u = true → s.unitName u = none → ∃ t : State, exec c s = .next t.settle ∧ ChangesOnly [.spares, .regs] s t ∧ u ∉ t.spares.tested ∧
      RegsOnly (if u.kind = 0 then [carReg R.CAR_CORE_STS u.die] else []) s t ∧ (u.kind = 0 → s.isSpare u = true → t.coreState u.die u.index = 2)) ∧
    (unitExists u = true → s.unitName u ≠ none → immediate = true → 50 < ms → ∃ t : State, exec c s = .next t.settle ∧ t.flag F.HUB_TEST_STS_REFUSED = true ∧
      ChangesOnly [.regs] s t ∧ RegsOnly [R.HUB_TEST_STS] s t) ∧
    (unitExists u = true → s.unitName u ≠ none → immediate = false ∨ (ms ≤ 50 ∧ s.standsAtBoundary = true) → exec c s = .next added.startTests.settle) ∧
    (unitExists u = true → s.unitName u ≠ none → immediate = true → ms ≤ 50 → s.standsAtBoundary = false → s.inProgress = true → s.sealing = false →
      exec c s = .next ({ added with run := { s.run with causes := s.run.causes ||| 0x80 } } : State).earlyFailure.startTests.settle)) ∧
  (∀ (s : State) (a : Agent) (target : Nat),
    (8 ≤ target / 256 ∨ 32 ≤ target % 256 → exec (.testPchRetrain a target) s = .next s) ∧
    (target / 256 < 8 → target % 256 < 32 → ∃ v : State, bit (v.pchSts (pchKey (target / 256) (target % 256))) 0 = true ∧ ChangesOnly [.mpart] s v ∧
      exec (.testPchRetrain a target) s = .next (Obligations.addTest v ⟨1, target, false⟩).startTests) ∧
    (7 ≤ target % 256 → exec (.testPortRetrain a target) s = .next s) ∧
    (target % 256 < 7 → let p := target % 256
      ∃ v : State, v.flag (F.FAB_PORT_STS_RETRAIN_PEND.page p) = true ∧ ChangesOnly [.regs] s v ∧ RegsOnly [pageReg R.FAB_PORT_STS p] s v ∧
        exec (.testPortRetrain a target) s = .next (Obligations.addTest v ⟨2, p, false⟩).startTests) ∧
    (let phase := s.fget F.HUB_STEP_STS_PHASE
     (phase = 0 ∨ phase = 7 → Obligations.heldItem (.testFullSelfTest a) s ⟨3, 0, false⟩) ∧
     (phase ≠ 0 → phase ≠ 7 → ∃ t, exec (.testFullSelfTest a) s = .next t ∧ t.flag F.HUB_TEST_STS_REFUSED = true ∧ ChangesOnly [.regs] s t ∧ RegsOnly [R.HUB_TEST_STS] s t)) ∧
    (s.fget F.HUB_TEST_CFG_CAL_PERIOD_S = 0 → exec .calibrationPeriod s = .next s) ∧
    (s.fget F.HUB_TEST_CFG_CAL_PERIOD_S ≠ 0 → Obligations.heldItem .calibrationPeriod s ⟨4, 0, false⟩)) ∧
  (∀ (s : State) (x : TestItem) (rest : List TestItem),
    (s.test.held = [] → s.startTests = s) ∧
    (s.standsAtBoundary = false → (∀ y ∈ s.test.held, y.immediate = false) → s.startTests = s) ∧
    (s.test.spent = true → (∀ y ∈ s.test.held, y.immediate = false) → s.startTests = s) ∧
    (s.layoutDue = true → (∀ y ∈ s.test.held, y.immediate = false) → s.startTests = s) ∧
    (s.test.running ≠ none → s.startTests = s) ∧
    (s.test.held = x :: rest → s.standsAtBoundary = true → s.test.spent = false → s.layoutDue = false → s.test.running = none → x.kind = 0 ∨ x.kind = 3 ∨ x.kind = 4 → rest.length = 0 →
      s.startTests = { s with test := { s.test with held := [], running := some x } }) ∧
    (s.test.held = [x] → s.standsAtBoundary = true → s.test.spent = false → s.layoutDue = false → s.test.running = none → x.kind = 1 → ∃ t, s.startTests = t ∧
      ChangesOnly [.test, .mpart] s t ∧ (let k := pchKey (x.target / 256) (x.target % 256)
        if bits (s.pchSts k) 31 29 = 4 then t.test = { s.test with held := [] } ∧ t.pchSts k = setBits (s.pchSts k) 0 0 0
        else t.test = { s.test with held := [], running := some x } ∧ t.pchSts k = setBits (setBits (s.pchSts k) 31 29 1) 0 0 0))) ∧
  ∀ (s : State) (pass : Bool) (ms : Nat),
    (s.test.running = none → exec (.testComplete pass ms) s = .next s.settle) ∧
    ∀ x, s.test.running = some x → ∃ t : State, exec (.testComplete pass ms) s = .next t.startTests.settle ∧
      t.test = { s.test with running := none, spent := s.test.spent || (s.standsAtBoundary && max 1 (s.fget F.HUB_TEST_CFG_CAL_BUDGET_MS) < ms) } ∧
      (x.kind ≠ 1 → pass = true → ChangesOnly [.test] s t) ∧
      (x.kind = 1 → ChangesOnly [.test, .mpart] s t ∧ 2 ≤ bits (t.pchSts (pchKey (x.target / 256) (x.target % 256))) 31 29) ∧
      (x.kind = 3 → pass = false → ChangesOnly [.test, .regs] s t ∧ RegsOnly [R.HUB_TEST_STS] s t ∧ t.flag F.HUB_TEST_STS_FAIL = true) ∧
      (x.kind = 0 → pass = false → ChangesOnly [.test, .regs, .spares, .history, .free] s t ∧ t.flag F.HUB_TEST_STS_FAIL = true ∧ unitOf x.target ∈ t.spares.retire ∧
        (unitOf x.target ∉ s.spares.now → s.history.length < 131072 → ∃ r ∈ t.history, r.kind = (unitOf x.target).kind ∧ r.die = (unitOf x.target).die ∧
          r.index = (unitOf x.target).index ∧ r.event = 6 ∧ r.cls = 3))
end

