-- ==== Sys2Proof/Laws/State.lean ====
section
/-! SUPPORT. One lemma for each field of the state and each named update, so that no proof unfolds a record update. -/
namespace Sys2Proof.Machine

variable (s : State)

@[simp] theorem State.wr_pairs (k v : Nat) : (s.wr k v).pairs = s.pairs := rfl
@[simp] theorem State.wr_mem (k v : Nat) : (s.wr k v).mem = s.mem := rfl
@[simp] theorem State.wr_mpart (k v : Nat) : (s.wr k v).mpart = s.mpart := rfl
@[simp] theorem State.wr_que (k v : Nat) : (s.wr k v).que = s.que := rfl
@[simp] theorem State.wr_syn (k v : Nat) : (s.wr k v).syn = s.syn := rfl
@[simp] theorem State.wr_pos (k v : Nat) : (s.wr k v).pos = s.pos := rfl
@[simp] theorem State.wr_ledger (k v : Nat) : (s.wr k v).ledger = s.ledger := rfl
@[simp] theorem State.wr_run (k v : Nat) : (s.wr k v).run = s.run := rfl
@[simp] theorem State.wr_links (k v : Nat) : (s.wr k v).links = s.links := rfl
@[simp] theorem State.wr_lanes (k v : Nat) : (s.wr k v).lanes = s.lanes := rfl
@[simp] theorem State.wr_host (k v : Nat) : (s.wr k v).host = s.host := rfl
@[simp] theorem State.wr_slots (k v : Nat) : (s.wr k v).slots = s.slots := rfl
@[simp] theorem State.wr_fabKey (k v : Nat) : (s.wr k v).fabKey = s.fabKey := rfl
@[simp] theorem State.wr_map (k v : Nat) : (s.wr k v).map = s.map := rfl
@[simp] theorem State.wr_icu (k v : Nat) : (s.wr k v).icu = s.icu := rfl
@[simp] theorem State.wr_watch (k v : Nat) : (s.wr k v).watch = s.watch := rfl
@[simp] theorem State.wr_cx (k v : Nat) : (s.wr k v).cx = s.cx := rfl
@[simp] theorem State.wr_ckpt (k v : Nat) : (s.wr k v).ckpt = s.ckpt := rfl
@[simp] theorem State.wr_pre (k v : Nat) : (s.wr k v).pre = s.pre := rfl
@[simp] theorem State.wr_spares (k v : Nat) : (s.wr k v).spares = s.spares := rfl
@[simp] theorem State.wr_recov (k v : Nat) : (s.wr k v).recov = s.recov := rfl
@[simp] theorem State.wr_rcv (k v : Nat) : (s.wr k v).rcv = s.rcv := rfl
@[simp] theorem State.wr_test (k v : Nat) : (s.wr k v).test = s.test := rfl
@[simp] theorem State.wr_measure (k v : Nat) : (s.wr k v).measure = s.measure := rfl
@[simp] theorem State.wr_power (k v : Nat) : (s.wr k v).power = s.power := rfl
@[simp] theorem State.wr_mgmt (k v : Nat) : (s.wr k v).mgmt = s.mgmt := rfl
@[simp] theorem State.wr_log (k v : Nat) : (s.wr k v).log = s.log := rfl
@[simp] theorem State.wr_history (k v : Nat) : (s.wr k v).history = s.history := rfl
@[simp] theorem State.wr_out (k v : Nat) : (s.wr k v).out = s.out := rfl
@[simp] theorem State.wr_free (k v : Nat) : (s.wr k v).free = s.free := rfl
@[simp] theorem State.wr_pending (k v : Nat) : (s.wr k v).pending = s.pending := rfl

@[simp] theorem State.setByte_regs (a : Nat) (b : Byte) : (s.setByte a b).regs = s.regs := rfl
@[simp] theorem State.setByte_pairs (a : Nat) (b : Byte) : (s.setByte a b).pairs = s.pairs := rfl
@[simp] theorem State.setByte_mpart (a : Nat) (b : Byte) : (s.setByte a b).mpart = s.mpart := rfl
@[simp] theorem State.setByte_que (a : Nat) (b : Byte) : (s.setByte a b).que = s.que := rfl
@[simp] theorem State.setByte_syn (a : Nat) (b : Byte) : (s.setByte a b).syn = s.syn := rfl
@[simp] theorem State.setByte_pos (a : Nat) (b : Byte) : (s.setByte a b).pos = s.pos := rfl
@[simp] theorem State.setByte_ledger (a : Nat) (b : Byte) : (s.setByte a b).ledger = s.ledger := rfl
@[simp] theorem State.setByte_run (a : Nat) (b : Byte) : (s.setByte a b).run = s.run := rfl
@[simp] theorem State.setByte_links (a : Nat) (b : Byte) : (s.setByte a b).links = s.links := rfl
@[simp] theorem State.setByte_lanes (a : Nat) (b : Byte) : (s.setByte a b).lanes = s.lanes := rfl
@[simp] theorem State.setByte_host (a : Nat) (b : Byte) : (s.setByte a b).host = s.host := rfl
@[simp] theorem State.setByte_slots (a : Nat) (b : Byte) : (s.setByte a b).slots = s.slots := rfl
@[simp] theorem State.setByte_fabKey (a : Nat) (b : Byte) : (s.setByte a b).fabKey = s.fabKey := rfl
@[simp] theorem State.setByte_map (a : Nat) (b : Byte) : (s.setByte a b).map = s.map := rfl
@[simp] theorem State.setByte_icu (a : Nat) (b : Byte) : (s.setByte a b).icu = s.icu := rfl
@[simp] theorem State.setByte_watch (a : Nat) (b : Byte) : (s.setByte a b).watch = s.watch := rfl
@[simp] theorem State.setByte_cx (a : Nat) (b : Byte) : (s.setByte a b).cx = s.cx := rfl
@[simp] theorem State.setByte_ckpt (a : Nat) (b : Byte) : (s.setByte a b).ckpt = s.ckpt := rfl
@[simp] theorem State.setByte_pre (a : Nat) (b : Byte) : (s.setByte a b).pre = s.pre := rfl
@[simp] theorem State.setByte_spares (a : Nat) (b : Byte) : (s.setByte a b).spares = s.spares := rfl
@[simp] theorem State.setByte_recov (a : Nat) (b : Byte) : (s.setByte a b).recov = s.recov := rfl
@[simp] theorem State.setByte_rcv (a : Nat) (b : Byte) : (s.setByte a b).rcv = s.rcv := rfl
@[simp] theorem State.setByte_test (a : Nat) (b : Byte) : (s.setByte a b).test = s.test := rfl
@[simp] theorem State.setByte_measure (a : Nat) (b : Byte) : (s.setByte a b).measure = s.measure := rfl
@[simp] theorem State.setByte_power (a : Nat) (b : Byte) : (s.setByte a b).power = s.power := rfl
@[simp] theorem State.setByte_mgmt (a : Nat) (b : Byte) : (s.setByte a b).mgmt = s.mgmt := rfl
@[simp] theorem State.setByte_log (a : Nat) (b : Byte) : (s.setByte a b).log = s.log := rfl
@[simp] theorem State.setByte_history (a : Nat) (b : Byte) : (s.setByte a b).history = s.history := rfl
@[simp] theorem State.setByte_out (a : Nat) (b : Byte) : (s.setByte a b).out = s.out := rfl
@[simp] theorem State.setByte_free (a : Nat) (b : Byte) : (s.setByte a b).free = s.free := rfl
@[simp] theorem State.setByte_pending (a : Nat) (b : Byte) : (s.setByte a b).pending = s.pending := rfl

@[simp] theorem State.setQ_regs (q : Nat) (v : Queue) : (s.setQ q v).regs = s.regs := rfl
@[simp] theorem State.setQ_pairs (q : Nat) (v : Queue) : (s.setQ q v).pairs = s.pairs := rfl
@[simp] theorem State.setQ_mem (q : Nat) (v : Queue) : (s.setQ q v).mem = s.mem := rfl
@[simp] theorem State.setQ_mpart (q : Nat) (v : Queue) : (s.setQ q v).mpart = s.mpart := rfl
@[simp] theorem State.setQ_syn (q : Nat) (v : Queue) : (s.setQ q v).syn = s.syn := rfl
@[simp] theorem State.setQ_pos (q : Nat) (v : Queue) : (s.setQ q v).pos = s.pos := rfl
@[simp] theorem State.setQ_ledger (q : Nat) (v : Queue) : (s.setQ q v).ledger = s.ledger := rfl
@[simp] theorem State.setQ_run (q : Nat) (v : Queue) : (s.setQ q v).run = s.run := rfl
@[simp] theorem State.setQ_links (q : Nat) (v : Queue) : (s.setQ q v).links = s.links := rfl
@[simp] theorem State.setQ_lanes (q : Nat) (v : Queue) : (s.setQ q v).lanes = s.lanes := rfl
@[simp] theorem State.setQ_host (q : Nat) (v : Queue) : (s.setQ q v).host = s.host := rfl
@[simp] theorem State.setQ_slots (q : Nat) (v : Queue) : (s.setQ q v).slots = s.slots := rfl
@[simp] theorem State.setQ_fabKey (q : Nat) (v : Queue) : (s.setQ q v).fabKey = s.fabKey := rfl
@[simp] theorem State.setQ_map (q : Nat) (v : Queue) : (s.setQ q v).map = s.map := rfl
@[simp] theorem State.setQ_icu (q : Nat) (v : Queue) : (s.setQ q v).icu = s.icu := rfl
@[simp] theorem State.setQ_watch (q : Nat) (v : Queue) : (s.setQ q v).watch = s.watch := rfl
@[simp] theorem State.setQ_cx (q : Nat) (v : Queue) : (s.setQ q v).cx = s.cx := rfl
@[simp] theorem State.setQ_ckpt (q : Nat) (v : Queue) : (s.setQ q v).ckpt = s.ckpt := rfl
@[simp] theorem State.setQ_pre (q : Nat) (v : Queue) : (s.setQ q v).pre = s.pre := rfl
@[simp] theorem State.setQ_spares (q : Nat) (v : Queue) : (s.setQ q v).spares = s.spares := rfl
@[simp] theorem State.setQ_recov (q : Nat) (v : Queue) : (s.setQ q v).recov = s.recov := rfl
@[simp] theorem State.setQ_rcv (q : Nat) (v : Queue) : (s.setQ q v).rcv = s.rcv := rfl
@[simp] theorem State.setQ_test (q : Nat) (v : Queue) : (s.setQ q v).test = s.test := rfl
@[simp] theorem State.setQ_measure (q : Nat) (v : Queue) : (s.setQ q v).measure = s.measure := rfl
@[simp] theorem State.setQ_power (q : Nat) (v : Queue) : (s.setQ q v).power = s.power := rfl
@[simp] theorem State.setQ_mgmt (q : Nat) (v : Queue) : (s.setQ q v).mgmt = s.mgmt := rfl
@[simp] theorem State.setQ_log (q : Nat) (v : Queue) : (s.setQ q v).log = s.log := rfl
@[simp] theorem State.setQ_history (q : Nat) (v : Queue) : (s.setQ q v).history = s.history := rfl
@[simp] theorem State.setQ_out (q : Nat) (v : Queue) : (s.setQ q v).out = s.out := rfl
@[simp] theorem State.setQ_free (q : Nat) (v : Queue) : (s.setQ q v).free = s.free := rfl
@[simp] theorem State.setQ_pending (q : Nat) (v : Queue) : (s.setQ q v).pending = s.pending := rfl

@[simp] theorem State.setC_regs (n : Nat) (v : Ctx) : (s.setC n v).regs = s.regs := rfl
@[simp] theorem State.setC_pairs (n : Nat) (v : Ctx) : (s.setC n v).pairs = s.pairs := rfl
@[simp] theorem State.setC_mem (n : Nat) (v : Ctx) : (s.setC n v).mem = s.mem := rfl
@[simp] theorem State.setC_mpart (n : Nat) (v : Ctx) : (s.setC n v).mpart = s.mpart := rfl
@[simp] theorem State.setC_syn (n : Nat) (v : Ctx) : (s.setC n v).syn = s.syn := rfl
@[simp] theorem State.setC_pos (n : Nat) (v : Ctx) : (s.setC n v).pos = s.pos := rfl
@[simp] theorem State.setC_ledger (n : Nat) (v : Ctx) : (s.setC n v).ledger = s.ledger := rfl
@[simp] theorem State.setC_run (n : Nat) (v : Ctx) : (s.setC n v).run = s.run := rfl
@[simp] theorem State.setC_links (n : Nat) (v : Ctx) : (s.setC n v).links = s.links := rfl
@[simp] theorem State.setC_lanes (n : Nat) (v : Ctx) : (s.setC n v).lanes = s.lanes := rfl
@[simp] theorem State.setC_host (n : Nat) (v : Ctx) : (s.setC n v).host = s.host := rfl
@[simp] theorem State.setC_slots (n : Nat) (v : Ctx) : (s.setC n v).slots = s.slots := rfl
@[simp] theorem State.setC_fabKey (n : Nat) (v : Ctx) : (s.setC n v).fabKey = s.fabKey := rfl
@[simp] theorem State.setC_map (n : Nat) (v : Ctx) : (s.setC n v).map = s.map := rfl
@[simp] theorem State.setC_icu (n : Nat) (v : Ctx) : (s.setC n v).icu = s.icu := rfl
@[simp] theorem State.setC_watch (n : Nat) (v : Ctx) : (s.setC n v).watch = s.watch := rfl
@[simp] theorem State.setC_cx (n : Nat) (v : Ctx) : (s.setC n v).cx = s.cx := rfl
@[simp] theorem State.setC_ckpt (n : Nat) (v : Ctx) : (s.setC n v).ckpt = s.ckpt := rfl
@[simp] theorem State.setC_pre (n : Nat) (v : Ctx) : (s.setC n v).pre = s.pre := rfl
@[simp] theorem State.setC_spares (n : Nat) (v : Ctx) : (s.setC n v).spares = s.spares := rfl
@[simp] theorem State.setC_recov (n : Nat) (v : Ctx) : (s.setC n v).recov = s.recov := rfl
@[simp] theorem State.setC_rcv (n : Nat) (v : Ctx) : (s.setC n v).rcv = s.rcv := rfl
@[simp] theorem State.setC_test (n : Nat) (v : Ctx) : (s.setC n v).test = s.test := rfl
@[simp] theorem State.setC_measure (n : Nat) (v : Ctx) : (s.setC n v).measure = s.measure := rfl
@[simp] theorem State.setC_power (n : Nat) (v : Ctx) : (s.setC n v).power = s.power := rfl
@[simp] theorem State.setC_mgmt (n : Nat) (v : Ctx) : (s.setC n v).mgmt = s.mgmt := rfl
@[simp] theorem State.setC_log (n : Nat) (v : Ctx) : (s.setC n v).log = s.log := rfl
@[simp] theorem State.setC_history (n : Nat) (v : Ctx) : (s.setC n v).history = s.history := rfl
@[simp] theorem State.setC_out (n : Nat) (v : Ctx) : (s.setC n v).out = s.out := rfl
@[simp] theorem State.setC_free (n : Nat) (v : Ctx) : (s.setC n v).free = s.free := rfl
@[simp] theorem State.setC_pending (n : Nat) (v : Ctx) : (s.setC n v).pending = s.pending := rfl

@[simp] theorem State.putCtr_regs (c v : Nat) : (s.putCtr c v).regs = s.regs := rfl
@[simp] theorem State.putCtr_pairs (c v : Nat) : (s.putCtr c v).pairs = s.pairs := rfl
@[simp] theorem State.putCtr_mem (c v : Nat) : (s.putCtr c v).mem = s.mem := rfl
@[simp] theorem State.putCtr_mpart (c v : Nat) : (s.putCtr c v).mpart = s.mpart := rfl
@[simp] theorem State.putCtr_que (c v : Nat) : (s.putCtr c v).que = s.que := rfl
@[simp] theorem State.putCtr_pos (c v : Nat) : (s.putCtr c v).pos = s.pos := rfl
@[simp] theorem State.putCtr_ledger (c v : Nat) : (s.putCtr c v).ledger = s.ledger := rfl
@[simp] theorem State.putCtr_run (c v : Nat) : (s.putCtr c v).run = s.run := rfl
@[simp] theorem State.putCtr_links (c v : Nat) : (s.putCtr c v).links = s.links := rfl
@[simp] theorem State.putCtr_lanes (c v : Nat) : (s.putCtr c v).lanes = s.lanes := rfl
@[simp] theorem State.putCtr_host (c v : Nat) : (s.putCtr c v).host = s.host := rfl
@[simp] theorem State.putCtr_slots (c v : Nat) : (s.putCtr c v).slots = s.slots := rfl
@[simp] theorem State.putCtr_fabKey (c v : Nat) : (s.putCtr c v).fabKey = s.fabKey := rfl
@[simp] theorem State.putCtr_map (c v : Nat) : (s.putCtr c v).map = s.map := rfl
@[simp] theorem State.putCtr_icu (c v : Nat) : (s.putCtr c v).icu = s.icu := rfl
@[simp] theorem State.putCtr_watch (c v : Nat) : (s.putCtr c v).watch = s.watch := rfl
@[simp] theorem State.putCtr_cx (c v : Nat) : (s.putCtr c v).cx = s.cx := rfl
@[simp] theorem State.putCtr_ckpt (c v : Nat) : (s.putCtr c v).ckpt = s.ckpt := rfl
@[simp] theorem State.putCtr_pre (c v : Nat) : (s.putCtr c v).pre = s.pre := rfl
@[simp] theorem State.putCtr_spares (c v : Nat) : (s.putCtr c v).spares = s.spares := rfl
@[simp] theorem State.putCtr_recov (c v : Nat) : (s.putCtr c v).recov = s.recov := rfl
@[simp] theorem State.putCtr_rcv (c v : Nat) : (s.putCtr c v).rcv = s.rcv := rfl
@[simp] theorem State.putCtr_test (c v : Nat) : (s.putCtr c v).test = s.test := rfl
@[simp] theorem State.putCtr_measure (c v : Nat) : (s.putCtr c v).measure = s.measure := rfl
@[simp] theorem State.putCtr_power (c v : Nat) : (s.putCtr c v).power = s.power := rfl
@[simp] theorem State.putCtr_mgmt (c v : Nat) : (s.putCtr c v).mgmt = s.mgmt := rfl
@[simp] theorem State.putCtr_log (c v : Nat) : (s.putCtr c v).log = s.log := rfl
@[simp] theorem State.putCtr_history (c v : Nat) : (s.putCtr c v).history = s.history := rfl
@[simp] theorem State.putCtr_out (c v : Nat) : (s.putCtr c v).out = s.out := rfl
@[simp] theorem State.putCtr_free (c v : Nat) : (s.putCtr c v).free = s.free := rfl
@[simp] theorem State.putCtr_pending (c v : Nat) : (s.putCtr c v).pending = s.pending := rfl

@[simp] theorem State.setLink_regs (p : Nat) (v : Link) : (s.setLink p v).regs = s.regs := rfl
@[simp] theorem State.setLink_pairs (p : Nat) (v : Link) : (s.setLink p v).pairs = s.pairs := rfl
@[simp] theorem State.setLink_mem (p : Nat) (v : Link) : (s.setLink p v).mem = s.mem := rfl
@[simp] theorem State.setLink_mpart (p : Nat) (v : Link) : (s.setLink p v).mpart = s.mpart := rfl
@[simp] theorem State.setLink_que (p : Nat) (v : Link) : (s.setLink p v).que = s.que := rfl
@[simp] theorem State.setLink_syn (p : Nat) (v : Link) : (s.setLink p v).syn = s.syn := rfl
@[simp] theorem State.setLink_pos (p : Nat) (v : Link) : (s.setLink p v).pos = s.pos := rfl
@[simp] theorem State.setLink_ledger (p : Nat) (v : Link) : (s.setLink p v).ledger = s.ledger := rfl
@[simp] theorem State.setLink_run (p : Nat) (v : Link) : (s.setLink p v).run = s.run := rfl
@[simp] theorem State.setLink_lanes (p : Nat) (v : Link) : (s.setLink p v).lanes = s.lanes := rfl
@[simp] theorem State.setLink_host (p : Nat) (v : Link) : (s.setLink p v).host = s.host := rfl
@[simp] theorem State.setLink_slots (p : Nat) (v : Link) : (s.setLink p v).slots = s.slots := rfl
@[simp] theorem State.setLink_fabKey (p : Nat) (v : Link) : (s.setLink p v).fabKey = s.fabKey := rfl
@[simp] theorem State.setLink_map (p : Nat) (v : Link) : (s.setLink p v).map = s.map := rfl
@[simp] theorem State.setLink_icu (p : Nat) (v : Link) : (s.setLink p v).icu = s.icu := rfl
@[simp] theorem State.setLink_watch (p : Nat) (v : Link) : (s.setLink p v).watch = s.watch := rfl
@[simp] theorem State.setLink_cx (p : Nat) (v : Link) : (s.setLink p v).cx = s.cx := rfl
@[simp] theorem State.setLink_ckpt (p : Nat) (v : Link) : (s.setLink p v).ckpt = s.ckpt := rfl
@[simp] theorem State.setLink_pre (p : Nat) (v : Link) : (s.setLink p v).pre = s.pre := rfl
@[simp] theorem State.setLink_spares (p : Nat) (v : Link) : (s.setLink p v).spares = s.spares := rfl
@[simp] theorem State.setLink_recov (p : Nat) (v : Link) : (s.setLink p v).recov = s.recov := rfl
@[simp] theorem State.setLink_rcv (p : Nat) (v : Link) : (s.setLink p v).rcv = s.rcv := rfl
@[simp] theorem State.setLink_test (p : Nat) (v : Link) : (s.setLink p v).test = s.test := rfl
@[simp] theorem State.setLink_measure (p : Nat) (v : Link) : (s.setLink p v).measure = s.measure := rfl
@[simp] theorem State.setLink_power (p : Nat) (v : Link) : (s.setLink p v).power = s.power := rfl
@[simp] theorem State.setLink_mgmt (p : Nat) (v : Link) : (s.setLink p v).mgmt = s.mgmt := rfl
@[simp] theorem State.setLink_log (p : Nat) (v : Link) : (s.setLink p v).log = s.log := rfl
@[simp] theorem State.setLink_history (p : Nat) (v : Link) : (s.setLink p v).history = s.history := rfl
@[simp] theorem State.setLink_out (p : Nat) (v : Link) : (s.setLink p v).out = s.out := rfl
@[simp] theorem State.setLink_free (p : Nat) (v : Link) : (s.setLink p v).free = s.free := rfl
@[simp] theorem State.setLink_pending (p : Nat) (v : Link) : (s.setLink p v).pending = s.pending := rfl

@[simp] theorem State.setFlight_regs (f : Flight) : (s.setFlight f).regs = s.regs := rfl
@[simp] theorem State.setFlight_pairs (f : Flight) : (s.setFlight f).pairs = s.pairs := rfl
@[simp] theorem State.setFlight_mem (f : Flight) : (s.setFlight f).mem = s.mem := rfl
@[simp] theorem State.setFlight_mpart (f : Flight) : (s.setFlight f).mpart = s.mpart := rfl
@[simp] theorem State.setFlight_syn (f : Flight) : (s.setFlight f).syn = s.syn := rfl
@[simp] theorem State.setFlight_pos (f : Flight) : (s.setFlight f).pos = s.pos := rfl
@[simp] theorem State.setFlight_ledger (f : Flight) : (s.setFlight f).ledger = s.ledger := rfl
@[simp] theorem State.setFlight_run (f : Flight) : (s.setFlight f).run = s.run := rfl
@[simp] theorem State.setFlight_links (f : Flight) : (s.setFlight f).links = s.links := rfl
@[simp] theorem State.setFlight_lanes (f : Flight) : (s.setFlight f).lanes = s.lanes := rfl
@[simp] theorem State.setFlight_host (f : Flight) : (s.setFlight f).host = s.host := rfl
@[simp] theorem State.setFlight_slots (f : Flight) : (s.setFlight f).slots = s.slots := rfl
@[simp] theorem State.setFlight_fabKey (f : Flight) : (s.setFlight f).fabKey = s.fabKey := rfl
@[simp] theorem State.setFlight_map (f : Flight) : (s.setFlight f).map = s.map := rfl
@[simp] theorem State.setFlight_icu (f : Flight) : (s.setFlight f).icu = s.icu := rfl
@[simp] theorem State.setFlight_watch (f : Flight) : (s.setFlight f).watch = s.watch := rfl
@[simp] theorem State.setFlight_cx (f : Flight) : (s.setFlight f).cx = s.cx := rfl
@[simp] theorem State.setFlight_ckpt (f : Flight) : (s.setFlight f).ckpt = s.ckpt := rfl
@[simp] theorem State.setFlight_pre (f : Flight) : (s.setFlight f).pre = s.pre := rfl
@[simp] theorem State.setFlight_spares (f : Flight) : (s.setFlight f).spares = s.spares := rfl
@[simp] theorem State.setFlight_recov (f : Flight) : (s.setFlight f).recov = s.recov := rfl
@[simp] theorem State.setFlight_rcv (f : Flight) : (s.setFlight f).rcv = s.rcv := rfl
@[simp] theorem State.setFlight_test (f : Flight) : (s.setFlight f).test = s.test := rfl
@[simp] theorem State.setFlight_measure (f : Flight) : (s.setFlight f).measure = s.measure := rfl
@[simp] theorem State.setFlight_power (f : Flight) : (s.setFlight f).power = s.power := rfl
@[simp] theorem State.setFlight_mgmt (f : Flight) : (s.setFlight f).mgmt = s.mgmt := rfl
@[simp] theorem State.setFlight_log (f : Flight) : (s.setFlight f).log = s.log := rfl
@[simp] theorem State.setFlight_history (f : Flight) : (s.setFlight f).history = s.history := rfl
@[simp] theorem State.setFlight_out (f : Flight) : (s.setFlight f).out = s.out := rfl
@[simp] theorem State.setFlight_free (f : Flight) : (s.setFlight f).free = s.free := rfl
@[simp] theorem State.setFlight_pending (f : Flight) : (s.setFlight f).pending = s.pending := rfl

@[simp] theorem State.dropFlight_regs (r : Nat) : (s.dropFlight r).regs = s.regs := rfl
@[simp] theorem State.dropFlight_pairs (r : Nat) : (s.dropFlight r).pairs = s.pairs := rfl
@[simp] theorem State.dropFlight_mem (r : Nat) : (s.dropFlight r).mem = s.mem := rfl
@[simp] theorem State.dropFlight_mpart (r : Nat) : (s.dropFlight r).mpart = s.mpart := rfl
@[simp] theorem State.dropFlight_syn (r : Nat) : (s.dropFlight r).syn = s.syn := rfl
@[simp] theorem State.dropFlight_pos (r : Nat) : (s.dropFlight r).pos = s.pos := rfl
@[simp] theorem State.dropFlight_ledger (r : Nat) : (s.dropFlight r).ledger = s.ledger := rfl
@[simp] theorem State.dropFlight_run (r : Nat) : (s.dropFlight r).run = s.run := rfl
@[simp] theorem State.dropFlight_links (r : Nat) : (s.dropFlight r).links = s.links := rfl
@[simp] theorem State.dropFlight_lanes (r : Nat) : (s.dropFlight r).lanes = s.lanes := rfl
@[simp] theorem State.dropFlight_host (r : Nat) : (s.dropFlight r).host = s.host := rfl
@[simp] theorem State.dropFlight_slots (r : Nat) : (s.dropFlight r).slots = s.slots := rfl
@[simp] theorem State.dropFlight_fabKey (r : Nat) : (s.dropFlight r).fabKey = s.fabKey := rfl
@[simp] theorem State.dropFlight_map (r : Nat) : (s.dropFlight r).map = s.map := rfl
@[simp] theorem State.dropFlight_icu (r : Nat) : (s.dropFlight r).icu = s.icu := rfl
@[simp] theorem State.dropFlight_watch (r : Nat) : (s.dropFlight r).watch = s.watch := rfl
@[simp] theorem State.dropFlight_cx (r : Nat) : (s.dropFlight r).cx = s.cx := rfl
@[simp] theorem State.dropFlight_ckpt (r : Nat) : (s.dropFlight r).ckpt = s.ckpt := rfl
@[simp] theorem State.dropFlight_pre (r : Nat) : (s.dropFlight r).pre = s.pre := rfl
@[simp] theorem State.dropFlight_spares (r : Nat) : (s.dropFlight r).spares = s.spares := rfl
@[simp] theorem State.dropFlight_recov (r : Nat) : (s.dropFlight r).recov = s.recov := rfl
@[simp] theorem State.dropFlight_rcv (r : Nat) : (s.dropFlight r).rcv = s.rcv := rfl
@[simp] theorem State.dropFlight_test (r : Nat) : (s.dropFlight r).test = s.test := rfl
@[simp] theorem State.dropFlight_measure (r : Nat) : (s.dropFlight r).measure = s.measure := rfl
@[simp] theorem State.dropFlight_power (r : Nat) : (s.dropFlight r).power = s.power := rfl
@[simp] theorem State.dropFlight_mgmt (r : Nat) : (s.dropFlight r).mgmt = s.mgmt := rfl
@[simp] theorem State.dropFlight_log (r : Nat) : (s.dropFlight r).log = s.log := rfl
@[simp] theorem State.dropFlight_history (r : Nat) : (s.dropFlight r).history = s.history := rfl
@[simp] theorem State.dropFlight_out (r : Nat) : (s.dropFlight r).out = s.out := rfl
@[simp] theorem State.dropFlight_free (r : Nat) : (s.dropFlight r).free = s.free := rfl
@[simp] theorem State.dropFlight_pending (r : Nat) : (s.dropFlight r).pending = s.pending := rfl

@[simp] theorem State.emit_regs (m : OutMsg) : (s.emit m).regs = s.regs := rfl
@[simp] theorem State.emit_pairs (m : OutMsg) : (s.emit m).pairs = s.pairs := rfl
@[simp] theorem State.emit_mem (m : OutMsg) : (s.emit m).mem = s.mem := rfl
@[simp] theorem State.emit_mpart (m : OutMsg) : (s.emit m).mpart = s.mpart := rfl
@[simp] theorem State.emit_que (m : OutMsg) : (s.emit m).que = s.que := rfl
@[simp] theorem State.emit_syn (m : OutMsg) : (s.emit m).syn = s.syn := rfl
@[simp] theorem State.emit_pos (m : OutMsg) : (s.emit m).pos = s.pos := rfl
@[simp] theorem State.emit_ledger (m : OutMsg) : (s.emit m).ledger = s.ledger := rfl
@[simp] theorem State.emit_run (m : OutMsg) : (s.emit m).run = s.run := rfl
@[simp] theorem State.emit_links (m : OutMsg) : (s.emit m).links = s.links := rfl
@[simp] theorem State.emit_lanes (m : OutMsg) : (s.emit m).lanes = s.lanes := rfl
@[simp] theorem State.emit_host (m : OutMsg) : (s.emit m).host = s.host := rfl
@[simp] theorem State.emit_slots (m : OutMsg) : (s.emit m).slots = s.slots := rfl
@[simp] theorem State.emit_fabKey (m : OutMsg) : (s.emit m).fabKey = s.fabKey := rfl
@[simp] theorem State.emit_map (m : OutMsg) : (s.emit m).map = s.map := rfl
@[simp] theorem State.emit_icu (m : OutMsg) : (s.emit m).icu = s.icu := rfl
@[simp] theorem State.emit_watch (m : OutMsg) : (s.emit m).watch = s.watch := rfl
@[simp] theorem State.emit_cx (m : OutMsg) : (s.emit m).cx = s.cx := rfl
@[simp] theorem State.emit_ckpt (m : OutMsg) : (s.emit m).ckpt = s.ckpt := rfl
@[simp] theorem State.emit_pre (m : OutMsg) : (s.emit m).pre = s.pre := rfl
@[simp] theorem State.emit_spares (m : OutMsg) : (s.emit m).spares = s.spares := rfl
@[simp] theorem State.emit_recov (m : OutMsg) : (s.emit m).recov = s.recov := rfl
@[simp] theorem State.emit_rcv (m : OutMsg) : (s.emit m).rcv = s.rcv := rfl
@[simp] theorem State.emit_test (m : OutMsg) : (s.emit m).test = s.test := rfl
@[simp] theorem State.emit_measure (m : OutMsg) : (s.emit m).measure = s.measure := rfl
@[simp] theorem State.emit_power (m : OutMsg) : (s.emit m).power = s.power := rfl
@[simp] theorem State.emit_mgmt (m : OutMsg) : (s.emit m).mgmt = s.mgmt := rfl
@[simp] theorem State.emit_log (m : OutMsg) : (s.emit m).log = s.log := rfl
@[simp] theorem State.emit_history (m : OutMsg) : (s.emit m).history = s.history := rfl
@[simp] theorem State.emit_free (m : OutMsg) : (s.emit m).free = s.free := rfl
@[simp] theorem State.emit_pending (m : OutMsg) : (s.emit m).pending = s.pending := rfl

@[simp] theorem State.logRec_regs (c n d : Nat) : (s.logRec c n d).regs = s.regs := rfl
@[simp] theorem State.logRec_pairs (c n d : Nat) : (s.logRec c n d).pairs = s.pairs := rfl
@[simp] theorem State.logRec_mem (c n d : Nat) : (s.logRec c n d).mem = s.mem := rfl
@[simp] theorem State.logRec_mpart (c n d : Nat) : (s.logRec c n d).mpart = s.mpart := rfl
@[simp] theorem State.logRec_que (c n d : Nat) : (s.logRec c n d).que = s.que := rfl
@[simp] theorem State.logRec_syn (c n d : Nat) : (s.logRec c n d).syn = s.syn := rfl
@[simp] theorem State.logRec_pos (c n d : Nat) : (s.logRec c n d).pos = s.pos := rfl
@[simp] theorem State.logRec_ledger (c n d : Nat) : (s.logRec c n d).ledger = s.ledger := rfl
@[simp] theorem State.logRec_run (c n d : Nat) : (s.logRec c n d).run = s.run := rfl
@[simp] theorem State.logRec_links (c n d : Nat) : (s.logRec c n d).links = s.links := rfl
@[simp] theorem State.logRec_lanes (c n d : Nat) : (s.logRec c n d).lanes = s.lanes := rfl
@[simp] theorem State.logRec_host (c n d : Nat) : (s.logRec c n d).host = s.host := rfl
@[simp] theorem State.logRec_slots (c n d : Nat) : (s.logRec c n d).slots = s.slots := rfl
@[simp] theorem State.logRec_fabKey (c n d : Nat) : (s.logRec c n d).fabKey = s.fabKey := rfl
@[simp] theorem State.logRec_map (c n d : Nat) : (s.logRec c n d).map = s.map := rfl
@[simp] theorem State.logRec_icu (c n d : Nat) : (s.logRec c n d).icu = s.icu := rfl
@[simp] theorem State.logRec_watch (c n d : Nat) : (s.logRec c n d).watch = s.watch := rfl
@[simp] theorem State.logRec_cx (c n d : Nat) : (s.logRec c n d).cx = s.cx := rfl
@[simp] theorem State.logRec_ckpt (c n d : Nat) : (s.logRec c n d).ckpt = s.ckpt := rfl
@[simp] theorem State.logRec_pre (c n d : Nat) : (s.logRec c n d).pre = s.pre := rfl
@[simp] theorem State.logRec_spares (c n d : Nat) : (s.logRec c n d).spares = s.spares := rfl
@[simp] theorem State.logRec_recov (c n d : Nat) : (s.logRec c n d).recov = s.recov := rfl
@[simp] theorem State.logRec_rcv (c n d : Nat) : (s.logRec c n d).rcv = s.rcv := rfl
@[simp] theorem State.logRec_test (c n d : Nat) : (s.logRec c n d).test = s.test := rfl
@[simp] theorem State.logRec_measure (c n d : Nat) : (s.logRec c n d).measure = s.measure := rfl
@[simp] theorem State.logRec_power (c n d : Nat) : (s.logRec c n d).power = s.power := rfl
@[simp] theorem State.logRec_mgmt (c n d : Nat) : (s.logRec c n d).mgmt = s.mgmt := rfl
@[simp] theorem State.logRec_history (c n d : Nat) : (s.logRec c n d).history = s.history := rfl
@[simp] theorem State.logRec_out (c n d : Nat) : (s.logRec c n d).out = s.out := rfl
@[simp] theorem State.logRec_free (c n d : Nat) : (s.logRec c n d).free = s.free := rfl
@[simp] theorem State.logRec_pending (c n d : Nat) : (s.logRec c n d).pending = s.pending := rfl

@[simp] theorem State.setGrp_regs (g : Nat) (v : Group) : (s.setGrp g v).regs = s.regs := rfl
@[simp] theorem State.setGrp_pairs (g : Nat) (v : Group) : (s.setGrp g v).pairs = s.pairs := rfl
@[simp] theorem State.setGrp_mem (g : Nat) (v : Group) : (s.setGrp g v).mem = s.mem := rfl
@[simp] theorem State.setGrp_mpart (g : Nat) (v : Group) : (s.setGrp g v).mpart = s.mpart := rfl
@[simp] theorem State.setGrp_que (g : Nat) (v : Group) : (s.setGrp g v).que = s.que := rfl
@[simp] theorem State.setGrp_syn (g : Nat) (v : Group) : (s.setGrp g v).syn = s.syn := rfl
@[simp] theorem State.setGrp_pos (g : Nat) (v : Group) : (s.setGrp g v).pos = s.pos := rfl
@[simp] theorem State.setGrp_ledger (g : Nat) (v : Group) : (s.setGrp g v).ledger = s.ledger := rfl
@[simp] theorem State.setGrp_run (g : Nat) (v : Group) : (s.setGrp g v).run = s.run := rfl
@[simp] theorem State.setGrp_links (g : Nat) (v : Group) : (s.setGrp g v).links = s.links := rfl
@[simp] theorem State.setGrp_lanes (g : Nat) (v : Group) : (s.setGrp g v).lanes = s.lanes := rfl
@[simp] theorem State.setGrp_host (g : Nat) (v : Group) : (s.setGrp g v).host = s.host := rfl
@[simp] theorem State.setGrp_slots (g : Nat) (v : Group) : (s.setGrp g v).slots = s.slots := rfl
@[simp] theorem State.setGrp_fabKey (g : Nat) (v : Group) : (s.setGrp g v).fabKey = s.fabKey := rfl
@[simp] theorem State.setGrp_map (g : Nat) (v : Group) : (s.setGrp g v).map = s.map := rfl
@[simp] theorem State.setGrp_watch (g : Nat) (v : Group) : (s.setGrp g v).watch = s.watch := rfl
@[simp] theorem State.setGrp_cx (g : Nat) (v : Group) : (s.setGrp g v).cx = s.cx := rfl
@[simp] theorem State.setGrp_ckpt (g : Nat) (v : Group) : (s.setGrp g v).ckpt = s.ckpt := rfl
@[simp] theorem State.setGrp_pre (g : Nat) (v : Group) : (s.setGrp g v).pre = s.pre := rfl
@[simp] theorem State.setGrp_spares (g : Nat) (v : Group) : (s.setGrp g v).spares = s.spares := rfl
@[simp] theorem State.setGrp_recov (g : Nat) (v : Group) : (s.setGrp g v).recov = s.recov := rfl
@[simp] theorem State.setGrp_rcv (g : Nat) (v : Group) : (s.setGrp g v).rcv = s.rcv := rfl
@[simp] theorem State.setGrp_test (g : Nat) (v : Group) : (s.setGrp g v).test = s.test := rfl
@[simp] theorem State.setGrp_measure (g : Nat) (v : Group) : (s.setGrp g v).measure = s.measure := rfl
@[simp] theorem State.setGrp_power (g : Nat) (v : Group) : (s.setGrp g v).power = s.power := rfl
@[simp] theorem State.setGrp_mgmt (g : Nat) (v : Group) : (s.setGrp g v).mgmt = s.mgmt := rfl
@[simp] theorem State.setGrp_log (g : Nat) (v : Group) : (s.setGrp g v).log = s.log := rfl
@[simp] theorem State.setGrp_history (g : Nat) (v : Group) : (s.setGrp g v).history = s.history := rfl
@[simp] theorem State.setGrp_out (g : Nat) (v : Group) : (s.setGrp g v).out = s.out := rfl
@[simp] theorem State.setGrp_free (g : Nat) (v : Group) : (s.setGrp g v).free = s.free := rfl
@[simp] theorem State.setGrp_pending (g : Nat) (v : Group) : (s.setGrp g v).pending = s.pending := rfl

@[simp] theorem State.setTarget_regs (t : Nat) (v : Target) : (s.setTarget t v).regs = s.regs := rfl
@[simp] theorem State.setTarget_pairs (t : Nat) (v : Target) : (s.setTarget t v).pairs = s.pairs := rfl
@[simp] theorem State.setTarget_mem (t : Nat) (v : Target) : (s.setTarget t v).mem = s.mem := rfl
@[simp] theorem State.setTarget_mpart (t : Nat) (v : Target) : (s.setTarget t v).mpart = s.mpart := rfl
@[simp] theorem State.setTarget_que (t : Nat) (v : Target) : (s.setTarget t v).que = s.que := rfl
@[simp] theorem State.setTarget_syn (t : Nat) (v : Target) : (s.setTarget t v).syn = s.syn := rfl
@[simp] theorem State.setTarget_pos (t : Nat) (v : Target) : (s.setTarget t v).pos = s.pos := rfl
@[simp] theorem State.setTarget_ledger (t : Nat) (v : Target) : (s.setTarget t v).ledger = s.ledger := rfl
@[simp] theorem State.setTarget_run (t : Nat) (v : Target) : (s.setTarget t v).run = s.run := rfl
@[simp] theorem State.setTarget_links (t : Nat) (v : Target) : (s.setTarget t v).links = s.links := rfl
@[simp] theorem State.setTarget_lanes (t : Nat) (v : Target) : (s.setTarget t v).lanes = s.lanes := rfl
@[simp] theorem State.setTarget_host (t : Nat) (v : Target) : (s.setTarget t v).host = s.host := rfl
@[simp] theorem State.setTarget_slots (t : Nat) (v : Target) : (s.setTarget t v).slots = s.slots := rfl
@[simp] theorem State.setTarget_fabKey (t : Nat) (v : Target) : (s.setTarget t v).fabKey = s.fabKey := rfl
@[simp] theorem State.setTarget_map (t : Nat) (v : Target) : (s.setTarget t v).map = s.map := rfl
@[simp] theorem State.setTarget_watch (t : Nat) (v : Target) : (s.setTarget t v).watch = s.watch := rfl
@[simp] theorem State.setTarget_cx (t : Nat) (v : Target) : (s.setTarget t v).cx = s.cx := rfl
@[simp] theorem State.setTarget_ckpt (t : Nat) (v : Target) : (s.setTarget t v).ckpt = s.ckpt := rfl
@[simp] theorem State.setTarget_pre (t : Nat) (v : Target) : (s.setTarget t v).pre = s.pre := rfl
@[simp] theorem State.setTarget_spares (t : Nat) (v : Target) : (s.setTarget t v).spares = s.spares := rfl
@[simp] theorem State.setTarget_recov (t : Nat) (v : Target) : (s.setTarget t v).recov = s.recov := rfl
@[simp] theorem State.setTarget_rcv (t : Nat) (v : Target) : (s.setTarget t v).rcv = s.rcv := rfl
@[simp] theorem State.setTarget_test (t : Nat) (v : Target) : (s.setTarget t v).test = s.test := rfl
@[simp] theorem State.setTarget_measure (t : Nat) (v : Target) : (s.setTarget t v).measure = s.measure := rfl
@[simp] theorem State.setTarget_power (t : Nat) (v : Target) : (s.setTarget t v).power = s.power := rfl
@[simp] theorem State.setTarget_mgmt (t : Nat) (v : Target) : (s.setTarget t v).mgmt = s.mgmt := rfl
@[simp] theorem State.setTarget_log (t : Nat) (v : Target) : (s.setTarget t v).log = s.log := rfl
@[simp] theorem State.setTarget_history (t : Nat) (v : Target) : (s.setTarget t v).history = s.history := rfl
@[simp] theorem State.setTarget_out (t : Nat) (v : Target) : (s.setTarget t v).out = s.out := rfl
@[simp] theorem State.setTarget_free (t : Nat) (v : Target) : (s.setTarget t v).free = s.free := rfl
@[simp] theorem State.setTarget_pending (t : Nat) (v : Target) : (s.setTarget t v).pending = s.pending := rfl

@[simp] theorem State.setQ_que_swept (q : Nat) (v : Queue) : (s.setQ q v).que.swept = s.que.swept := rfl
@[simp] theorem State.setQ_que_ctxs (q : Nat) (v : Queue) : (s.setQ q v).que.ctxs = s.que.ctxs := rfl
@[simp] theorem State.setQ_que_rr (q : Nat) (v : Queue) : (s.setQ q v).que.rr = s.que.rr := rfl
@[simp] theorem State.setQ_que_flights (q : Nat) (v : Queue) : (s.setQ q v).que.flights = s.que.flights := rfl
@[simp] theorem State.setQ_que_nextRid (q : Nat) (v : Queue) : (s.setQ q v).que.nextRid = s.que.nextRid := rfl

@[simp] theorem State.setC_que_queues (n : Nat) (v : Ctx) : (s.setC n v).que.queues = s.que.queues := rfl
@[simp] theorem State.setC_que_swept (n : Nat) (v : Ctx) : (s.setC n v).que.swept = s.que.swept := rfl
@[simp] theorem State.setC_que_rr (n : Nat) (v : Ctx) : (s.setC n v).que.rr = s.que.rr := rfl
@[simp] theorem State.setC_que_flights (n : Nat) (v : Ctx) : (s.setC n v).que.flights = s.que.flights := rfl
@[simp] theorem State.setC_que_nextRid (n : Nat) (v : Ctx) : (s.setC n v).que.nextRid = s.que.nextRid := rfl

@[simp] theorem State.setFlight_que_queues (f : Flight) : (s.setFlight f).que.queues = s.que.queues := rfl
@[simp] theorem State.setFlight_que_swept (f : Flight) : (s.setFlight f).que.swept = s.que.swept := rfl
@[simp] theorem State.setFlight_que_ctxs (f : Flight) : (s.setFlight f).que.ctxs = s.que.ctxs := rfl
@[simp] theorem State.setFlight_que_rr (f : Flight) : (s.setFlight f).que.rr = s.que.rr := rfl
@[simp] theorem State.setFlight_que_nextRid (f : Flight) : (s.setFlight f).que.nextRid = s.que.nextRid := rfl

@[simp] theorem State.dropFlight_que_queues (r : Nat) : (s.dropFlight r).que.queues = s.que.queues := rfl
@[simp] theorem State.dropFlight_que_swept (r : Nat) : (s.dropFlight r).que.swept = s.que.swept := rfl
@[simp] theorem State.dropFlight_que_ctxs (r : Nat) : (s.dropFlight r).que.ctxs = s.que.ctxs := rfl
@[simp] theorem State.dropFlight_que_rr (r : Nat) : (s.dropFlight r).que.rr = s.que.rr := rfl
@[simp] theorem State.dropFlight_que_nextRid (r : Nat) : (s.dropFlight r).que.nextRid = s.que.nextRid := rfl

@[simp] theorem State.setGrp_icu_src (g : Nat) (v : Group) : (s.setGrp g v).icu.src = s.icu.src := rfl
@[simp] theorem State.setGrp_icu_targets (g : Nat) (v : Group) : (s.setGrp g v).icu.targets = s.icu.targets := rfl
@[simp] theorem State.setTarget_icu_src (t : Nat) (v : Target) : (s.setTarget t v).icu.src = s.icu.src := rfl
@[simp] theorem State.setTarget_icu_groups (t : Nat) (v : Target) : (s.setTarget t v).icu.groups = s.icu.groups := rfl
@[simp] theorem State.putCtr_syn_bound (c v : Nat) : (s.putCtr c v).syn.bound = s.syn.bound := rfl
@[simp] theorem State.putCtr_syn_held (c v : Nat) : (s.putCtr c v).syn.held = s.syn.held := rfl

end Sys2Proof.Machine
end

