-- ==== Sys2Proof/Laws/Table.lean ====
section
/-! SUPPORT. The laws of sparse tables: reading after writing, and the canonical form, which every table operation keeps. -/
namespace Sys2Proof.Machine

variable {V : Type}

theorem tget_tput_same (dflt : Nat → V) (t : Tbl V) (k : Nat) (v : V) : tget dflt (tput t k v) k = v := by
  induction t with
  | nil => simp [tput, tget]
  | cons p t ih =>
    obtain ⟨j, w⟩ := p
    simp only [tput]
    split
    · simp [tget]
    · split
      · simp [tget]
      · next h => simp [tget, h, ih]

theorem tget_tput_other (dflt : Nat → V) (t : Tbl V) {k j : Nat} (v : V) (h : j ≠ k) :
    tget dflt (tput t k v) j = tget dflt t j := by
  induction t with
  | nil => simp [tput, tget, h]
  | cons p t ih =>
    obtain ⟨i, w⟩ := p
    simp only [tput]
    split
    · simp [tget, h]
    · split
      · next e => subst e; simp [tget, h]
      · simp [tget, ih]

theorem tget_tdel_other (dflt : Nat → V) (t : Tbl V) {k j : Nat} (h : j ≠ k) : tget dflt (tdel t k) j = tget dflt t j := by
  induction t with
  | nil => rfl
  | cons p t ih =>
    obtain ⟨i, w⟩ := p
    simp only [tdel]
    split
    · next e => subst e; simp [tget, h, ih]
    · simp [tget, ih]

/-- A deleted key reads as the default. -/
theorem tget_tdel_same (dflt : Nat → V) (t : Tbl V) (k : Nat) : tget dflt (tdel t k) k = dflt k := by
  induction t with
  | nil => rfl
  | cons p t ih =>
    obtain ⟨j, v⟩ := p
    simp only [tdel]
    split
    · exact ih
    · next e => simp [tget, e, ih]

/-- A key below every listed one reads as the default. -/
theorem tget_below (dflt : Nat → V) (t : Tbl V) (b k : Nat) (h : trising (some b) t = true) (hk : k ≤ b) : tget dflt t k = dflt k := by
  induction t generalizing b with
  | nil => rfl
  | cons p t ih =>
    obtain ⟨j, v⟩ := p
    simp only [trising, Bool.and_eq_true, decide_eq_true_eq] at h
    have hj : k ≠ j := by omega
    simp [tget, hj, ih j h.2 (by omega)]

theorem trising_weaken {a b : Nat} (t : Tbl V) (hab : a ≤ b) (h : trising (some b) t = true) : trising (some a) t = true := by
  cases t with
  | nil => rfl
  | cons p t =>
    simp only [trising, Bool.and_eq_true, decide_eq_true_eq] at h ⊢
    exact ⟨by omega, h.2⟩

theorem trising_none {b : Nat} (t : Tbl V) (h : trising (some b) t = true) : trising none t = true := by
  cases t with
  | nil => rfl
  | cons p t => simp only [trising, Bool.and_eq_true] at h ⊢; exact h.2

variable [DecidableEq V]

/-- A written key reads what was written. -/
theorem tget_tset_same (dflt : Nat → V) (t : Tbl V) (k : Nat) (v : V) : tget dflt (tset dflt t k v) k = v := by
  simp only [tset]
  split
  · next e => rw [tget_tdel_same, e]
  · exact tget_tput_same dflt t k v

/-- Every other key reads as before. -/
theorem tget_tset_other (dflt : Nat → V) (t : Tbl V) {k j : Nat} (v : V) (h : j ≠ k) : tget dflt (tset dflt t k v) j = tget dflt t j := by
  simp only [tset]
  split
  · exact tget_tdel_other dflt t h
  · exact tget_tput_other dflt t v h

omit [DecidableEq V] in
theorem mem_tdel {t : Tbl V} {k : Nat} {p : Nat × V} (h : p ∈ tdel t k) : p ∈ t := by
  induction t with
  | nil => exact h
  | cons q t ih =>
    simp only [tdel] at h
    split at h
    · exact List.mem_cons_of_mem _ (ih h)
    · rcases List.mem_cons.1 h with h | h
      · exact h ▸ List.mem_cons_self
      · exact List.mem_cons_of_mem _ (ih h)

omit [DecidableEq V] in
theorem mem_tput {t : Tbl V} {k : Nat} {v : V} {p : Nat × V} (h : p ∈ tput t k v) : p ∈ t ∨ p = (k, v) := by
  induction t with
  | nil => simp only [tput, List.mem_singleton] at h; exact .inr h
  | cons q t ih =>
    simp only [tput] at h
    split at h
    · rcases List.mem_cons.1 h with h | h
      · exact .inr h
      · exact .inl h
    · split at h
      · rcases List.mem_cons.1 h with h | h
        · exact .inr h
        · exact .inl (List.mem_cons_of_mem _ h)
      · rcases List.mem_cons.1 h with h | h
        · exact .inl (h ▸ List.mem_cons_self)
        · rcases ih h with h | h
          · exact .inl (List.mem_cons_of_mem _ h)
          · exact .inr h

omit [DecidableEq V] in
theorem trising_tdel (t : Tbl V) (k : Nat) (o : Option Nat) (h : trising o t = true) : trising o (tdel t k) = true := by
  induction t generalizing o with
  | nil => exact h
  | cons p t ih =>
    obtain ⟨j, v⟩ := p
    have ht : trising (some j) t = true := by cases o <;> simp_all [trising]
    simp only [tdel]
    split
    · cases o with
      | none => exact trising_none _ (ih (some j) ht)
      | some b =>
        simp only [trising, Bool.and_eq_true, decide_eq_true_eq] at h
        exact trising_weaken _ (by omega) (ih (some j) ht)
    · cases o with
      | none => simpa [trising] using ih (some j) ht
      | some b =>
        simp only [trising, Bool.and_eq_true, decide_eq_true_eq] at h ⊢
        exact ⟨h.1, ih (some j) ht⟩

omit [DecidableEq V] in
theorem trising_tput (t : Tbl V) (k : Nat) (v : V) (o : Option Nat) (h : trising o t = true) (ho : ∀ b, o = some b → b < k) :
    trising o (tput t k v) = true := by
  induction t generalizing o with
  | nil => cases o <;> simp_all [tput, trising]
  | cons p t ih =>
    obtain ⟨j, w⟩ := p
    have ht : trising (some j) t = true := by cases o <;> simp_all [trising]
    simp only [tput]
    split
    · next e => cases o <;> simp_all [trising]
    · split
      · next e => subst e; cases o <;> simp_all [trising]
      · next e1 e2 =>
        have hk := ih (some j) ht (by intro b hb; cases hb; omega)
        cases o <;> simp_all [trising]

/-- Writing keeps the canonical form. -/
theorem twf_tset (dflt : Nat → V) (t : Tbl V) (k : Nat) (v : V) (h : twf dflt t = true) : twf dflt (tset dflt t k v) = true := by
  simp only [twf, Bool.and_eq_true, List.all_eq_true, decide_eq_true_eq] at h ⊢
  simp only [tset]
  split
  · exact ⟨trising_tdel t k none h.1, fun p hp => h.2 p (mem_tdel hp)⟩
  · next e =>
    refine ⟨trising_tput t k v none h.1 (by simp), fun p hp => ?_⟩
    rcases mem_tput hp with hp | hp
    · exact h.2 p hp
    · subst hp; exact e

omit [DecidableEq V] in
theorem trising_filter (t : Tbl V) (p : Nat × V → Bool) (o : Option Nat) (h : trising o t = true) : trising o (t.filter p) = true := by
  induction t generalizing o with
  | nil => exact h
  | cons q t ih =>
    obtain ⟨j, v⟩ := q
    have ht : trising (some j) t = true := by cases o <;> simp_all [trising]
    simp only [List.filter_cons]
    split
    · cases o with
      | none => simpa [trising] using ih (some j) ht
      | some b =>
        simp only [trising, Bool.and_eq_true, decide_eq_true_eq] at h ⊢
        exact ⟨h.1, ih (some j) ht⟩
    · cases o with
      | none => exact trising_none _ (ih (some j) ht)
      | some b =>
        simp only [trising, Bool.and_eq_true, decide_eq_true_eq] at h
        exact trising_weaken _ (by omega) (ih (some j) ht)

/-- Clearing a range keeps the canonical form. -/
theorem twf_tclear (dflt : Nat → V) (t : Tbl V) (p : Nat → Bool) (h : twf dflt t = true) : twf dflt (tclear t p) = true := by
  simp only [twf, Bool.and_eq_true, List.all_eq_true, decide_eq_true_eq] at h ⊢
  exact ⟨trising_filter t _ none h.1, fun q hq => h.2 q (List.mem_filter.1 hq).1⟩

/-- Equal readings of tables in canonical form are equal tables. -/
theorem twf_ext (dflt : Nat → V) (t u : Tbl V) (ht : twf dflt t = true) (hu : twf dflt u = true) (h : ∀ k, tget dflt t k = tget dflt u k) : t = u := by
  simp only [twf, Bool.and_eq_true, List.all_eq_true, decide_eq_true_eq] at ht hu
  suffices H : ∀ (o : Option Nat) (t u : Tbl V), trising o t = true → trising o u = true → (∀ p ∈ t, p.2 ≠ dflt p.1) → (∀ p ∈ u, p.2 ≠ dflt p.1) →
      (∀ k, tget dflt t k = tget dflt u k) → t = u from H none t u ht.1 hu.1 ht.2 hu.2 h
  intro o t
  induction t generalizing o with
  | nil =>
    intro u _ hu _ hu2 h
    cases u with
    | nil => rfl
    | cons q u =>
      obtain ⟨j, v⟩ := q
      exact absurd (by simpa [tget] using (h j).symm) (hu2 (j, v) List.mem_cons_self)
  | cons p t ih =>
    obtain ⟨i, w⟩ := p
    intro u ht hu ht2 hu2 h
    have ht' : trising (some i) t = true := by cases o <;> simp_all [trising]
    cases u with
    | nil => exact absurd (by simpa [tget] using h i) (ht2 (i, w) List.mem_cons_self)
    | cons q u =>
      obtain ⟨j, v⟩ := q
      have hu' : trising (some j) u = true := by cases o <;> simp_all [trising]
      have hij : i = j := by
        rcases Nat.lt_trichotomy i j with hlt | heq | hgt
        · exfalso
          have := h i
          rw [tget_below dflt ((j, v) :: u) i i (by simp [trising, hlt, hu']) (Nat.le_refl i)] at this
          exact ht2 (i, w) List.mem_cons_self (by simpa [tget] using this)
        · exact heq
        · exfalso
          have := h j
          rw [tget_below dflt ((i, w) :: t) j j (by simp [trising, hgt, ht']) (Nat.le_refl j)] at this
          exact hu2 (j, v) List.mem_cons_self (by simpa [tget] using this.symm)
      subst hij
      have hwv : w = v := by simpa [tget] using h i
      subst hwv
      have := ih (some i) u ht' hu' (fun p hp => ht2 p (List.mem_cons_of_mem _ hp)) (fun p hp => hu2 p (List.mem_cons_of_mem _ hp)) (by
        intro k
        rcases Nat.lt_or_ge i k with hk | hk
        · have := h k
          have hne : k ≠ i := by omega
          simpa [tget, hne] using this
        · rw [tget_below dflt t i k ht' hk, tget_below dflt u i k hu' hk])
      rw [this]

/-- A value that a table reads as is listed, or is the default. -/
theorem tget_mem (dflt : Nat → V) (t : Tbl V) (k : Nat) : tget dflt t k = dflt k ∨ (k, tget dflt t k) ∈ t := by
  induction t with
  | nil => exact .inl rfl
  | cons p t ih =>
    obtain ⟨j, v⟩ := p
    simp only [tget]
    split
    · next e => subst e; exact .inr List.mem_cons_self
    · exact ih.imp id (List.mem_cons_of_mem _)

theorem mem_tset [DecidableEq V] {dflt : Nat → V} {t : Tbl V} {k : Nat} {v : V} {p : Nat × V} (h : p ∈ tset dflt t k v) : p ∈ t ∨ p = (k, v) := by
  unfold tset at h
  split at h
  · exact .inl (mem_tdel h)
  · exact mem_tput h

end Sys2Proof.Machine
end

