-- ==== Sys2Proof/Laws/Reads.lean ====
section
/-! SUPPORT. Reading after writing: registers and their fields, memory bytes, queues, contexts, counters, records in flight; and the canonical
form of the memory, which every store keeps. -/
namespace Sys2Proof.Machine

variable (s : State)

/-! ### Registers -/

@[simp] theorem State.rd_wr_same (k v : Nat) : (s.wr k v).rd k = v % 2 ^ 32 := by
  simp [State.rd, State.wr, tget_tset_same]

theorem State.rd_wr_other {k j : Nat} (v : Nat) (h : j ≠ k) : (s.wr k v).rd j = s.rd j := by
  simp [State.rd, State.wr, tget_tset_other _ _ _ h]

theorem State.rd_wr (k j v : Nat) : (s.wr k v).rd j = if j = k then v % 2 ^ 32 else s.rd j := by
  split
  · next h => subst h; exact s.rd_wr_same _ _
  · next h => exact s.rd_wr_other v h

theorem State.rd_lt (k : Nat) : s.rd k < 2 ^ 32 := by
  simp only [State.rd]; exact BitVec.isLt _

theorem bits_lt (n hi lo : Nat) : bits n hi lo < 2 ^ (hi + 1 - lo) := Nat.mod_lt _ (Nat.two_pow_pos _)

/-- A field that is replaced reads as the new value, cut to its width. -/
theorem bits_setBits_same (n hi lo v : Nat) : bits (setBits n hi lo v) hi lo = v % 2 ^ (hi + 1 - lo) := by
  simp only [bits, setBits]
  generalize hw : hi + 1 - lo = w
  have hq : n / 2 ^ lo % 2 ^ w * 2 ^ lo ≤ n := Nat.le_trans (Nat.mul_le_mul_right _ (Nat.mod_le _ _)) (Nat.div_mul_le_self n _)
  have key : n - n / 2 ^ lo % 2 ^ w * 2 ^ lo + v % 2 ^ w * 2 ^ lo =
      n % 2 ^ lo + 2 ^ lo * (2 ^ w * (n / 2 ^ lo / 2 ^ w) + v % 2 ^ w) := by
    have h1 := Nat.div_add_mod n (2 ^ lo)
    have h2 := Nat.div_add_mod (n / 2 ^ lo) (2 ^ w)
    have h3 : n = 2 ^ lo * (2 ^ w * (n / 2 ^ lo / 2 ^ w)) + 2 ^ lo * (n / 2 ^ lo % 2 ^ w) + n % 2 ^ lo := by
      rw [← Nat.mul_add, h2, h1]
    rw [Nat.mul_comm (n / 2 ^ lo % 2 ^ w), Nat.mul_comm (v % 2 ^ w), Nat.mul_add]
    rw [Nat.mul_comm (n / 2 ^ lo % 2 ^ w)] at hq
    omega
  rw [key, Nat.add_mul_div_left _ _ (Nat.two_pow_pos lo), Nat.div_eq_of_lt (Nat.mod_lt _ (Nat.two_pow_pos lo)), Nat.zero_add,
    Nat.mul_add_mod, Nat.mod_mod]

theorem setBits_lt (n hi lo v : Nat) (hn : n < 2 ^ 32) (h : hi < 32) (hlo : lo ≤ hi) : setBits n hi lo v < 2 ^ 32 := by
  simp only [setBits, bits]
  generalize hw : hi + 1 - lo = w
  have hwl : w + lo ≤ 32 := by omega
  have h1 := Nat.div_add_mod n (2 ^ lo)
  have h2 := Nat.div_add_mod (n / 2 ^ lo) (2 ^ w)
  have h3 : n = 2 ^ lo * (2 ^ w * (n / 2 ^ lo / 2 ^ w)) + 2 ^ lo * (n / 2 ^ lo % 2 ^ w) + n % 2 ^ lo := by
    rw [← Nat.mul_add, h2, h1]
  have h4 : n % 2 ^ lo < 2 ^ lo := Nat.mod_lt _ (Nat.two_pow_pos _)
  have h5 : v % 2 ^ w < 2 ^ w := Nat.mod_lt _ (Nat.two_pow_pos _)
  have h6 : 2 ^ (w + lo) ∣ 2 ^ 32 := Nat.pow_dvd_pow 2 hwl
  have hA : 2 ^ lo * (2 ^ w * (n / 2 ^ lo / 2 ^ w)) + 2 ^ (w + lo) ≤ 2 ^ 32 := by
    have e : 2 ^ lo * (2 ^ w * (n / 2 ^ lo / 2 ^ w)) = 2 ^ (w + lo) * (n / 2 ^ lo / 2 ^ w) := by rw [Nat.pow_add]; ac_rfl
    rw [e]
    obtain ⟨c, hc⟩ := h6
    have hlt : n / 2 ^ lo / 2 ^ w < c := by
      have : 2 ^ (w + lo) * (n / 2 ^ lo / 2 ^ w) < 2 ^ (w + lo) * c := by rw [← hc, ← e]; omega
      exact Nat.lt_of_mul_lt_mul_left this
    rw [hc, ← Nat.mul_succ]
    exact Nat.mul_le_mul_left _ hlt
  have hB : 2 ^ lo * (v % 2 ^ w) + 2 ^ lo ≤ 2 ^ (w + lo) := by
    rw [← Nat.mul_succ, Nat.add_comm w lo, Nat.pow_add]
    exact Nat.mul_le_mul_left _ h5
  rw [Nat.mul_comm (n / 2 ^ lo % 2 ^ w), Nat.mul_comm (v % 2 ^ w)]
  omega

/-- A field of a register that is set reads as the new value. -/
@[simp] theorem State.fget_fset_same (f : Fld) (v : Nat) (h : f.lo ≤ f.hi) (h2 : f.hi < 32) : (s.fset f v).fget f = v % 2 ^ (f.hi + 1 - f.lo) := by
  simp only [State.fget, State.fset, State.rd_wr_same]
  rw [Nat.mod_eq_of_lt (setBits_lt _ _ _ _ (s.rd_lt _) h2 h), bits_setBits_same _ _ _ _]

theorem State.rd_fset_other {f : Fld} {k : Nat} (v : Nat) (h : k ≠ f.reg) : (s.fset f v).rd k = s.rd k := s.rd_wr_other _ h

/-! ### Memory -/

@[simp] theorem State.byte_setByte_same (a : Nat) (b : Byte) : (s.setByte a b).byte a = b := by
  simp [State.byte, State.setByte, tget_tset_same]

theorem State.byte_setByte_other {a x : Nat} (b : Byte) (h : x ≠ a) : (s.setByte a b).byte x = s.byte x := by
  simp [State.byte, State.setByte, tget_tset_other _ _ _ h]

@[simp] theorem State.byte_wr (k v a : Nat) : (s.wr k v).byte a = s.byte a := rfl

/-- A byte string stored reads back, and every other byte is as before. -/
theorem State.byte_setBytes (a : Nat) (bs : List Byte) (x : Nat) :
    (s.setBytes a bs).byte x = if a ≤ x ∧ x < a + bs.length then bs.getD (x - a) 0 else s.byte x := by
  induction bs generalizing s a with
  | nil =>
    rw [State.setBytes, if_neg (by simp)]
  | cons b bs ih =>
    simp only [State.setBytes, ih]
    by_cases h1 : x = a
    · subst h1
      have h2 : ¬ (x + 1 ≤ x ∧ x < x + 1 + bs.length) := by omega
      rw [if_neg h2, if_pos (by simp)]
      simp
    · simp only [List.length_cons]
      by_cases h2 : a + 1 ≤ x ∧ x < a + 1 + bs.length
      · have h3 : a ≤ x ∧ x < a + (bs.length + 1) := by omega
        rw [if_pos h2, if_pos h3]
        have : x - a = (x - (a + 1)) + 1 := by omega
        rw [this]; rfl
      · have h3 : ¬ (a ≤ x ∧ x < a + (bs.length + 1)) := by omega
        rw [if_neg h2, if_neg h3, s.byte_setByte_other b h1]

/-- Storing bytes changes nothing but the memory. -/
theorem State.setBytes_mem_only (a : Nat) (bs : List Byte) : ∃ m, s.setBytes a bs = { s with mem := m } := by
  induction bs generalizing s a with
  | nil => exact ⟨s.mem, rfl⟩
  | cons b bs ih =>
    obtain ⟨m, h⟩ := ih (s.setByte a b) (a + 1)
    exact ⟨m, by simpa [State.setBytes, State.setByte] using h⟩

theorem State.setByte_wf (a : Nat) (b : Byte) (h : Memory.wf s.mem = true) : Memory.wf (s.setByte a b).mem = true :=
  twf_tset memDefault s.mem a b h

/-- Storing bytes keeps the canonical form of the memory. -/
theorem State.setBytes_wf (a : Nat) (bs : List Byte) (h : Memory.wf s.mem = true) : Memory.wf (s.setBytes a bs).mem = true := by
  induction bs generalizing s a with
  | nil => exact h
  | cons b bs ih => exact ih (s.setByte a b) (a + 1) (s.setByte_wf a b h)

theorem State.setNum_wf (a n v : Nat) (h : Memory.wf s.mem = true) : Memory.wf (s.setNum a n v).mem = true := s.setBytes_wf a _ h

/-- Clearing a range keeps the canonical form. -/
theorem Memory.wf_tclear (m : Mem) (p : Nat → Bool) (h : Memory.wf m = true) : Memory.wf (tclear m p) = true := twf_tclear memDefault m p h

theorem State.reset_mem_wf : Memory.wf State.reset.mem = true := rfl

/-- Equal readings are equal memories. -/
theorem Memory.ext (m m' : Mem) (h : Memory.wf m = true) (h' : Memory.wf m' = true) (e : ∀ a, tget memDefault m a = tget memDefault m' a) : m = m' :=
  twf_ext memDefault m m' h h' e

/-! ### Queues, contexts, counters, links -/

@[simp] theorem State.getQ_setQ_same (q : Nat) (v : Queue) : (s.setQ q v).getQ q = v := by simp [State.getQ, State.setQ, tget_tset_same]

theorem State.getQ_setQ_other {q p : Nat} (v : Queue) (h : p ≠ q) : (s.setQ q v).getQ p = s.getQ p := by
  simp [State.getQ, State.setQ, tget_tset_other _ _ _ h]

@[simp] theorem State.getC_setC_same (n : Nat) (v : Ctx) : (s.setC n v).getC n = v := by simp [State.getC, State.setC, tget_tset_same]

theorem State.getC_setC_other {n m : Nat} (v : Ctx) (h : m ≠ n) : (s.setC n v).getC m = s.getC m := by
  simp [State.getC, State.setC, tget_tset_other _ _ _ h]

@[simp] theorem State.getC_setQ (q n : Nat) (v : Queue) : (s.setQ q v).getC n = s.getC n := rfl
@[simp] theorem State.getQ_setC (q n : Nat) (v : Ctx) : (s.setC n v).getQ q = s.getQ q := rfl

@[simp] theorem State.getCtr_putCtr_same (c v : Nat) : (s.putCtr c v).getCtr c = v % 2 ^ 64 := by
  simp [State.getCtr, State.putCtr, tget_tset_same]

theorem State.getCtr_putCtr_other {c d : Nat} (v : Nat) (h : d ≠ c) : (s.putCtr c v).getCtr d = s.getCtr d := by
  simp [State.getCtr, State.putCtr, tget_tset_other _ _ _ h]

@[simp] theorem State.getLink_setLink_same (p : Nat) (v : Link) : (s.setLink p v).getLink p = v := by
  simp [State.getLink, State.setLink, tget_tset_same]

theorem State.getLink_setLink_other {p q : Nat} (v : Link) (h : q ≠ p) : (s.setLink p v).getLink q = s.getLink q := by
  simp [State.getLink, State.setLink, tget_tset_other _ _ _ h]

/-! ### Records in flight -/

theorem State.flight_rid {r : Nat} {f : Flight} (h : s.flight? r = some f) : f.rid = r := by
  have := List.find?_some h
  simpa using this

/-- A record that ends keeps its other facts, and other records are as before. -/
theorem State.flight_setFlight {f g : Flight} (h : s.flight? f.rid = some g) (r : Nat) :
    (s.setFlight f).flight? r = if r = f.rid then some f else s.flight? r := by
  simp only [State.flight?, State.setFlight] at h ⊢
  generalize s.que.flights = l at h
  induction l with
  | nil => simp at h
  | cons x l ih =>
    simp only [List.map_cons, List.find?_cons] at h ⊢
    by_cases hx : x.rid = f.rid
    · by_cases hr : r = f.rid
      · subst hr; simp [hx]
      · have h1 : ¬ f.rid = r := fun e => hr e.symm
        have h2 : ¬ x.rid = r := fun e => hr (e.symm.trans hx)
        simp only [hx, if_true, decide_eq_false h1, hr, if_false]
        clear h ih
        induction l with
        | nil => rfl
        | cons y l ih =>
          simp only [List.map_cons, List.find?_cons]
          by_cases hy : y.rid = f.rid
          · have h3 : ¬ y.rid = r := fun e => hr (e.symm.trans hy)
            simp only [hy, if_true, decide_eq_false h1]
            rw [ih]
          · simp only [hy, if_false]
            split
            · rfl
            · exact ih
    · simp only [hx, decide_false] at h ⊢
      by_cases hr : x.rid = r
      · have h1 : ¬ r = f.rid := fun e => hx (hr.trans e)
        simp [hr, h1]
      · simp only [if_false, decide_eq_false hr]
        exact ih h

theorem State.finish_eq {r : Nat} {f : Flight} (h : s.flight? r = some f) (resp detail : Nat) :
    s.finish r resp detail = s.setFlight { f with resp := some (resp, detail) } := by
  simp [State.finish, h]

end Sys2Proof.Machine
end

