-- ==== Sys2Proof/Laws/Frames.lean ====
section
/-! SUPPORT. What each shared operation can change. Each lemma says that an operation on t makes no difference to "nothing but the listed pieces
differs", where the pieces that the operation writes are listed; a frame is then proved by simp with these lemmas. -/
namespace Sys2Proof.Machine

variable {ps qs : List Piece} {s t u : State}

@[simp] theorem ChangesOnly.refl (ps : List Piece) (s : State) : ChangesOnly ps s s := by
  intro p _; cases p <;> simp [Piece.same]

theorem Piece.same_trans (p : Piece) (h : p.same s t) (h' : p.same t u) : p.same s u := by
  cases p <;> simp only [Piece.same] at * <;> first | exact h'.trans h | exact ⟨h'.1.trans h.1, h'.2.trans h.2⟩

theorem Piece.same_symm (p : Piece) (h : p.same s t) : p.same t s := by
  cases p <;> simp only [Piece.same] at * <;> first | exact h.symm | exact ⟨h.1.symm, h.2.symm⟩

theorem ChangesOnly.trans (h : ChangesOnly ps s t) (h' : ChangesOnly ps t u) : ChangesOnly ps s u :=
  fun p q => p.same_trans (h p q) (h' p q)

theorem ChangesOnly.symm (h : ChangesOnly ps s t) : ChangesOnly ps t s := fun p q => p.same_symm (h p q)

theorem ChangesOnly.mono (h : ChangesOnly ps s t) (hq : ∀ p ∈ ps, p ∈ qs) : ChangesOnly qs s t :=
  fun p q => h p fun hp => q (hq p hp)

/-- An operation that writes listed pieces only makes no difference. -/
theorem ChangesOnly.iff (h : ChangesOnly ps t u) : ChangesOnly ps s u ↔ ChangesOnly ps s t :=
  ⟨fun k => k.trans h.symm, fun k => k.trans h⟩

@[simp] theorem ChangesOnly.ite (c : Prop) [Decidable c] : ChangesOnly ps s (if c then t else u) ↔ (c → ChangesOnly ps s t) ∧ (¬ c → ChangesOnly ps s u) := by
  split <;> simp [*]

theorem ChangesOnly.foldl {α : Type} (l : List α) (f : State → α → State) (hf : ∀ x t, ChangesOnly ps s t → ChangesOnly ps s (f t x))
    (h : ChangesOnly ps s t) : ChangesOnly ps s (l.foldl f t) := by
  induction l generalizing t with
  | nil => exact h
  | cons x l ih => exact ih (hf x t h)

theorem ChangesOnly.foldl2 {α β : Type} (l : List α) (f : State × β → α → State × β)
    (hf : ∀ x p, ChangesOnly ps s p.1 → ChangesOnly ps s (f p x).1) (p : State × β) (h : ChangesOnly ps s p.1) : ChangesOnly ps s (l.foldl f p).1 := by
  induction l generalizing p with
  | nil => exact h
  | cons x l ih => exact ih _ (hf x p h)

theorem ChangesOnly.forAll (l : List Nat) (f : Nat → State → State) (hf : ∀ x t, ChangesOnly ps s t → ChangesOnly ps s (f x t))
    (h : ChangesOnly ps s t) : ChangesOnly ps s (t.forAll l f) := ChangesOnly.foldl l (fun t x => f x t) hf h

/-! ### One field -/

@[simp] theorem ChangesOnly.regs (hp : Piece.regs ∈ ps) (v) : ChangesOnly ps s { t with regs := v } ↔ ChangesOnly ps s t :=
  ChangesOnly.iff fun p q => by cases p <;> first | exact absurd hp q | simp [Piece.same]
@[simp] theorem ChangesOnly.pairs (hp : Piece.pairs ∈ ps) (v) : ChangesOnly ps s { t with pairs := v } ↔ ChangesOnly ps s t :=
  ChangesOnly.iff fun p q => by cases p <;> first | exact absurd hp q | simp [Piece.same]
@[simp] theorem ChangesOnly.mem (hp : Piece.mem ∈ ps) (v) : ChangesOnly ps s { t with mem := v } ↔ ChangesOnly ps s t :=
  ChangesOnly.iff fun p q => by cases p <;> first | exact absurd hp q | simp [Piece.same]
@[simp] theorem ChangesOnly.mpart (hp : Piece.mpart ∈ ps) (v) : ChangesOnly ps s { t with mpart := v } ↔ ChangesOnly ps s t :=
  ChangesOnly.iff fun p q => by cases p <;> first | exact absurd hp q | simp [Piece.same]
@[simp] theorem ChangesOnly.pos (hp : Piece.pos ∈ ps) (v) : ChangesOnly ps s { t with pos := v } ↔ ChangesOnly ps s t :=
  ChangesOnly.iff fun p q => by cases p <;> first | exact absurd hp q | simp [Piece.same]
@[simp] theorem ChangesOnly.ledger (hp : Piece.ledger ∈ ps) (v) : ChangesOnly ps s { t with ledger := v } ↔ ChangesOnly ps s t :=
  ChangesOnly.iff fun p q => by cases p <;> first | exact absurd hp q | simp [Piece.same]
@[simp] theorem ChangesOnly.run (hp : Piece.run ∈ ps) (v) : ChangesOnly ps s { t with run := v } ↔ ChangesOnly ps s t :=
  ChangesOnly.iff fun p q => by cases p <;> first | exact absurd hp q | simp [Piece.same]
@[simp] theorem ChangesOnly.links (hp : Piece.links ∈ ps) (v) : ChangesOnly ps s { t with links := v } ↔ ChangesOnly ps s t :=
  ChangesOnly.iff fun p q => by cases p <;> first | exact absurd hp q | simp [Piece.same]
@[simp] theorem ChangesOnly.lanes (hp : Piece.lanes ∈ ps) (v) : ChangesOnly ps s { t with lanes := v } ↔ ChangesOnly ps s t :=
  ChangesOnly.iff fun p q => by cases p <;> first | exact absurd hp q | simp [Piece.same]
@[simp] theorem ChangesOnly.host (hp : Piece.host ∈ ps) (v) : ChangesOnly ps s { t with host := v } ↔ ChangesOnly ps s t :=
  ChangesOnly.iff fun p q => by cases p <;> first | exact absurd hp q | simp [Piece.same]
@[simp] theorem ChangesOnly.slots (hp : Piece.slots ∈ ps) (v) : ChangesOnly ps s { t with slots := v } ↔ ChangesOnly ps s t :=
  ChangesOnly.iff fun p q => by cases p <;> first | exact absurd hp q | simp [Piece.same]
@[simp] theorem ChangesOnly.fabKey (hp : Piece.fabKey ∈ ps) (v) : ChangesOnly ps s { t with fabKey := v } ↔ ChangesOnly ps s t :=
  ChangesOnly.iff fun p q => by cases p <;> first | exact absurd hp q | simp [Piece.same]
@[simp] theorem ChangesOnly.map (hp : Piece.map ∈ ps) (v) : ChangesOnly ps s { t with map := v } ↔ ChangesOnly ps s t :=
  ChangesOnly.iff fun p q => by cases p <;> first | exact absurd hp q | simp [Piece.same]
@[simp] theorem ChangesOnly.icu (hp : Piece.icu ∈ ps) (v) : ChangesOnly ps s { t with icu := v } ↔ ChangesOnly ps s t :=
  ChangesOnly.iff fun p q => by cases p <;> first | exact absurd hp q | simp [Piece.same]
@[simp] theorem ChangesOnly.watch (hp : Piece.watch ∈ ps) (v) : ChangesOnly ps s { t with watch := v } ↔ ChangesOnly ps s t :=
  ChangesOnly.iff fun p q => by cases p <;> first | exact absurd hp q | simp [Piece.same]
@[simp] theorem ChangesOnly.cx (hp : Piece.cx ∈ ps) (v) : ChangesOnly ps s { t with cx := v } ↔ ChangesOnly ps s t :=
  ChangesOnly.iff fun p q => by cases p <;> first | exact absurd hp q | simp [Piece.same]
@[simp] theorem ChangesOnly.ckpt (hp : Piece.ckpt ∈ ps) (v) : ChangesOnly ps s { t with ckpt := v } ↔ ChangesOnly ps s t :=
  ChangesOnly.iff fun p q => by cases p <;> first | exact absurd hp q | simp [Piece.same]
@[simp] theorem ChangesOnly.pre (hp : Piece.pre ∈ ps) (v) : ChangesOnly ps s { t with pre := v } ↔ ChangesOnly ps s t :=
  ChangesOnly.iff fun p q => by cases p <;> first | exact absurd hp q | simp [Piece.same]
@[simp] theorem ChangesOnly.spares (hp : Piece.spares ∈ ps) (v) : ChangesOnly ps s { t with spares := v } ↔ ChangesOnly ps s t :=
  ChangesOnly.iff fun p q => by cases p <;> first | exact absurd hp q | simp [Piece.same]
@[simp] theorem ChangesOnly.recov (hp : Piece.recov ∈ ps) (v) : ChangesOnly ps s { t with recov := v } ↔ ChangesOnly ps s t :=
  ChangesOnly.iff fun p q => by cases p <;> first | exact absurd hp q | simp [Piece.same]
@[simp] theorem ChangesOnly.rcv (hp : Piece.rcv ∈ ps) (v) : ChangesOnly ps s { t with rcv := v } ↔ ChangesOnly ps s t :=
  ChangesOnly.iff fun p q => by cases p <;> first | exact absurd hp q | simp [Piece.same]
@[simp] theorem ChangesOnly.test (hp : Piece.test ∈ ps) (v) : ChangesOnly ps s { t with test := v } ↔ ChangesOnly ps s t :=
  ChangesOnly.iff fun p q => by cases p <;> first | exact absurd hp q | simp [Piece.same]
@[simp] theorem ChangesOnly.measure (hp : Piece.measure ∈ ps) (v) : ChangesOnly ps s { t with measure := v } ↔ ChangesOnly ps s t :=
  ChangesOnly.iff fun p q => by cases p <;> first | exact absurd hp q | simp [Piece.same]
@[simp] theorem ChangesOnly.power (hp : Piece.power ∈ ps) (v) : ChangesOnly ps s { t with power := v } ↔ ChangesOnly ps s t :=
  ChangesOnly.iff fun p q => by cases p <;> first | exact absurd hp q | simp [Piece.same]
@[simp] theorem ChangesOnly.mgmt (hp : Piece.mgmt ∈ ps) (v) : ChangesOnly ps s { t with mgmt := v } ↔ ChangesOnly ps s t :=
  ChangesOnly.iff fun p q => by cases p <;> first | exact absurd hp q | simp [Piece.same]
@[simp] theorem ChangesOnly.log (hp : Piece.log ∈ ps) (v) : ChangesOnly ps s { t with log := v } ↔ ChangesOnly ps s t :=
  ChangesOnly.iff fun p q => by cases p <;> first | exact absurd hp q | simp [Piece.same]
@[simp] theorem ChangesOnly.history (hp : Piece.history ∈ ps) (v) : ChangesOnly ps s { t with history := v } ↔ ChangesOnly ps s t :=
  ChangesOnly.iff fun p q => by cases p <;> first | exact absurd hp q | simp [Piece.same]
@[simp] theorem ChangesOnly.out (hp : Piece.out ∈ ps) (v) : ChangesOnly ps s { t with out := v } ↔ ChangesOnly ps s t :=
  ChangesOnly.iff fun p q => by cases p <;> first | exact absurd hp q | simp [Piece.same]
@[simp] theorem ChangesOnly.free (hp : Piece.free ∈ ps) (v) : ChangesOnly ps s { t with free := v } ↔ ChangesOnly ps s t :=
  ChangesOnly.iff fun p q => by cases p <;> first | exact absurd hp q | simp [Piece.same]
@[simp] theorem ChangesOnly.pending (hp : Piece.pending ∈ ps) (v) : ChangesOnly ps s { t with pending := v } ↔ ChangesOnly ps s t :=
  ChangesOnly.iff fun p q => by cases p <;> first | exact absurd hp q | simp [Piece.same]
@[simp] theorem ChangesOnly.counters (hp : Piece.counters ∈ ps) (v) : ChangesOnly ps s { t with syn := v } ↔ ChangesOnly ps s t :=
  ChangesOnly.iff fun p q => by cases p <;> first | exact absurd hp q | simp [Piece.same]
@[simp] theorem ChangesOnly.que_queues (hp : Piece.queues ∈ ps) (v) : ChangesOnly ps s { t with que := { t.que with queues := v } } ↔ ChangesOnly ps s t :=
  ChangesOnly.iff fun p q => by cases p <;> first | exact absurd hp q | simp [Piece.same]
@[simp] theorem ChangesOnly.que_swept (hp : Piece.queues ∈ ps) (v) : ChangesOnly ps s { t with que := { t.que with swept := v } } ↔ ChangesOnly ps s t :=
  ChangesOnly.iff fun p q => by cases p <;> first | exact absurd hp q | simp [Piece.same]
@[simp] theorem ChangesOnly.que_ctxs (hp : Piece.contexts ∈ ps) (v) : ChangesOnly ps s { t with que := { t.que with ctxs := v } } ↔ ChangesOnly ps s t :=
  ChangesOnly.iff fun p q => by cases p <;> first | exact absurd hp q | simp [Piece.same]
@[simp] theorem ChangesOnly.que_flights (hp : Piece.flights ∈ ps) (v) : ChangesOnly ps s { t with que := { t.que with flights := v } } ↔ ChangesOnly ps s t :=
  ChangesOnly.iff fun p q => by cases p <;> first | exact absurd hp q | simp [Piece.same]
@[simp] theorem ChangesOnly.que_rr (hp : Piece.choice ∈ ps) (v) : ChangesOnly ps s { t with que := { t.que with rr := v } } ↔ ChangesOnly ps s t :=
  ChangesOnly.iff fun p q => by cases p <;> first | exact absurd hp q | simp [Piece.same]
@[simp] theorem ChangesOnly.que_nextRid (hp : Piece.choice ∈ ps) (v) : ChangesOnly ps s { t with que := { t.que with nextRid := v } } ↔ ChangesOnly ps s t :=
  ChangesOnly.iff fun p q => by cases p <;> first | exact absurd hp q | simp [Piece.same]

/-! ### Named operations -/

@[simp] theorem State.setQ_only (hp : Piece.queues ∈ ps) (q v) : ChangesOnly ps s (t.setQ q v) ↔ ChangesOnly ps s t := ChangesOnly.que_queues hp _
@[simp] theorem State.setC_only (hp : Piece.contexts ∈ ps) (n v) : ChangesOnly ps s (t.setC n v) ↔ ChangesOnly ps s t := ChangesOnly.que_ctxs hp _
@[simp] theorem State.setFlight_only (hp : Piece.flights ∈ ps) (f) : ChangesOnly ps s (t.setFlight f) ↔ ChangesOnly ps s t := ChangesOnly.que_flights hp _
@[simp] theorem State.dropFlight_only (hp : Piece.flights ∈ ps) (r) : ChangesOnly ps s (t.dropFlight r) ↔ ChangesOnly ps s t := ChangesOnly.que_flights hp _
@[simp] theorem State.discardFlights_only (hp : Piece.flights ∈ ps) (f) : ChangesOnly ps s (t.discardFlights f) ↔ ChangesOnly ps s t := ChangesOnly.que_flights hp _
@[simp] theorem State.finish_only (hp : Piece.flights ∈ ps) (r a b) : ChangesOnly ps s (t.finish r a b) ↔ ChangesOnly ps s t := ChangesOnly.iff (by
  unfold State.finish; split <;> simp [hp])
@[simp] theorem State.wr_only (hr : Piece.regs ∈ ps) (k v) : ChangesOnly ps s (t.wr k v) ↔ ChangesOnly ps s t := ChangesOnly.regs hr _
@[simp] theorem State.fset_only (hr : Piece.regs ∈ ps) (f v) : ChangesOnly ps s (t.fset f v) ↔ ChangesOnly ps s t := ChangesOnly.regs hr _
@[simp] theorem State.wr64_only (hr : Piece.regs ∈ ps) (k v) : ChangesOnly ps s (t.wr64 k v) ↔ ChangesOnly ps s t := ChangesOnly.iff (by simp [State.wr64, hr])
@[simp] theorem State.fadd_only (hr : Piece.regs ∈ ps) (f n) : ChangesOnly ps s (t.fadd f n) ↔ ChangesOnly ps s t := ChangesOnly.iff (by simp [State.fadd, hr])
@[simp] theorem State.count_only (hr : Piece.regs ∈ ps) (k n) : ChangesOnly ps s (t.count k n) ↔ ChangesOnly ps s t := ChangesOnly.iff (by simp [State.count, hr])
@[simp] theorem State.clearRegs_only (hr : Piece.regs ∈ ps) (f) : ChangesOnly ps s (t.clearRegs f) ↔ ChangesOnly ps s t := ChangesOnly.regs hr _
@[simp] theorem State.putCtr_only (hp : Piece.counters ∈ ps) (c v) : ChangesOnly ps s (t.putCtr c v) ↔ ChangesOnly ps s t := ChangesOnly.counters hp _
@[simp] theorem State.setLink_only (hp : Piece.links ∈ ps) (n v) : ChangesOnly ps s (t.setLink n v) ↔ ChangesOnly ps s t := ChangesOnly.links hp _
@[simp] theorem State.setByte_only (hp : Piece.mem ∈ ps) (a b) : ChangesOnly ps s (t.setByte a b) ↔ ChangesOnly ps s t := ChangesOnly.mem hp _
@[simp] theorem State.setBytes_only (hp : Piece.mem ∈ ps) (a bs) : ChangesOnly ps s (t.setBytes a bs) ↔ ChangesOnly ps s t := by
  obtain ⟨m, e⟩ := t.setBytes_mem_only a bs
  rw [e]; exact ChangesOnly.mem hp m
@[simp] theorem State.setNum_only (hp : Piece.mem ∈ ps) (a n v) : ChangesOnly ps s (t.setNum a n v) ↔ ChangesOnly ps s t := State.setBytes_only hp a _
@[simp] theorem State.emit_only (hp : Piece.out ∈ ps) (m) : ChangesOnly ps s (t.emit m) ↔ ChangesOnly ps s t := ChangesOnly.out hp _
@[simp] theorem State.logRec_only (hp : Piece.log ∈ ps) (c n d) : ChangesOnly ps s (t.logRec c n d) ↔ ChangesOnly ps s t := ChangesOnly.log hp _
@[simp] theorem State.fresh_only (hp : Piece.free ∈ ps)  : ChangesOnly ps s (t.fresh.2) ↔ ChangesOnly ps s t := ChangesOnly.free hp _
@[simp] theorem State.notify_only (ho : Piece.out ∈ ps) (hm : Piece.mgmt ∈ ps) (hf : Piece.free ∈ ps) (k a) :
    ChangesOnly ps s (t.notify k a) ↔ ChangesOnly ps s t := ChangesOnly.iff (by
  unfold State.notify; split
  · simp
  · dsimp only
    have h : ∀ m, ChangesOnly ps t (t.fresh.2.emit m) := fun m => by simp [ho, hf]
    repeat' split
    all_goals first | exact (ChangesOnly.mgmt hm _).2 (h _) | exact h _)
@[simp] theorem State.setGrp_only (hi : Piece.icu ∈ ps) (g v) : ChangesOnly ps s (t.setGrp g v) ↔ ChangesOnly ps s t := ChangesOnly.icu hi _
@[simp] theorem State.setTarget_only (hi : Piece.icu ∈ ps) (n v) : ChangesOnly ps s (t.setTarget n v) ↔ ChangesOnly ps s t := ChangesOnly.icu hi _
@[simp] theorem State.countEvent_only (hi : Piece.icu ∈ ps) (g) : ChangesOnly ps s (t.countEvent g) ↔ ChangesOnly ps s t := ChangesOnly.iff (by simp [State.countEvent, hi])
@[simp] theorem State.setRegBit_only (hr : Piece.regs ∈ ps) (k i b) : ChangesOnly ps s (t.setRegBit k i b) ↔ ChangesOnly ps s t := ChangesOnly.iff (by simp [State.setRegBit, hr])
@[simp] theorem State.planeEvent_only (hr : Piece.regs ∈ ps) (hi : Piece.icu ∈ ps) (n m) : ChangesOnly ps s (t.planeEvent n m) ↔ ChangesOnly ps s t := ChangesOnly.iff (by
  unfold State.planeEvent; dsimp only; split
  · simp [hr]
  · split <;> simp [hr, hi])
@[simp] theorem State.raise_only (hr : Piece.regs ∈ ps) (hi : Piece.icu ∈ ps) (n) : ChangesOnly ps s (t.raise n) ↔ ChangesOnly ps s t := ChangesOnly.iff (by simp [State.raise, hr, hi])
@[simp] theorem State.setLevel_only (hr : Piece.regs ∈ ps) (hi : Piece.icu ∈ ps) (n b) : ChangesOnly ps s (t.setLevel n b) ↔ ChangesOnly ps s t := ChangesOnly.iff (by simp [State.setLevel, hr, hi])
@[simp] theorem State.repend_only (hr : Piece.regs ∈ ps) (n i) : ChangesOnly ps s (t.repend n i) ↔ ChangesOnly ps s t := ChangesOnly.iff (by simp [State.repend, hr])
@[simp] theorem State.evtLevel_only (hr : Piece.regs ∈ ps) (hi : Piece.icu ∈ ps) (w) : ChangesOnly ps s (t.evtLevel w) ↔ ChangesOnly ps s t := ChangesOnly.iff (by simp [State.evtLevel, hr, hi])
@[simp] theorem State.event_only (hr : Piece.regs ∈ ps) (hi : Piece.icu ∈ ps) (w m) : ChangesOnly ps s (t.event w m) ↔ ChangesOnly ps s t := ChangesOnly.iff (by simp [State.event, hr, hi])
@[simp] theorem State.accessError_only (hr : Piece.regs ∈ ps) (hi : Piece.icu ∈ ps) (w k o) : ChangesOnly ps s (t.accessError w k o) ↔ ChangesOnly ps s t := ChangesOnly.iff (by simp [State.accessError, hr, hi])
@[simp] theorem State.setDomState_only (hr : Piece.regs ∈ ps) (hi : Piece.icu ∈ ps) (d v) : ChangesOnly ps s (t.setDomState d v) ↔ ChangesOnly ps s t := ChangesOnly.iff (by
  unfold State.setDomState; split <;> simp [hr, hi])

end Sys2Proof.Machine
end

