-- ==== Sys2Proof/Laws/Engine.lean ====
section
/-! SUPPORT. What the shared operations of the engines can change: errors that the memories show, reads and writes of records, the numeric watch,
check misses, the units' history. -/
namespace Sys2Proof.Machine

variable {ps : List Piece} {s t : State}

/-- A list of pieces holds what an access to memory can change. -/
structure Met (ps : List Piece) : Prop where
  regs    : Piece.regs ∈ ps
  icu     : Piece.icu ∈ ps
  mpart   : Piece.mpart ∈ ps
  mem     : Piece.mem ∈ ps
  history : Piece.history ∈ ps
  spares  : Piece.spares ∈ ps
  free    : Piece.free ∈ ps
  test    : Piece.test ∈ ps

@[simp] theorem met_iff : Met ps ↔ Piece.regs ∈ ps ∧ Piece.icu ∈ ps ∧ Piece.mpart ∈ ps ∧ Piece.mem ∈ ps ∧ Piece.history ∈ ps ∧ Piece.spares ∈ ps ∧
    Piece.free ∈ ps ∧ Piece.test ∈ ps :=
  ⟨fun h => ⟨h.1, h.2, h.3, h.4, h.5, h.6, h.7, h.8⟩, fun ⟨a, b, c, d, e, f, g, h⟩ => ⟨a, b, c, d, e, f, g, h⟩⟩

theorem ChangesOnly.foldl3 {α β γ : Type} (l : List α) (f : State × β × γ → α → State × β × γ)
    (hf : ∀ x p, ChangesOnly ps s p.1 → ChangesOnly ps s (f p x).1) (p : State × β × γ) (h : ChangesOnly ps s p.1) : ChangesOnly ps s (l.foldl f p).1 :=
  ChangesOnly.foldl2 l f hf p h

/-! ### Units -/

@[simp] theorem State.putHistory_only (hr : Piece.regs ∈ ps) (hh : Piece.history ∈ ps) (r) : ChangesOnly ps s (t.putHistory r) ↔ ChangesOnly ps s t :=
  ChangesOnly.iff (by
    unfold State.putHistory; split
    · simp [hh]
    · split
      · simp [hh]
      · split <;> simp [hr, hh])

@[simp] theorem State.unitEvent_only (hr : Piece.regs ∈ ps) (hh : Piece.history ∈ ps) (hs : Piece.spares ∈ ps) (hf : Piece.free ∈ ps) (u e d) :
    ChangesOnly ps s (t.unitEvent u e d) ↔ ChangesOnly ps s t :=
  ChangesOnly.iff (by
    unfold State.unitEvent; split
    · simp
    · dsimp only
      rw [State.putHistory_only hr hh]
      split <;> simp [hs, hf])

@[simp] theorem State.noteUnit_only (hr : Piece.regs ∈ ps) (hh : Piece.history ∈ ps) (hs : Piece.spares ∈ ps) (hf : Piece.free ∈ ps) (k d i e x) :
    ChangesOnly ps s (t.noteUnit k d i e x) ↔ ChangesOnly ps s t := State.unitEvent_only hr hh hs hf _ _ _

@[simp] theorem State.unitEcc_only (hr : Piece.regs ∈ ps) (hh : Piece.history ∈ ps) (hs : Piece.spares ∈ ps) (hf : Piece.free ∈ ps) (u ue sy) :
    ChangesOnly ps s (t.unitEcc u ue sy) ↔ ChangesOnly ps s t :=
  ChangesOnly.iff (by simp [State.unitEcc, hr, hh, hs, hf])

/-! ### Captures, candidates, pseudo-channels -/

@[simp] theorem State.captureErr_only (hr : Piece.regs ∈ ps) (hi : Piece.icu ∈ ps) (a ue syms pin src) :
    ChangesOnly ps s (t.captureErr a ue syms pin src) ↔ ChangesOnly ps s t :=
  ChangesOnly.iff (by simp [State.captureErr, hr, hi])

@[simp] theorem State.chipError_only (h : Met ps) (k ue sy) : ChangesOnly ps s (t.chipError k ue sy) ↔ ChangesOnly ps s t :=
  ChangesOnly.iff (by simp [State.chipError, h.regs, h.icu, h.history, h.spares, h.free])

@[simp] theorem State.candidate_only (hm : Piece.mpart ∈ ps) (a) : ChangesOnly ps s (t.candidate a) ↔ ChangesOnly ps s t :=
  ChangesOnly.iff (by simp [State.candidate, hm])

@[simp] theorem State.lostBlock_only (h : Met ps) (b src) : ChangesOnly ps s (t.lostBlock b src) ↔ ChangesOnly ps s t :=
  ChangesOnly.iff (by simp [State.lostBlock, h.regs, h.icu, h.mpart])

@[simp] theorem State.setPch_only (hm : Piece.mpart ∈ ps) (k v) : ChangesOnly ps s (t.setPch k v) ↔ ChangesOnly ps s t := ChangesOnly.mpart hm _

@[simp] theorem State.holdTest_only (ht : Piece.test ∈ ps) (x) : ChangesOnly ps s (t.holdTest x) ↔ ChangesOnly ps s t :=
  ChangesOnly.iff (by simp [State.holdTest, ht])

@[simp] theorem State.erasePin_only (h : Met ps) (a b c) : ChangesOnly ps s (t.erasePin a b c) ↔ ChangesOnly ps s t :=
  ChangesOnly.iff (by simp [State.erasePin, h.regs, h.mpart, h.history, h.spares, h.free, h.test])

@[simp] theorem State.countPin_only (h : Met ps) (l p) : ChangesOnly ps s (t.countPin l p) ↔ ChangesOnly ps s t :=
  ChangesOnly.iff (by
    have := h.mpart
    unfold State.countPin; dsimp only; split
    · rw [State.erasePin_only h]; simp [this]
    · simp [this])

@[simp] theorem State.stackCorrected_only (h : Met ps) (a pins src) : ChangesOnly ps s (t.stackCorrected a pins src) ↔ ChangesOnly ps s t :=
  ChangesOnly.iff (by
    unfold State.stackCorrected; split
    · simp
    · refine ChangesOnly.forAll _ _ (fun p u hu => (State.countPin_only h _ p).2 hu) ?_
      split <;> simp [h.regs, h.icu, h.mpart])

/-! ### Blocks, words, the depot cache -/

@[simp] theorem State.setSyms_only (hm : Piece.mpart ∈ ps) (b v) : ChangesOnly ps s (t.setSyms b v) ↔ ChangesOnly ps s t := ChangesOnly.mpart hm _
@[simp] theorem State.setWord_only (hm : Piece.mpart ∈ ps) (w v) : ChangesOnly ps s (t.setWord w v) ↔ ChangesOnly ps s t := ChangesOnly.mpart hm _
@[simp] theorem State.setSet_only (hm : Piece.mpart ∈ ps) (k x) : ChangesOnly ps s (t.setSet k x) ↔ ChangesOnly ps s t := ChangesOnly.mpart hm _
@[simp] theorem State.cleanBlock_only (hm : Piece.mpart ∈ ps) (b) : ChangesOnly ps s (t.cleanBlock b) ↔ ChangesOnly ps s t := ChangesOnly.mpart hm _
@[simp] theorem State.putWay_only (hm : Piece.mpart ∈ ps) (k v) : ChangesOnly ps s (t.putWay k v) ↔ ChangesOnly ps s t := ChangesOnly.mpart hm _

@[simp] theorem State.recode_only (hm : Piece.mpart ∈ ps) (hb : Piece.mem ∈ ps) (b fix) : ChangesOnly ps s (t.recode b fix) ↔ ChangesOnly ps s t :=
  ChangesOnly.iff (by unfold State.recode; dsimp only; split <;> simp [hm, hb])

@[simp] theorem State.meetBlock_only (h : Met ps) (b src) : ChangesOnly ps s (t.meetBlock b src).1 ↔ ChangesOnly ps s t :=
  ChangesOnly.iff (by
    unfold State.meetBlock; split
    · simp [State.lostBlock_only h]
    · split
      · simp
      · split
        · simp [State.lostBlock_only h]
        · simp [State.stackCorrected_only h, h.mpart, h.mem])

@[simp] theorem State.meetWord_only (h : Met ps) (w) : ChangesOnly ps s (t.meetWord w).1 ↔ ChangesOnly ps s t :=
  ChangesOnly.iff (by
    unfold State.meetWord; dsimp only; split
    · simp [State.chipError_only h]
    · dsimp only; split <;> split <;> simp [State.chipError_only h, h.mpart, h.mem])

@[simp] theorem State.meetWords_only (h : Met ps) (ws) : ChangesOnly ps s (t.meetWords ws).1 ↔ ChangesOnly ps s t :=
  ChangesOnly.iff (by
    unfold State.meetWords
    refine ChangesOnly.foldl2 _ _ (fun w p hp => ?_) _ (.refl ps t)
    exact (State.meetWord_only h w).2 hp)

@[simp] theorem State.meetWay_only (h : Met ps) (k w) : ChangesOnly ps s (t.meetWay k w).1 ↔ ChangesOnly ps s t :=
  ChangesOnly.iff (by
    unfold State.meetWay
    refine ChangesOnly.foldl3 _ _ (fun x p hp => ?_) _ (.refl ps t)
    dsimp only; split
    · exact hp
    · dsimp only; split <;> split <;> simp [State.chipError_only h, h.mem, hp])

@[simp] theorem State.lineLost_only (h : Met ps) (k w) : ChangesOnly ps s (t.lineLost k w) ↔ ChangesOnly ps s t :=
  ChangesOnly.iff (ChangesOnly.foldl _ _ (fun _ _ hu => (State.chipError_only h _ _ _).2 hu) (.refl ps t))

@[simp] theorem State.writeBack_only (h : Met ps) (k w) : ChangesOnly ps s (t.writeBack k w).1 ↔ ChangesOnly ps s t :=
  ChangesOnly.iff (by
    have hm := h.mpart
    unfold State.writeBack; split
    · simp
    · dsimp only; split <;> simp [State.lineLost_only h, State.meetWay_only h, hm])

@[simp] theorem State.placeLine_only (h : Met ps) (k l old) : ChangesOnly ps s (t.placeLine k l old) ↔ ChangesOnly ps s t :=
  ChangesOnly.iff (by
    unfold State.placeLine; dsimp only
    rw [State.setSet_only h.mpart]
    split <;> simp [State.writeBack_only h])

@[simp] theorem State.lineUse_only (h : Met ps) (b x y w src) : ChangesOnly ps s (t.lineUse b x y w src).1 ↔ ChangesOnly ps s t :=
  ChangesOnly.iff (by
    have hr := h.regs
    have hm := h.mpart
    unfold State.lineUse
    extract_lets slices whole k old fetch
    have hfetch : ∀ u, ChangesOnly ps t u → ChangesOnly ps t (fetch u).1 := by
      intro u hu
      dsimp only [fetch]
      split <;> split <;> simp [State.placeLine_only h, State.meetBlock_only h, hu]
    split
    · simp [State.meetBlock_only h]
    · split
      · have hu := (State.wr64_only (t := t) hr R.DEP_HIT ((t.rd64 R.DEP_HIT + 1) % 2 ^ 64)).2 (.refl ps t)
        split
        next q v e eq =>
          have hq : ChangesOnly ps t q := by
            rw [show q = _ from (congrArg Prod.fst eq).symm]
            exact (State.meetWay_only h k _).2 hu
          split
          · exact (State.putWay_only hm _ _).2 hq
          · split
            · exact (State.putWay_only hm _ _).2 ((State.lineLost_only h _ _).2 hq)
            · exact hfetch _ ((State.setSet_only hm _ _).2 ((State.count_only hr _ _).2 hq))
      · exact hfetch _ ((State.wr64_only hr _ _).2 (.refl ps t)))

/-! ### Reads and writes -/

@[simp] theorem State.readBlock_only (h : Met ps) (b src) : ChangesOnly ps s (t.readBlock b src).1 ↔ ChangesOnly ps s t :=
  ChangesOnly.iff (by unfold State.readBlock; split <;> simp [State.lineUse_only h, State.meetBlock_only h])

@[simp] theorem State.meet_only (h : Met ps) (a n src) : ChangesOnly ps s (t.meet a n src).1 ↔ ChangesOnly ps s t :=
  ChangesOnly.iff (by
    unfold State.meet; split
    · simp
    · split
      · split
        · simp
        · refine ChangesOnly.foldl2 _ _ (fun b p hp => ?_) _ (.refl ps t)
          exact (State.readBlock_only h b src).2 hp
      · exact (State.meetWords_only h _).2 (.refl ps t))

@[simp] theorem State.writeBlock_only (h : Met ps) (b lo part src) : ChangesOnly ps s (t.writeBlock b lo part src).1 ↔ ChangesOnly ps s t :=
  ChangesOnly.iff (by
    have hm := h.mpart
    have hb := h.mem
    unfold State.writeBlock; split
    · dsimp only; split <;> simp [State.lineUse_only h, hb]
    · split
      · simp [State.lostBlock_only h]
      · split
        · simp [hm, hb]
        · dsimp only; split <;> simp [State.meetBlock_only h, hm, hb])

@[simp] theorem State.writeMem_only (h : Met ps) (a bs src) : ChangesOnly ps s (t.writeMem a bs src).1 ↔ ChangesOnly ps s t :=
  ChangesOnly.iff (by
    have hm := h.mpart
    have hb := h.mem
    unfold State.writeMem; dsimp only; split
    · simp
    · split
      · split
        · simp [hb]
        · refine ChangesOnly.foldl2 _ _ (fun b p hp => ?_) _ (.refl ps t)
          exact (State.writeBlock_only h b _ _ src).2 hp
      · split
        · simp [hb]
        · refine ChangesOnly.foldl _ _ (fun i u hu => ?_) (ChangesOnly.foldl _ _ (fun w u hu => ?_) ((State.meetWords_only h _).2 (.refl ps t)))
          · split <;> simp [hb, hu]
          · split <;> simp [hm, hu])

@[simp] theorem State.readOwn_only (h : Met ps) (a n) : ChangesOnly ps s (t.readOwn a n).1 ↔ ChangesOnly ps s t :=
  ChangesOnly.iff (by unfold State.readOwn; split <;> simp [State.meet_only h])

@[simp] theorem State.takePages_only (h : Met ps) (hc : Piece.ckpt ∈ ps) (l) : ChangesOnly ps s (t.takePages l) ↔ ChangesOnly ps s t :=
  ChangesOnly.iff (by
    unfold State.takePages
    refine ChangesOnly.forAll _ _ (fun p u hu => ?_) (.refl ps t)
    have hv : ChangesOnly ps t (u.readPage p).1 := (State.readOwn_only h _ _).2 hu
    generalize u.readPage p = v at hv ⊢
    rcases v with ⟨v, bs, r⟩
    exact (ChangesOnly.ckpt hc _).2 hv)

/-- A write of the device's own (completion records, log records, fetched pages). -/
@[simp] theorem State.putMem_only (h : Met ps) (hc : Piece.ckpt ∈ ps) (a bs src) : ChangesOnly ps s (t.putMem a bs src).1 ↔ ChangesOnly ps s t :=
  ChangesOnly.iff (by
    have hr := h.regs
    unfold State.putMem; dsimp only; split <;> simp [State.writeMem_only h, State.takePages_only h hc, hr])

@[simp] theorem State.readAs_only (h : Met ps) (hn : Piece.run ∈ ps) (a n) : ChangesOnly ps s (t.readAs a n).1 ↔ ChangesOnly ps s t :=
  ChangesOnly.iff (by unfold State.readAs; dsimp only; split <;> simp [State.meet_only h, hn])

@[simp] theorem State.readSpace_only (h : Met ps) (hn : Piece.run ∈ ps) (sp a n) :
    ChangesOnly ps s (t.readSpace sp a n).1 ↔ ChangesOnly ps s t := State.readAs_only h hn _ _

@[simp] theorem State.writeAs_only (h : Met ps) (hc : Piece.ckpt ∈ ps) (f a bs) : ChangesOnly ps s (t.writeAs f a bs).1 ↔ ChangesOnly ps s t :=
  ChangesOnly.iff (by
    have hr := h.regs
    have hv := (State.writeMem_only h a bs 0).2 (.refl ps t)
    unfold State.writeAs
    generalize t.writeMem a bs 0 = v at hv ⊢
    split
    · simp
    · split
      · simp
      · split
        · simp
        · split
          · simp [hr]
          · split
            · simp [hr, hc]
            · exact hv)

@[simp] theorem State.writeAll_only (h : Met ps) (hc : Piece.ckpt ∈ ps) (f ws) : ChangesOnly ps s (t.writeAll f ws).1 ↔ ChangesOnly ps s t :=
  ChangesOnly.iff (by
    unfold State.writeAll
    refine ChangesOnly.foldl2 _ _ (fun x p hp => ?_) _ (by simp)
    dsimp only; split <;> simp [State.writeAs_only h hc, hp])

@[simp] theorem State.writeSpace_only (h : Met ps) (hc : Piece.ckpt ∈ ps) (f sp ws) : ChangesOnly ps s (t.writeSpace f sp ws).1 ↔ ChangesOnly ps s t :=
  State.writeAll_only h hc _ _

@[simp] theorem State.readMat_only (h : Met ps) (hn : Piece.run ∈ ps) (sp m) : ChangesOnly ps s (t.readMat sp m).1 ↔ ChangesOnly ps s t :=
  ChangesOnly.iff (by
    unfold State.readMat
    refine ChangesOnly.foldl2 _ _ (fun x p hp => ?_) _ (by simp)
    dsimp only; split <;> simp [State.readSpace_only h hn, hp])

/-! ### The numeric watch -/

@[simp] theorem State.watchLog_only (h : Met ps) (hc : Piece.ckpt ∈ ps) (n e f l st v) : ChangesOnly ps s (t.watchLog n e f l st v) ↔ ChangesOnly ps s t :=
  ChangesOnly.iff (by
    have hr := h.regs
    have hi := h.icu
    unfold State.watchLog; split
    · simp
    · extract_lets size tail a bs
      split
      · simp [hr]
      · split
        · simp [hr]
        · have hv := (State.putMem_only h hc a bs 0).2 (.refl ps t)
          generalize t.putMem a bs 0 = v at hv ⊢
          rcases v with ⟨v, bad⟩
          dsimp only; split <;> simp [hr, hi, hv])

/-- With the log disabled nothing is logged. -/
theorem State.watchLog_off (h : t.flag F.HUB_WATCH_LOG_CFG_EN = false) (n e f l st v) : t.watchLog n e f l st v = t := by
  simp [State.watchLog, h]

@[simp] theorem State.watchOnce_only (h : Met ps) (hc : Piece.ckpt ∈ ps) (hw : Piece.watch ∈ ps)
    (e f l st v) : ChangesOnly ps s (t.watchOnce e f l st v) ↔ ChangesOnly ps s t :=
  ChangesOnly.iff (by unfold State.watchOnce; split <;> simp [State.watchLog_only h hc, hw])

@[simp] theorem State.markLayer_only (hr : Piece.regs ∈ ps) (hi : Piece.icu ∈ ps) (hw : Piece.watch ∈ ps) (l) :
    ChangesOnly ps s (t.markLayer l) ↔ ChangesOnly ps s t :=
  ChangesOnly.iff (by simp [State.markLayer, hr, hi, hw])

theorem State.tally_only (h : Met ps) (hc : Piece.ckpt ∈ ps) (hw : Piece.watch ∈ ps)
    (st fm l sm y) : ChangesOnly ps s (t.tally st fm l sm y).1 ↔ ChangesOnly ps s t :=
  ChangesOnly.iff (by
    have hr := h.regs
    have hi := h.icu
    unfold State.tally; dsimp only
    generalize hu : (if y = Tally.zero then t else _ : State) = u
    have hu' : ChangesOnly ps t u := by
      rw [← hu]; simp [hw]
    generalize hv : (if y.nan + y.inf > 0 then u.watchOnce _ _ _ _ _ else u : State) = v
    have hv' : ChangesOnly ps t v := by
      rw [← hv]; simp [State.watchOnce_only h hc hw, hu']
    split
    · exact hv'
    · generalize hx : (if (st && (decide (sm = 2) || decide (sm = 8)) && !v.watch.ovfG.contains l) = true then _ else v : State) = x
      have hx' : ChangesOnly ps t x := by
        rw [← hx]; simp [hw, hv']
      split
      · split
        · simp [hr, hi, hw, hx']
        · simp [State.watchOnce_only h hc hw, State.watchLog_only h hc, hw, hx']
      · simp [State.watchOnce_only h hc hw, hx'])

@[simp] theorem State.noteCause_only (hn : Piece.run ∈ ps) (i) : ChangesOnly ps s (t.noteCause i) ↔ ChangesOnly ps s t :=
  ChangesOnly.iff (by simp [State.noteCause, hn])

@[simp] theorem State.countConvs_only (h : Met ps) (hc : Piece.ckpt ∈ ps) (hw : Piece.watch ∈ ps)
    (hn : Piece.run ∈ ps) (f fm l sm y) : ChangesOnly ps s (t.countConvs f fm l sm y) ↔ ChangesOnly ps s t :=
  ChangesOnly.iff (by
    unfold State.countConvs; split
    · simp
    · dsimp only; split <;> simp [State.tally_only h hc hw, hn])

@[simp] theorem State.missEvent_only (hr : Piece.regs ∈ ps) (hh : Piece.history ∈ ps) (hs : Piece.spares ∈ ps) (hf : Piece.free ∈ ps) (u c ms) :
    ChangesOnly ps s (t.missEvent u c ms) ↔ ChangesOnly ps s t :=
  ChangesOnly.iff (by unfold State.missEvent; split <;> simp [hr, hh, hs, hf])

theorem State.noteMisses_only (hr : Piece.regs ∈ ps) (hi : Piece.icu ∈ ps) (hh : Piece.history ∈ ps) (hs : Piece.spares ∈ ps) (hf : Piece.free ∈ ps)
    (hn : Piece.run ∈ ps) (f ms) : ChangesOnly ps s (t.noteMisses f ms) ↔ ChangesOnly ps s t :=
  ChangesOnly.iff (by
    unfold State.noteMisses; split
    · simp
    · simp [hr, hi, hh, hs, hf, hn])

@[simp] theorem State.noteBusy_only (hs : Piece.spares ∈ ps) (hf : Piece.free ∈ ps) (f c) : ChangesOnly ps s (t.noteBusy f c) ↔ ChangesOnly ps s t :=
  ChangesOnly.iff (by simp [State.noteBusy, hs, hf])

/-! ### Errors of memory -/

/-- Bits flip: only what the memories hold beside their bytes changes. -/
@[simp] theorem State.memErrors_only (hm : Piece.mpart ∈ ps) (es) : ChangesOnly ps s (t.memErrors es) ↔ ChangesOnly ps s t :=
  ChangesOnly.iff (ChangesOnly.foldl es _ (fun e _ hu => by unfold State.memError; split <;> (try split) <;> simp [hm, hu]) (.refl ps t))

/-! ### The work of a record -/

/-- The work of a record that runs is performed. -/
theorem State.work_runs {f : Flight} (h : t.runs f) (p : Flight → Bool) (g : Flight → State → State) (hp : p f = true) :
    t.work f.rid p g = g f t := by
  obtain ⟨h1, h2, h3⟩ := h
  simp [State.work, h1, h2, h3, hp]

/-- A record in flight stays as it is under whatever leaves the flights alone. -/
theorem State.flight_only (h : ChangesOnly ps s t) (hf : Piece.flights ∉ ps) (r : Nat) : t.flight? r = s.flight? r := by
  have := h .flights hf
  simp only [Piece.same] at this
  simp [State.flight?, this]

/-- The end of a record's work. -/
theorem State.finish_ended {f : Flight} (hs : s.flight? f.rid = some f) (ht : ∀ r, t.flight? r = s.flight? r) (resp detail : Nat) :
    EndedWith s (t.finish f.rid resp detail) f resp detail := by
  have h : t.flight? f.rid = some f := (ht f.rid).trans hs
  rw [t.finish_eq h]
  refine ⟨?_, fun r hr => ?_⟩
  · rw [t.flight_setFlight (f := { f with resp := some (resp, detail) }) h]; simp
  · rw [t.flight_setFlight (f := { f with resp := some (resp, detail) }) h, if_neg hr, ht]

@[simp] theorem State.finish_byte (r a b x : Nat) : (t.finish r a b).byte x = t.byte x := by
  unfold State.finish; split <;> rfl

/-! ### The watch with its log disabled -/

theorem State.raise_rd (n : Nat) {k : Nat} (hk : k < 0x80000) : (t.raise n).rd k = t.rd k := by
  have hp : ∀ (u : State) (p n : Nat), (u.planeEvent p n).rd k = u.rd k := by
    intro u p n
    have h1 : (u.setRegBit (pendReg p (n / 32)) (n % 32) true).rd k = u.rd k := by
      refine u.rd_wr_other _ ?_
      unfold pendReg; split <;> simp only [R.ICU_HPEND, R.ICU_FPEND] <;> omega
    unfold State.planeEvent; dsimp only; split
    · exact h1
    · split
      · unfold State.countEvent; dsimp only; split <;> exact h1
      · exact h1
  unfold State.raise; split
  · rw [hp, hp]
  · rfl

theorem State.markLayer_rd (l : Nat) {k : Nat} (hk : k < 0x80000) : (t.markLayer l).rd k = t.rd k := by
  unfold State.markLayer; split
  · rfl
  · rw [State.raise_rd _ hk]; rfl

theorem State.watchOnce_off (h : t.flag F.HUB_WATCH_LOG_CFG_EN = false) (e f l st v) : ∃ w, t.watchOnce e f l st v = { t with watch := w } := by
  unfold State.watchOnce; split
  · exact ⟨t.watch, rfl⟩
  · refine ⟨_, State.watchLog_off ?_ _ _ _ _ _ _⟩; exact h

/-- With the log disabled a tally reaches neither memory nor the log's registers. -/
theorem State.tally_off (h : t.flag F.HUB_WATCH_LOG_CFG_EN = false) (st fm l sm y) :
    (t.tally st fm l sm y).1.mem = t.mem ∧ (t.tally st fm l sm y).1.flag F.HUB_WATCH_LOG_CFG_EN = false := by
  have key : ∀ u : State, (∃ w, u = { t with watch := w }) → u.mem = t.mem ∧ u.flag F.HUB_WATCH_LOG_CFG_EN = false := by
    rintro u ⟨w, rfl⟩; exact ⟨rfl, h⟩
  have once : ∀ u : State, (∃ w, u = { t with watch := w }) → ∀ e f l st v, ∃ w, u.watchOnce e f l st v = { t with watch := w } := by
    rintro u ⟨w, rfl⟩ e f l st v
    obtain ⟨w', e'⟩ := State.watchOnce_off (t := { t with watch := w }) h e f l st v
    exact ⟨w', e'⟩
  unfold State.tally; dsimp only
  generalize hu : (if y = Tally.zero then t else _ : State) = u
  have hu' : ∃ w, u = { t with watch := w } := by
    rw [← hu]; split
    · exact ⟨t.watch, rfl⟩
    · split <;> exact ⟨_, rfl⟩
  generalize hv : (if y.nan + y.inf > 0 then u.watchOnce _ _ _ _ _ else u : State) = v
  have hv' : ∃ w, v = { t with watch := w } := by
    rw [← hv]; split
    · exact once u hu' _ _ _ _ _
    · exact hu'
  split
  · exact key v hv'
  · generalize hx : (if (st && (decide (sm = 2) || decide (sm = 8)) && !v.watch.ovfG.contains l) = true then _ else v : State) = x
    have hx' : ∃ w, x = { t with watch := w } := by
      rw [← hx]; split
      · obtain ⟨w, rfl⟩ := hv'; exact ⟨_, rfl⟩
      · exact hv'
    split
    · split
      · obtain ⟨w, rfl⟩ := hx'
        refine ⟨?_, ?_⟩
        · have := (State.markLayer_only (ps := [.regs, .icu, .watch]) (s := { t with watch := w }) (t := { t with watch := w })
            (by simp) (by simp) (by simp) l).2 (.refl _ _) .mem (by simp)
          exact this
        · simp only [State.flag, State.fget, State.markLayer_rd l (k := F.HUB_WATCH_LOG_CFG_EN.reg) (by decide)]
          exact h
      · split
        · exact key _ (once x hx' _ _ _ _ _)
        · apply key
          apply once
          obtain ⟨w, rfl⟩ := hx'
          refine ⟨_, State.watchLog_off ?_ _ _ _ _ _ _⟩
          exact h
    · exact key _ (once x hx' _ _ _ _ _)

theorem State.noteCause_regs (i : Nat) : (t.noteCause i).regs = t.regs ∧ (t.noteCause i).mem = t.mem := by
  unfold State.noteCause; split
  · exact ⟨rfl, rfl⟩
  · split <;> exact ⟨rfl, rfl⟩

theorem State.countConvs_off (h : t.flag F.HUB_WATCH_LOG_CFG_EN = false) (f fm l sm y) :
    (t.countConvs f fm l sm y).mem = t.mem ∧ (t.countConvs f fm l sm y).flag F.HUB_WATCH_LOG_CFG_EN = false := by
  unfold State.countConvs; split
  · exact ⟨rfl, h⟩
  · have := State.tally_off h (t.getC f.ctx).stepped fm l sm y
    dsimp only; split
    · refine ⟨(State.noteCause_regs 3).2.trans this.1, ?_⟩
      have e := (State.noteCause_regs (t := (t.tally (t.getC f.ctx).stepped fm l sm y).1) 3).1
      simp only [State.flag, State.fget, State.rd, e]
      exact this.2
    · exact this

end Sys2Proof.Machine
end

