-- ==== Sys2Proof/Laws/Errors.lean ====
section
/-! SUPPORT. What a corrected error leaves alone: the registers that no capture, counter or event of the memories touches, and everything but the pieces that record
it. -/
namespace Sys2Proof.Machine

variable {s t u : State}

/-- The register holds nothing that an access to memory records: no capture or event of a block, no counter of the depot or of a stack, no interrupt. -/
def keptReg (k : Nat) : Prop :=
  (k < 0x80000 ∧ 0x40 ≤ k % 0x10000 ∧ ¬(0x100A0 ≤ k ∧ k < 0x100C0) ∧ k ≠ R.HUB_UNIT_STS) ∨
    (0x1000000 ≤ k ∧ 0x40 ≤ k % 0x10000 ∧ ¬(k / 0x10000 % 16 = 4 ∧ 0x50 ≤ k % 0x1000 ∧ k % 0x1000 < 0x64))

/-- The registers that are kept read as before. -/
def Keeps (s t : State) : Prop := ∀ k, keptReg k → t.rd k = s.rd k

theorem Keeps.refl (s : State) : Keeps s s := fun _ _ => rfl

theorem Keeps.trans (h : Keeps s t) (h' : Keeps t u) : Keeps s u := fun k hk => (h' k hk).trans (h k hk)

theorem Keeps.fget (h : Keeps s t) (f : Fld) (hf : keptReg f.reg) : t.fget f = s.fget f := by simp only [State.fget, h _ hf]

theorem Keeps.flag (h : Keeps s t) (f : Fld) (hf : keptReg f.reg) : t.flag f = s.flag f := by simp only [State.flag, h.fget f hf]

theorem Keeps.wr (h : Keeps s t) {j : Nat} (v : Nat) (hj : ¬ keptReg j) : Keeps s (t.wr j v) := fun k hk => by
  have e : k ≠ j := by rintro rfl; exact hj hk
  rw [State.rd_wr_other _ _ e]; exact h k hk

/-- What changes no register keeps them. -/
theorem Keeps.regs (h : Keeps s t) (hu : u.regs = t.regs) : Keeps s u := fun k hk => by
  have := h k hk
  simpa only [State.rd, hu] using this

/-! ### Interrupts and events -/

theorem srcNamed_lt {n : Nat} (h : srcNamed n = true) : n < 0x540 := by
  simp only [srcNamed, Bool.or_eq_true, Bool.and_eq_true, decide_eq_true_eq] at h; omega

theorem icu_dropped {k : Nat} (h : 0x80000 ≤ k) (h' : k < 0x1000000) : ¬ keptReg k := by
  unfold keptReg; omega

theorem Keeps.planeEvent (h : Keeps s t) (p : Nat) {n : Nat} (hn : n < 0x540) : Keeps s (t.planeEvent p n) := by
  have h1 : Keeps s (t.setRegBit (pendReg p (n / 32)) (n % 32) true) :=
    h.wr _ (icu_dropped (by unfold pendReg; split <;> simp only [R.ICU_HPEND, R.ICU_FPEND] <;> omega)
      (by unfold pendReg; split <;> simp only [R.ICU_HPEND, R.ICU_FPEND] <;> omega))
  unfold State.planeEvent
  dsimp only
  split
  · exact h1
  · split
    · unfold State.countEvent; dsimp only; split <;> exact h1
    · exact h1

theorem Keeps.raise (h : Keeps s t) (n : Nat) : Keeps s (t.raise n) := by
  unfold State.raise
  split
  next e => exact (h.planeEvent 0 (srcNamed_lt e)).planeEvent 1 (srcNamed_lt e)
  next => exact h

theorem Keeps.setLevel (h : Keeps s t) (n : Nat) (b : Bool) : Keeps s (t.setLevel n b) := by
  unfold State.setLevel
  split
  · exact h
  next e =>
    have hn := srcNamed_lt (by simpa using e)
    have raw : ∀ p, ¬ keptReg (rawReg p (n / 32)) := fun p => icu_dropped
      (by unfold rawReg; split <;> simp only [R.ICU_HRAW, R.ICU_FRAW] <;> omega) (by unfold rawReg; split <;> simp only [R.ICU_HRAW, R.ICU_FRAW] <;> omega)
    dsimp only
    split
    · exact ((h.wr _ (raw 0)).wr _ (raw 1)).raise n
    · exact (h.wr _ (raw 0)).wr _ (raw 1)

theorem block_dropped (w : Nat) {o : Nat} (h : o < 0x40) : ¬ keptReg (w * 65536 + o) := by
  have e : (w * 65536 + o) % 0x10000 = o := by omega
  unfold keptReg; omega

theorem Keeps.event (h : Keeps s t) (w m : Nat) : Keeps s (t.event w m) :=
  (h.wr _ (block_dropped w (by decide))).setLevel _ _

/-! ### Corrected errors -/

theorem Keeps.putHistory (h : Keeps s t) (r : HistRec) : Keeps s (t.putHistory r) := by
  unfold State.putHistory
  split
  · exact h
  · split
    · exact h
    · split
      · exact h
      · exact h.wr _ (by unfold keptReg; decide)

theorem Keeps.unitEvent (h : Keeps s t) (v : UnitId) (e d : Nat) : Keeps s (t.unitEvent v e d) := by
  unfold State.unitEvent
  split
  · exact h
  · refine Keeps.putHistory ?_ _
    dsimp only
    split <;> exact h

theorem Keeps.unitEcc (h : Keeps s t) (v : UnitId) (ue : Bool) (sy : Nat) : Keeps s (t.unitEcc v ue sy) := by
  unfold State.unitEcc
  split
  · exact h.unitEvent v 4 sy
  · dsimp only
    have h' : ∀ x, Keeps s { t with spares := x } := fun x => h
    split
    · exact (h' _).unitEvent v 3 sy
    · exact h

theorem Keeps.chipError (h : Keeps s t) (k : Nat) (ue : Bool) (sy : Nat) : Keeps s (t.chipError k ue sy) := by
  have hd : ∀ j, 0x100A0 ≤ j → j < 0x100C0 → ¬ keptReg j := fun j h1 h2 => by unfold keptReg; omega
  unfold State.chipError
  generalize chipOwner t k = x
  rcases x with ⟨w, x, slice, word⟩
  dsimp only
  refine Keeps.unitEcc (Keeps.event ?_ _ _) _ _ _
  have h1 : Keeps s (if bit (t.rd (w * 65536 + R.BLK_EVT_RAW)) 2 = true then t else
      (t.wr (w * 65536 + R.BLK_ERR_INFO0) (x * 2 ^ 28 + slice * 2 ^ 22 + word % 2 ^ 22)).wr (w * 65536 + R.BLK_ERR_INFO1)
        (b2n ue * 2 ^ 31 + sy % 128 * 2 ^ 24 + ((t.wr (w * 65536 + R.BLK_ERR_INFO0) (x * 2 ^ 28 + slice * 2 ^ 22 + word % 2 ^ 22)).stepNum % 2 ^ 24))) := by
    split
    · exact h
    · exact (h.wr _ (block_dropped w (by decide))).wr _ (block_dropped w (by decide))
  split
  · refine h1.wr _ (hd _ ?_ ?_) <;> split <;> decide
  · exact h1

theorem stack_dropped {k : Nat} (i : Nat) (h : k / 0x10000 = 0x104) (h1 : 0x1050 ≤ k % 0x10000) (h2 : k % 0x10000 < 0x1064) : ¬ keptReg (stackReg k i) := by
  unfold keptReg stackReg pageReg carReg
  omega

theorem Keeps.captureErr (h : Keeps s t) (a : Nat) (ue : Bool) (syms pin src : Nat) : Keeps s (t.captureErr a ue syms pin src) := by
  have hc : ¬ keptReg (stackReg (if ue then R.MEM_UE_CNT else R.MEM_CE_CNT) (addrLoc a).stack) := by
    cases ue <;> exact stack_dropped _ (by decide) (by decide) (by decide)
  have ha : ¬ keptReg (stackReg R.MEM_ERR_ADDR (addrLoc a).stack) := stack_dropped _ (by decide) (by decide) (by decide)
  have ha' : ¬ keptReg (stackReg R.MEM_ERR_ADDR (addrLoc a).stack + 4) := by
    have : stackReg R.MEM_ERR_ADDR (addrLoc a).stack + 4 = stackReg (R.MEM_ERR_ADDR + 4) (addrLoc a).stack := by simp only [stackReg, pageReg, carReg]; omega
    rw [this]; exact stack_dropped _ (by decide) (by decide) (by decide)
  have hi : ¬ keptReg (stackReg R.MEM_ERR_INFO (addrLoc a).stack) := stack_dropped _ (by decide) (by decide) (by decide)
  unfold State.captureErr
  dsimp only
  generalize (stackReg (if ue then R.MEM_UE_CNT else R.MEM_CE_CNT) (addrLoc a).stack) = c at hc ⊢
  refine Keeps.raise (Keeps.event ?_ _ _) _
  split
  · exact h.wr _ hc
  · exact (((h.wr _ hc).wr _ ha).wr _ ha').wr _ hi

end Sys2Proof.Machine
end

