-- ==== Sys2Proof/Laws/Memory.lean ====
section
/-! SUPPORT. What the memory operations of records do: reads and writes of carriage-local memory, reads and writes of a healthy memory anywhere,
runs of writes. -/
namespace Sys2Proof.Machine

/-! ### Runs of writes -/

theorem afterWrites_congr {old new : Nat → Byte} (h : ∀ a, old a = new a) (ws : List (Nat × List Byte)) (a : Nat) :
    afterWrites old ws a = afterWrites new ws a := by
  have : old = new := funext h
  rw [this]

theorem afterWrites_append (old : Nat → Byte) (ws vs : List (Nat × List Byte)) (a : Nat) :
    afterWrites old (ws ++ vs) a = afterWrites (afterWrites old ws) vs a := by
  induction ws generalizing old with
  | nil => rfl
  | cons w ws ih => obtain ⟨b, bs⟩ := w; simp only [List.cons_append, afterWrites, ih]

/-- A byte outside every write is as before. -/
theorem afterWrites_outside (old : Nat → Byte) (ws : List (Nat × List Byte)) (a : Nat) (h : ∀ w ∈ ws, ¬ (w.1 ≤ a ∧ a < w.1 + w.2.length)) :
    afterWrites old ws a = old a := by
  induction ws generalizing old with
  | nil => rfl
  | cons w ws ih =>
    obtain ⟨b, bs⟩ := w
    simp only [afterWrites]
    rw [ih _ fun w hw => h w (List.mem_cons_of_mem _ hw)]
    exact if_neg (h (b, bs) List.mem_cons_self)

theorem State.byte_setBytes_after (s : State) (a : Nat) (bs : List Byte) (x : Nat) : (s.setBytes a bs).byte x = afterWrites s.byte [(a, bs)] x := by
  simp only [s.byte_setBytes, afterWrites]

/-! ### Carriage-local memory (R55) -/

theorem localAt_ge (n a : Nat) : 2 ^ 48 ≤ localAt n a := by
  simp only [localAt]
  have : 2 ^ 48 ≤ 2 ^ 48 * (n + 1) := Nat.le_mul_of_pos_right _ (Nat.succ_pos n)
  omega

theorem isStacked_far {a : Nat} (h : 2 ^ 48 ≤ a) : isStacked a = false := by
  exact decide_eq_false (by simp only [stackedEnd]; omega)

theorem isDepot_far {a : Nat} (h : 2 ^ 48 ≤ a) : isDepot a = false := by
  simp only [isDepot, depotEnd, Bool.and_eq_false_iff]; exact .inr (decide_eq_false (by omega))

theorem State.addrFenced_far (s : State) {a : Nat} (h : 2 ^ 48 ≤ a) : s.addrFenced a = false := by
  simp [State.addrFenced, isStacked_far h, isDepot_far h]

theorem fenceProbes_ge {a n x : Nat} (h : x ∈ fenceProbes a n) : a ≤ x := by
  simp only [fenceProbes, List.mem_flatMap, List.mem_map] at h
  obtain ⟨b, hb, i, _, rfl⟩ := h
  have : a ≤ b := by
    rcases List.mem_cons.1 hb with rfl | hb
    · exact Nat.le_refl _
    · have := (List.mem_filter.1 hb).2
      simp only [Bool.and_eq_true, decide_eq_true_eq] at this
      omega
  omega

theorem State.rangeFenced_far (s : State) {a : Nat} (n : Nat) (h : 2 ^ 48 ≤ a) : s.rangeFenced a n = false := by
  simp only [State.rangeFenced, Bool.and_eq_false_iff, List.any_eq_false]
  refine .inr fun x hx => ?_
  rw [s.addrFenced_far (Nat.le_trans h (fenceProbes_ge hx))]; simp

theorem State.guarded_far (s : State) (f : Flight) {a : Nat} (n : Nat) (h : 2 ^ 48 ≤ a) : s.guarded f a n = false := by
  have : s.inStateRange a n = false := by
    simp only [State.inStateRange, List.any_eq_false, rangeTouches, isStacked_far h]; intro r _; simp
  simp [State.guarded, State.guardedCtx, this]

theorem State.rangeRetired_far (s : State) {a : Nat} (n : Nat) (h : 2 ^ 48 ≤ a) : s.rangeRetired a n = false := by
  simp [State.rangeRetired, isStacked_far h]

theorem State.stallsAt_far (s : State) {a : Nat} (n : Nat) (h : 2 ^ 48 ≤ a) : s.stallsAt a n = false := by
  simp [State.stallsAt, isStacked_far h]

/-- What an access to carriage-local memory leaves alone besides its own effect, where the code of R177 corrects every word. -/
structure Mild (s t : State) : Prop where
  only     : ChangesOnly [.regs, .icu, .mpart, .mem, .history, .spares, .free] s t
  same     : { t.mpart with words := s.mpart.words } = s.mpart
  keeps    : Keeps s t
  corrects : s.corrects → t.corrects

theorem Mild.refl (s : State) : Mild s s := ⟨.refl _ s, rfl, .refl s, id⟩

theorem Mild.trans {s t u : State} (h : Mild s t) (h' : Mild t u) : Mild s u := by
  refine ⟨h.only.trans h'.only, ?_, h.keeps.trans h'.keeps, fun k => h'.corrects (h.corrects k)⟩
  have e := h'.same
  have e' := h.same
  rw [← e] at e'
  exact e'

/-- What records an error that the code corrects. -/
theorem Mild.noted {s t : State} (h : ChangesOnly [.regs, .icu, .history, .spares, .free] s t) (hk : Keeps s t) : Mild s t ∧ t.mem = s.mem := by
  have hm : t.mpart = s.mpart := h .mpart (by simp)
  refine ⟨⟨h.mono (by simp), by rw [hm], hk, fun hc w => ?_⟩, h .mem (by simp)⟩
  have := hc w
  simpa only [State.wordAt, hm] using this

theorem Mild.setBytes {s t : State} (h : Mild s t) (a : Nat) (bs : List Byte) : Mild s (t.setBytes a bs) := by
  obtain ⟨m, e⟩ := t.setBytes_mem_only a bs
  rw [e]
  exact h.trans ⟨(ChangesOnly.mem (by simp) m).2 (.refl _ t), rfl, fun _ _ => rfl, id⟩

theorem wordFix_zero : wordFix 0 = some 0 := by decide

theorem State.setWord_mild (s : State) (w : Nat) : Mild s (s.setWord w 0) := by
  refine ⟨(State.setWord_only (by simp) w 0).2 (.refl _ s), rfl, fun _ _ => rfl, fun hc k => ?_⟩
  by_cases e : k = w
  · subst e
    simp [State.wordAt, State.setWord, tget_tset_same, wordFix_zero]
  · have := hc k
    simpa [State.wordAt, State.setWord, tget_tset_other _ _ _ e] using this

/-- A word that the code corrects is recorded, and reads as what was written. -/
theorem State.meetWord_mild {s : State} (h : s.corrects) (w : Nat) : ∃ t, s.meetWord w = (t, false) ∧ Mild s t ∧ t.mem = s.mem := by
  unfold State.meetWord
  have hw := h w
  generalize s.wordAt w = x at hw ⊢
  simp only [hw, if_true]
  split
  · exact ⟨s, rfl, .refl s, rfl⟩
  · have hn : ChangesOnly [.regs, .icu, .history, .spares, .free] s (s.chipError (4 * w) false (wordSyndrome x)) := by simp [State.chipError]
    exact ⟨_, rfl, Mild.noted hn ((Keeps.refl s).chipError _ _ _)⟩

theorem State.meetWords_mild {s : State} (h : s.corrects) (ws : List Nat) : ∃ t, s.meetWords ws = (t, false) ∧ Mild s t ∧ t.mem = s.mem := by
  unfold State.meetWords
  suffices H : ∀ u : State, Mild s u ∧ u.mem = s.mem → ∃ t, ws.foldl (fun (p : State × Bool) w =>
      ((p.1.meetWord w).1, p.2 || (p.1.meetWord w).2)) (u, false) = (t, false) ∧ Mild s t ∧ t.mem = s.mem from H s ⟨.refl s, rfl⟩
  induction ws with
  | nil => exact fun u hu => ⟨u, rfl, hu⟩
  | cons w ws ih =>
    intro u hu
    obtain ⟨v, e, hv, hm⟩ := State.meetWord_mild (hu.1.corrects h) w
    simp only [List.foldl_cons, e, Bool.or_self]
    exact ih v ⟨hu.1.trans hv, hm.trans hu.2⟩

/-- A word that the code corrects is no lost one. -/
theorem State.unreadable_corrects {s : State} (h : s.corrects) {a : Nat} (ha : isStacked a = false) : s.unreadable a = false := by
  simp [State.unreadable, ha, h (a / 4)]

/-- A read of carriage-local memory where every word is corrected: the bytes as they stand. -/
theorem State.readAs_far {s : State} {a : Nat} (n : Nat) (h : 2 ^ 48 ≤ a) (hb : s.corrects) :
    ∃ t, s.readAs a n = (t, s.bytes a n, false) ∧ Mild s t ∧ t.mem = s.mem := by
  have hm : ∃ t, s.meet a n 0 = (t, false) ∧ Mild s t ∧ t.mem = s.mem := by
    unfold State.meet
    split
    · exact ⟨s, rfl, .refl s, rfl⟩
    · simp only [isStacked_far h, Bool.false_eq_true, if_false]
      exact State.meetWords_mild hb _
  obtain ⟨t, e, ht, hm⟩ := hm
  refine ⟨t, ?_, ht, hm⟩
  simp [State.readAs, e, State.bytes, State.byte, hm]

/-- Bytes stored one by one. -/
theorem State.setBytes_foldl (s : State) (a : Nat) (bs : List Byte) :
    (List.range bs.length).foldl (fun s i => s.setByte (a + i) (bs.getD i 0)) s = s.setBytes a bs := by
  induction bs generalizing s a with
  | nil => rfl
  | cons b bs ih =>
    rw [List.length_cons, List.range_succ_eq_map, List.foldl_cons, List.foldl_map, State.setBytes, ← ih]
    congr 1
    funext u i
    simp only [Nat.succ_eq_add_one, List.getD_cons_succ]
    rw [show a + (i + 1) = a + 1 + i from by omega]

/-- A write of on-chip memory where every word is corrected. -/
theorem State.writeMem_chip {s : State} {a : Nat} (bs : List Byte) (src : Nat) (h : isStacked a = false) (hb : s.corrects) :
    ∃ t, s.writeMem a bs src = (t, false) ∧ Mild s t ∧ ∀ x, t.byte x = afterWrites s.byte [(a, bs)] x := by
  have done : ∀ u : State, Mild s u → u.mem = s.mem → Mild s (u.setBytes a bs) ∧ ∀ x, (u.setBytes a bs).byte x = afterWrites s.byte [(a, bs)] x := by
    intro u hu hm
    refine ⟨hu.setBytes a bs, fun x => ?_⟩
    rw [State.byte_setBytes_after]
    exact afterWrites_congr (fun y => by simp only [State.byte, hm]) _ x
  unfold State.writeMem
  extract_lets n
  split
  · next e =>
    simp only [List.isEmpty_iff] at e; subst e
    exact ⟨_, rfl, done s (.refl s) rfl⟩
  · simp only [h, Bool.false_eq_true, if_false]
    split
    · exact ⟨_, rfl, done s (.refl s) rfl⟩
    · obtain ⟨t, e, ht, hm⟩ := State.meetWords_mild hb ((s.wordsIn a n).filter fun w => w * 4 < a || a + n < w * 4 + 4)
      rw [e]
      dsimp only
      have hin : ∀ w ∈ t.wordsIn a n, isStacked (4 * w) = false := by
        intro w hw
        simp only [State.wordsIn, List.mem_filter, Bool.and_eq_true, decide_eq_true_eq] at hw
        have ha := of_decide_eq_false h
        exact decide_eq_false (by simp only [stackedEnd] at ha ⊢; omega)
      have hl : ((t.wordsIn a n).filter fun w => (w * 4 < a || a + n < w * 4 + 4) && t.unreadable (4 * w)) = [] := by
        rw [List.filter_eq_nil_iff]
        intro w hw
        rw [State.unreadable_corrects (ht.corrects hb) (hin w hw)]; simp
      rw [hl]
      simp only [List.contains_nil, Bool.false_eq_true, if_false]
      rw [State.setBytes_foldl]
      suffices H : ∀ (l : List Nat) (u : State), Mild s u → u.mem = s.mem → Mild s (l.foldl (fun s w => s.setWord w 0) u) ∧
          (l.foldl (fun s w => s.setWord w 0) u).mem = s.mem from
        ⟨_, rfl, done _ (H _ t ht hm).1 (H _ t ht hm).2⟩
      intro l
      induction l with
      | nil => exact fun u hu hm => ⟨hu, hm⟩
      | cons w l ih => exact fun u hu hm => ih _ (hu.trans (u.setWord_mild w)) hm

theorem State.writeAs_far {s : State} (f : Flight) {a : Nat} (bs : List Byte) (h : 2 ^ 48 ≤ a) (hb : s.corrects) :
    ∃ t, s.writeAs f a bs = (t, .ok) ∧ Mild s t ∧ ∀ x, t.byte x = afterWrites s.byte [(a, bs)] x := by
  obtain ⟨t, e, ht, hx⟩ := State.writeMem_chip bs 0 (isStacked_far h) hb
  unfold State.writeAs
  split
  · next e' =>
    simp only [List.isEmpty_iff] at e'; subst e'
    refine ⟨s, rfl, .refl s, fun x => ?_⟩
    simp only [afterWrites, List.length_nil]
    rw [if_neg (by omega)]
  · simp only [s.rangeFenced_far _ h, s.rangeRetired_far _ h, s.guarded_far _ _ h, s.stallsAt_far _ h, e, Bool.false_eq_true, if_false]
    exact ⟨t, rfl, ht, hx⟩

/-- A run of writes to carriage-local memory: every one is performed, in order. -/
theorem State.writeAll_far {s : State} (f : Flight) (ws : List (Nat × List Byte)) (h : ∀ w ∈ ws, 2 ^ 48 ≤ w.1) (hb : s.corrects) :
    ∃ t, s.writeAll f ws = (t, .ok) ∧ Mild s t ∧ ∀ x, t.byte x = afterWrites s.byte ws x := by
  unfold State.writeAll
  suffices H : ∀ (s : State), s.corrects → ∃ t, ws.foldl (fun (p : State × Wrote) w =>
      if p.2.refused then (p.1, p.2) else ((p.1.writeAs f w.1 w.2).1, p.2.worse (p.1.writeAs f w.1 w.2).2)) (s, .ok) = (t, .ok) ∧
      Mild s t ∧ ∀ x, t.byte x = afterWrites s.byte ws x from H s hb
  induction ws with
  | nil => exact fun s _ => ⟨s, rfl, .refl s, fun _ => rfl⟩
  | cons w ws ih =>
    obtain ⟨b, bs⟩ := w
    intro s hb
    obtain ⟨u, e, hu, hx⟩ := State.writeAs_far f bs (h (b, bs) List.mem_cons_self) hb
    obtain ⟨t, e', ht, hy⟩ := ih (fun w hw => h w (List.mem_cons_of_mem _ hw)) u (hu.corrects hb)
    refine ⟨t, ?_, hu.trans ht, fun x => ?_⟩
    · simpa [e, Wrote.worse, Wrote.rank, Wrote.refused] using e'
    · rw [hy, afterWrites]
      exact afterWrites_congr hx ws x

theorem Space.writes_far (n : Nat) (ws : List (Nat × List Byte)) : ∀ w ∈ (Space.carriage n).writes ws, 2 ^ 48 ≤ w.1 := by
  intro w hw
  simp only [Space.writes, List.mem_map] at hw
  obtain ⟨v, _, rfl⟩ := hw
  exact localAt_ge n v.1

theorem State.writeSpace_carriage {s : State} (f : Flight) (n : Nat) (ws : List (Nat × List Byte)) (hb : s.corrects) :
    ∃ t, s.writeSpace f (.carriage n) ws = (t, .ok) ∧ Mild s t ∧ ∀ x, t.byte x = afterWrites s.byte ((Space.carriage n).writes ws) x :=
  State.writeAll_far f _ (Space.writes_far n ws) hb

theorem State.readSpace_carriage {s : State} (n a k : Nat) (hb : s.corrects) :
    ∃ t, s.readSpace (.carriage n) a k = (t, s.bytes (localAt n a) k, false) ∧ Mild s t ∧ t.mem = s.mem := State.readAs_far k (localAt_ge n a) hb

/-- A matrix read from carriage-local memory. -/
theorem State.readMat_carriage {s : State} (n : Nat) (m : Mat) (hb : s.corrects) :
    ∃ t, s.readMat (.carriage n) m = (t, s.rows (.carriage n) m, false) ∧ Mild s t ∧ t.mem = s.mem := by
  unfold State.readMat State.rows
  suffices H : ∀ (l : List Nat) (u : State) (acc : List (List Val)), Mild s u ∧ u.mem = s.mem → ∃ t, l.foldl (fun (p : State × List (List Val) × Bool) r =>
      let q := p.1.readSpace (.carriage n) (m.base + r * m.pitch) (rowBytes m.fmt m.cols)
      let t := if m.fmt.isBlock then q.1.readSpace (.carriage n) (m.scaleBase + r * up64 m.scales) m.scales else (q.1, [], false)
      (t.1, p.2.1 ++ [decodeRow m.fmt m.cols q.2.1 t.2.1], p.2.2 || q.2.2 || t.2.2)) (u, acc, false) =
      (t, acc ++ l.map (fun r => decodeRow m.fmt m.cols (s.bytes ((Space.carriage n).key (m.base + r * m.pitch)) (rowBytes m.fmt m.cols))
        (if m.fmt.isBlock then s.bytes ((Space.carriage n).key (m.scaleBase + r * up64 m.scales)) m.scales else [])), false) ∧ Mild s t ∧ t.mem = s.mem by
    simpa using H (List.range m.rows) s [] ⟨.refl s, rfl⟩
  intro l
  induction l with
  | nil => exact fun u acc hu => ⟨u, by simp, hu⟩
  | cons r l ih =>
    intro u acc hu
    have hby : ∀ v : State, v.mem = s.mem → ∀ a k, v.bytes a k = s.bytes a k := fun v hv a k => by simp only [State.bytes, State.byte, hv]
    obtain ⟨v, e, hv, hm⟩ := State.readSpace_carriage (s := u) n (m.base + r * m.pitch) (rowBytes m.fmt m.cols) (hu.1.corrects hb)
    simp only [List.foldl_cons, List.map_cons, e, hby u hu.2]
    by_cases hk : m.fmt.isBlock = true
    · obtain ⟨w, e', hw, hm'⟩ := State.readSpace_carriage (s := v) n (m.scaleBase + r * up64 m.scales) m.scales ((hu.1.trans hv).corrects hb)
      obtain ⟨t, et, ht⟩ := ih w (acc ++ [decodeRow m.fmt m.cols (s.bytes (localAt n (m.base + r * m.pitch)) (rowBytes m.fmt m.cols))
        (s.bytes (localAt n (m.scaleBase + r * up64 m.scales)) m.scales)]) ⟨(hu.1.trans hv).trans hw, hm'.trans (hm.trans hu.2)⟩
      refine ⟨t, ?_, ht⟩
      simp only [hk, if_true, e', hby v (hm.trans hu.2), Bool.or_self] at et ⊢
      rw [et]; simp [Space.key]
    · obtain ⟨t, et, ht⟩ := ih v (acc ++ [decodeRow m.fmt m.cols (s.bytes (localAt n (m.base + r * m.pitch)) (rowBytes m.fmt m.cols)) []])
        ⟨hu.1.trans hv, hm.trans hu.2⟩
      refine ⟨t, ?_, ht⟩
      simp only [hk, Bool.false_eq_true, if_false, Bool.or_self] at et ⊢
      rw [et]; simp [Space.key]

end Sys2Proof.Machine
end

