-- ==== Sys2Proof/Laws/Healthy.lean ====
section
/-! SUPPORT. Reads and writes of records in a healthy memory: nothing is uncorrectable, no write waits, and nothing closes the memory to the record. -/
namespace Sys2Proof.Machine

variable {s t : State}

/-- What a read or a write leaves alone besides its own effect: health, and what may close the memory to a record. -/
structure Calm (s t : State) : Prop where
  only   : ChangesOnly [.regs, .icu, .mpart, .mem, .history, .spares, .free] s t
  same   : { t.mpart with syms := s.mpart.syms, words := s.mpart.words, cands := s.mpart.cands, rowEvents := s.mpart.rowEvents, pinErrs := s.mpart.pinErrs,
                          cache := s.mpart.cache } = s.mpart
  keeps  : Keeps s t
  health : s.healthy → t.healthy

theorem Calm.refl (s : State) : Calm s s := ⟨.refl _ s, rfl, .refl s, id⟩

theorem Calm.trans {u : State} (h : Calm s t) (h' : Calm t u) : Calm s u := by
  refine ⟨h.only.trans h'.only, ?_, h.keeps.trans h'.keeps, fun k => h'.health (h.health k)⟩
  have e := h'.same
  have e' := h.same
  rw [← e] at e'
  exact e'

theorem Calm.remap (h : Calm s t) : t.mpart.remap = s.mpart.remap := by simpa using congrArg MemPart.remap h.same
theorem Calm.deadRows (h : Calm s t) : t.mpart.deadRows = s.mpart.deadRows := by simpa using congrArg MemPart.deadRows h.same
theorem Calm.retired (h : Calm s t) : t.mpart.retired = s.mpart.retired := by simpa using congrArg MemPart.retired h.same
theorem Calm.pch (h : Calm s t) : t.mpart.pch = s.mpart.pch := by simpa using congrArg MemPart.pch h.same
theorem Calm.srCur (h : Calm s t) : t.mpart.srCur = s.mpart.srCur := by simpa using congrArg MemPart.srCur h.same

theorem eraseAuto_kept (i : Nat) : keptReg (F.MEM_CFG_ERASE_AUTO.stack i).reg := by
  simp only [Fld.stack, Fld.page, Fld.car, pageReg, carReg, F.MEM_CFG_ERASE_AUTO, R.MEM_CFG]
  unfold keptReg; omega

theorem erasures_eq (h : t.mpart.pch = s.mpart.pch) (k : Nat) : t.erasures k = s.erasures k := by simp only [State.erasures, State.pchSts, h]

/-- A change that keeps what health asks for. -/
theorem Calm.of (only : ChangesOnly [.regs, .icu, .mpart, .mem, .history, .spares, .free] s t)
    (same : { t.mpart with syms := s.mpart.syms, words := s.mpart.words, cands := s.mpart.cands, rowEvents := s.mpart.rowEvents, pinErrs := s.mpart.pinErrs,
                           cache := s.mpart.cache } = s.mpart) (keeps : Keeps s t)
    (syms : s.healthy → t.mpart.syms = s.mpart.syms ∨ ∃ b, t.mpart.syms = tdel s.mpart.syms b)
    (words : s.corrects → t.corrects)
    (ways : (∀ p ∈ s.mpart.cache, ∀ w ∈ p.2.ways, ∀ e ∈ w.errs, wordFix e.2 = some e.2) →
      ∀ p ∈ t.mpart.cache, ∀ w ∈ p.2.ways, ∀ e ∈ w.errs, wordFix e.2 = some e.2) : Calm s t := by
  refine ⟨only, same, keeps, fun hs => ?_⟩
  have hk : t.ckpt = s.ckpt := only .ckpt (by simp)
  have hp : t.mpart.pch = s.mpart.pch := by simpa using congrArg MemPart.pch same
  have hsub : ∀ b, t.symsAt b = s.symsAt b ∨ t.symsAt b = [] := by
    intro b
    simp only [State.symsAt]
    rcases syms hs with e | ⟨c, e⟩
    · rw [e]; exact .inl rfl
    · rw [e]
      by_cases hb : b = c
      · subst hb; exact .inr (tget_tdel_same _ _ _)
      · exact .inl (tget_tdel_other _ _ hb)
  refine ⟨(by simpa using congrArg MemPart.bad same : t.mpart.bad = s.mpart.bad).trans hs.bad, fun b => ?_, ?_, words hs.words, ways hs.ways, (by simpa using congrArg MemPart.remap same : t.mpart.remap = s.mpart.remap).trans hs.remap,
    (by simpa using congrArg MemPart.deadRows same : t.mpart.deadRows = s.mpart.deadRows).trans hs.deadRows, (by simpa using congrArg MemPart.retired same : t.mpart.retired = s.mpart.retired).trans hs.retired, fun n => ?_, by rw [hk]; exact hs.copied,
    by rw [hk]; exact hs.stalled⟩
  · have h := hs.blocks b
    simp only [State.blockFix, erasures_eq hp] at h ⊢
    rcases hsub b with e | e
    · rw [e]; exact h
    · rw [e]; rfl
  · rcases hs.steady with e | e
    · left
      rcases syms hs with e' | ⟨c, e'⟩ <;> rw [e', e] <;> rfl
    · exact .inr fun i => (keeps.flag _ (eraseAuto_kept i)).trans (e i)
  · have := hs.serves n
    simp only [State.carriageDead, hp] at this ⊢
    exact this

theorem Calm.domOos (h : Calm s t) (d : Nat) : t.domOos d = s.domOos d := by
  have f (x : Fld) (hx : keptReg x.reg) : t.fget x = s.fget x := h.keeps.fget x hx
  simp only [State.domOos, f F.HUB_OOS1_CARRIAGE (by unfold keptReg; decide), f F.HUB_OOS0_ENGINE (by unfold keptReg; decide),
    f F.HUB_OOS0_PORT (by unfold keptReg; decide), f F.HUB_OOS0_MEM (by unfold keptReg; decide), f F.HUB_OOS1_HUBF (by unfold keptReg; decide)]

theorem Calm.fenced (h : Calm s t) (d : Nat) : t.fenced d = s.fenced d := by
  have hv := h.only .recov (by simp)
  simp only [Piece.same] at hv
  simp only [State.fenced, State.fencedDomains, hv, h.domOos]

theorem Calm.rangeFenced (h : Calm s t) (a n : Nat) : t.rangeFenced a n = s.rangeFenced a n := by
  have hv := h.only .recov (by simp)
  simp only [Piece.same] at hv
  have hl : ∀ k, t.channelLost k = s.channelLost k := fun k => by simp only [State.channelLost, State.carriageDead, h.pch, h.deadRows]
  have hf : ∀ x, t.addrFenced x = s.addrFenced x := fun x => by simp only [State.addrFenced, State.fencedDomains, hv, h.domOos, h.fenced, hl]
  simp only [State.rangeFenced, funext hf]

theorem Calm.rangeRetired (h : Calm s t) (a n : Nat) : t.rangeRetired a n = s.rangeRetired a n := by
  have hf : ∀ x, t.pageRetired x = s.pageRetired x := fun x => by simp only [State.pageRetired, h.retired]
  simp only [State.rangeRetired, funext hf, h.retired]

theorem Calm.guardedCtx (h : Calm s t) (c a n : Nat) : t.guardedCtx c a n = s.guardedCtx c a n := by
  have h1 := h.only .contexts (by simp)
  simp only [Piece.same] at h1
  have h3 : t.inStateRange a n = s.inStateRange a n := by simp only [State.inStateRange, h.srCur]
  have h4 : t.getC c = s.getC c := by simp only [State.getC, h1]
  have h5 : t.atBoundary = s.atBoundary := h.keeps.flag _ (by unfold keptReg; decide)
  have h6 := h.keeps.flag F.LXE_CFG_GUARD_EN (by unfold keptReg; decide)
  simp only [State.guardedCtx, h3, h4, h5, h6]

theorem Calm.guarded (h : Calm s t) (f : Flight) (a n : Nat) : t.guarded f a n = s.guarded f a n := by
  have h2 := h.only .ledger (by simp)
  simp only [Piece.same] at h2
  simp only [State.guarded, h.guardedCtx, State.windowOf, h2]

theorem Calm.writesFreely (h : Calm s t) {f : Flight} (hs : s.writesFreely f) : t.writesFreely f :=
  ⟨fun a n => (h.rangeFenced a n).trans (hs.1 a n), fun a n => (h.guarded f a n).trans (hs.2 a n)⟩

/-! ### Corrected errors -/

/-- A calm change that leaves the bytes alone. -/
def Still (s t : State) : Prop := Calm s t ∧ t.mem = s.mem

theorem Still.refl (s : State) : Still s s := ⟨.refl s, rfl⟩

theorem Still.trans {u : State} (h : Still s t) (h' : Still t u) : Still s u := ⟨h.1.trans h'.1, h'.2.trans h.2⟩

/-- What records an error that a code corrects. -/
theorem Still.noted (h : ChangesOnly [.regs, .icu, .history, .spares, .free] s t) (hk : Keeps s t) : Still s t := by
  have hm : t.mpart = s.mpart := h .mpart (by simp)
  refine ⟨Calm.of (h.mono (by simp)) (by rw [hm]) hk (fun _ => .inl (by rw [hm])) (fun hc w => ?_) (by rw [hm]; exact id), h .mem (by simp)⟩
  have := hc w
  simpa only [State.wordAt, hm] using this

theorem State.chipError_still (k sy : Nat) : Still s (s.chipError k false sy) :=
  Still.noted (by simp [State.chipError]) ((Keeps.refl s).chipError _ _ _)

/-- What the stacks count of corrected errors. -/
theorem Still.counted (c : List Nat) (r p : Tbl Nat) : Still s { s with mpart := { s.mpart with cands := c, rowEvents := r, pinErrs := p } } :=
  ⟨Calm.of ((ChangesOnly.mpart (by simp) _).2 (.refl _ s)) rfl (fun _ _ => rfl) (fun _ => .inl rfl) id id, rfl⟩

theorem State.candidate_still (a : Nat) : Still s (s.candidate a) := by
  unfold State.candidate
  dsimp only
  split
  · exact .refl s
  · exact Still.counted _ s.mpart.rowEvents s.mpart.pinErrs

theorem State.countPin_still (h : ∀ i, s.flag (F.MEM_CFG_ERASE_AUTO.stack i) = false) (l : Loc) (p : Nat) : Still s (s.countPin l p) := by
  unfold State.countPin
  extract_lets zero m part u
  have hu : Still s u := Still.counted s.mpart.cands s.mpart.rowEvents _
  have e : u.flag (F.MEM_CFG_ERASE_AUTO.stack l.stack) = false := h l.stack
  rw [if_neg (by simp [e])]
  exact hu

theorem State.stackCorrected_still (h : ∀ i, s.flag (F.MEM_CFG_ERASE_AUTO.stack i) = false) (a : Nat) (pins : List Nat) (src : Nat) :
    Still s (s.stackCorrected a pins src) := by
  unfold State.stackCorrected
  split
  · exact .refl s
  next p ps =>
    extract_lets l zero u n part v w
    have hu : Still s u := Still.noted (by simp [u]) ((Keeps.refl s).captureErr _ _ _ _ _)
    have hv : Still s v := hu.trans (Still.counted u.mpart.cands _ u.mpart.pinErrs)
    have hw : Still s w := by
      simp only [w]
      split
      · exact hv.trans (State.candidate_still a)
      · exact hv
    suffices H : ∀ (ps : List Nat) (x : State), Still s x → Still s (ps.foldl (fun x p => x.countPin l p) x) from H (p :: ps) w hw
    intro ps
    induction ps with
    | nil => exact fun x hx => hx
    | cons q ps ih =>
      intro x hx
      exact ih _ (hx.trans (State.countPin_still (fun i => (hx.1.keeps.flag _ (eraseAuto_kept i)).trans (h i)) l q))

theorem addSyms_self (l : List (Nat × Nat)) : addSyms l l = [] := by
  simp only [addSyms, Nat.xor_self, nonzero, List.map_eq_nil_iff, List.filter_eq_nil_iff]
  decide

/-- A block is read as it was written. -/
theorem State.meetBlock_healthy (h : s.healthy) (b src : Nat) : ∃ t, s.meetBlock b src = (t, false) ∧ Still s t := by
  have hd : s.blockDead b = false := by
    simp [State.blockDead, h.bad, State.poisoned, State.remapOf, h.remap, State.rowDead, h.deadRows, h.serves]
  unfold State.meetBlock
  rw [hd]
  simp only [Bool.false_eq_true, if_false, h.blocks b]
  split
  · exact ⟨s, rfl, .refl s⟩
  · next e =>
    have hr : s.recode b (s.symsAt b) = s := by simp [State.recode, addSyms_self]
    rw [hr]
    refine ⟨_, rfl, State.stackCorrected_still (fun i => ?_) _ _ _⟩
    rcases h.steady with k | k
    · exact absurd (by simp [State.symsAt, k, tget, noSyms]) e
    · exact k i

/-! ### The depot cache -/

theorem State.wr64_rd {k j : Nat} (v : Nat) (h : j ≠ k) (h' : j ≠ k + 4) : (s.wr64 k v).rd j = s.rd j := by
  rw [State.wr64, State.rd_wr_other _ _ h', State.rd_wr_other _ _ h]

theorem State.cleanBlock_still (h : s.healthy) (b : Nat) : Still s (s.cleanBlock b) := by
  refine ⟨Calm.of ((State.cleanBlock_only (by simp) b).2 (.refl _ s)) ?_ (fun _ _ => rfl) (fun _ => .inr ⟨b, rfl⟩) id id, rfl⟩
  have h1 := h.bad
  have h2 := h.remap
  simp only [State.cleanBlock, h1, h2, List.filter_nil, List.map_nil]
  cases hm : s.mpart
  simp only [hm] at h1 h2
  simp [h1, h2]

/-- The words of a way that the code corrects are recorded. -/
theorem State.meetWay_healthy (k : Nat) {w : Way} (hw : ∀ e ∈ w.errs, wordFix e.2 = some e.2) :
    ∃ t, s.meetWay k w = (t, { w with errs := [] }, false) ∧ Still s t := by
  unfold State.meetWay
  suffices H : ∀ (l : List (Nat × Nat)), (∀ e ∈ l, wordFix e.2 = some e.2) → ∀ u : State, Still s u → ∃ t, l.foldl (fun (x : State × Way × Bool) e =>
      match wordFix e.2 with
      | none => (x.1, { x.2.1 with errs := x.2.1.errs ++ [e] }, true)
      | some fix =>
        let at' := w.line * 128 + 4 * e.1
        let s := if fix = e.2 then x.1 else x.1.setNum at' 4 (x.1.num at' 4 ^^^ (e.2 ^^^ fix) % 2 ^ 32)
        (if fix = 0 then s else s.chipError (lineKey k w e.1) false (wordSyndrome e.2), x.2.1, x.2.2)) (u, { w with errs := [] }, false) =
      (t, { w with errs := [] }, false) ∧ Still s t from H w.errs hw s (.refl s)
  intro l
  induction l with
  | nil => exact fun _ u hu => ⟨u, rfl, hu⟩
  | cons e l ih =>
    intro hl u hu
    simp only [List.foldl_cons, hl e List.mem_cons_self, if_true]
    refine ih (fun x hx => hl x (List.mem_cons_of_mem _ hx)) _ ?_
    split
    · exact hu
    · exact hu.trans (State.chipError_still _ _)

theorem State.writeBack_healthy (h : s.healthy) (k : Nat) {w : Way} (hw : ∀ e ∈ w.errs, wordFix e.2 = some e.2) :
    ∃ t v, s.writeBack k w = (t, v) ∧ Still s t := by
  unfold State.writeBack
  split
  · exact ⟨s, w, rfl, .refl s⟩
  · obtain ⟨t, e, ht⟩ := State.meetWay_healthy (s := s) k hw
    rw [e]
    exact ⟨_, _, rfl, ht.trans (State.cleanBlock_still (ht.1.health h) _)⟩

/-- A change of the cache whose new set is corrected. -/
theorem State.setSet_still (k : Nat) (x : CacheSet) (hx : ∀ w ∈ x.ways, ∀ e ∈ w.errs, wordFix e.2 = some e.2) : Still s (s.setSet k x) := by
  refine ⟨Calm.of ((State.setSet_only (by simp) k x).2 (.refl _ s)) rfl (fun _ _ => rfl) (fun _ => .inl rfl) id (fun hc p hp => ?_), rfl⟩
  rcases mem_tset hp with hp | rfl
  · exact hc p hp
  · exact hx

theorem State.getSet_corrected (h : s.healthy) (k : Nat) : ∀ w ∈ (s.getSet k).ways, ∀ e ∈ w.errs, wordFix e.2 = some e.2 := by
  rcases tget_mem noSet s.mpart.cache k with e | e
  · simp [State.getSet, e, noSet]
  · exact h.ways _ e

theorem State.wr64_still {k : Nat} (v : Nat) (hk : k = R.DEP_HIT ∨ k = R.DEP_MISS) : Still s (s.wr64 k v) := by
  refine ⟨Calm.of ((State.wr64_only (by simp) k v).2 (.refl _ s)) rfl (fun j hj => ?_) (fun _ => .inl rfl) id id, rfl⟩
  have hd : ∀ i, 0x100A0 ≤ i → i < 0x100C0 → ¬ keptReg i := fun i h1 h2 => by unfold keptReg; omega
  rw [State.wr64_rd] <;> rintro rfl <;> rcases hk with rfl | rfl <;> exact hd _ (by decide) (by decide) hj

theorem State.placeLine_still (h : s.healthy) (k line : Nat) (old : Option (List Byte)) : Still s (s.placeLine k line old) := by
  unfold State.placeLine
  extract_lets set way u
  have hset : ∀ w ∈ set.ways, ∀ e ∈ w.errs, wordFix e.2 = some e.2 := State.getSet_corrected h k
  have hu : Still s u := by
    simp only [u]
    split
    next v e =>
      obtain ⟨t, w, e', ht⟩ := State.writeBack_healthy h k (hset v (List.mem_of_find?_eq_some e))
      rw [e']; exact ht
    next => exact .refl s
  refine hu.trans (State.setSet_still k _ fun w hw => ?_)
  rcases List.mem_cons.1 hw with rfl | hw
  · simp
  · exact hset w (List.mem_filter.1 hw).1

theorem State.putWay_still (h : s.healthy) (k : Nat) {v : Way} (hv : ∀ e ∈ v.errs, wordFix e.2 = some e.2) : Still s (s.putWay k v) := by
  refine State.setSet_still k _ fun w hw => ?_
  simp only [List.mem_map] at hw
  obtain ⟨x, hx, rfl⟩ := hw
  split
  · exact hv
  · exact State.getSet_corrected h k x hx

theorem State.lineUse_healthy (h : s.healthy) (b x y : Nat) (w : Bool) (src : Nat) : ∃ t, s.lineUse b x y w src = (t, false) ∧ Still s t := by
  unfold State.lineUse
  extract_lets slices whole k old fetch
  have hfetch : ∀ u : State, Still s u → ∃ t, fetch u = (t, false) ∧ Still s t := by
    intro u hu
    dsimp only [fetch]
    split
    · simp only [Bool.false_eq_true, if_false]
      exact ⟨_, rfl, hu.trans (State.placeLine_still (hu.1.health h) k b old)⟩
    · obtain ⟨v, e, hv⟩ := State.meetBlock_healthy (hu.1.health h) b src
      rw [e]
      simp only [Bool.false_eq_true, if_false]
      exact ⟨_, rfl, (hu.trans hv).trans (State.placeLine_still ((hu.trans hv).1.health h) k b old)⟩
  split
  · exact State.meetBlock_healthy h b src
  · split
    next v e =>
      have hv : ∀ e ∈ v.errs, wordFix e.2 = some e.2 := State.getSet_corrected h k v (List.mem_of_find?_eq_some e)
      have hu := State.wr64_still (s := s) ((s.rd64 R.DEP_HIT + 1) % 2 ^ 64) (.inl rfl)
      dsimp only
      generalize hc : (fun x_1 : Nat × Nat => !(w && decide (x ≤ b * 128 + 4 * x_1.1) && decide (b * 128 + 4 * x_1.1 + 4 ≤ y)) &&
        !(w && (decide (y ≤ b * 128 + 4 * x_1.1) || decide (b * 128 + 4 * x_1.1 + 4 ≤ x)))) = keep
      obtain ⟨t, et, ht⟩ := State.meetWay_healthy (s := s.wr64 R.DEP_HIT ((s.rd64 R.DEP_HIT + 1) % 2 ^ 64)) k (w := { v with errs := v.errs.filter keep })
        (fun e he => hv e (List.mem_filter.1 he).1)
      rw [et]
      simp only [Bool.not_false, if_true]
      exact ⟨_, rfl, (hu.trans ht).trans (State.putWay_still ((hu.trans ht).1.health h) k fun e he => hv e (List.mem_filter.1 he).1)⟩
    next => exact hfetch _ (State.wr64_still _ (.inr rfl))

theorem State.readBlock_healthy (h : s.healthy) (b src : Nat) : ∃ t, s.readBlock b src = (t, false) ∧ Still s t := by
  unfold State.readBlock
  split
  · exact State.lineUse_healthy h _ _ _ _ _
  · exact State.meetBlock_healthy h b src

/-- What an on-chip access leaves alone. -/
theorem Mild.calm (h : Mild s t) : Calm s t := by
  have same := h.same
  refine Calm.of h.only ?_ h.keeps (fun _ => .inl (by simpa using congrArg MemPart.syms same)) h.corrects (fun hc => ?_)
  · cases hp : t.mpart
    cases hq : s.mpart
    simp only [hp, hq] at same
    injection same
    simp only [*]
  · have : t.mpart.cache = s.mpart.cache := by simpa using congrArg MemPart.cache same
    rw [this]; exact hc

/-- A read in a healthy memory meets no error that the codes do not correct. -/
theorem State.meet_healthy (h : s.healthy) (a n src : Nat) : ∃ t, s.meet a n src = (t, false) ∧ Still s t := by
  unfold State.meet
  split
  · exact ⟨s, rfl, .refl s⟩
  · split
    · split
      · exact ⟨s, rfl, .refl s⟩
      · suffices H : ∀ (l : List Nat) (u : State), Still s u → ∃ t, l.foldl (fun (p : State × Bool) b =>
            ((p.1.readBlock b src).1, p.2 || (p.1.readBlock b src).2)) (u, false) = (t, false) ∧ Still s t from H _ s (.refl s)
        intro l
        induction l with
        | nil => exact fun u hu => ⟨u, rfl, hu⟩
        | cons b l ih =>
          intro u hu
          obtain ⟨v, e, hv⟩ := State.readBlock_healthy (hu.1.health h) b src
          simp only [List.foldl_cons, e, Bool.or_self]
          exact ih v (hu.trans hv)
    · obtain ⟨t, e, ht, hm⟩ := State.meetWords_mild h.words (s.wordsIn a n)
      exact ⟨t, e, ht.calm, hm⟩

/-- A read of a record in a healthy memory: the bytes as they stand. -/
theorem State.readAs_healthy (h : s.healthy) (a n : Nat) : ∃ t, s.readAs a n = (t, s.bytes a n, false) ∧ Still s t := by
  obtain ⟨t, e, ht⟩ := State.meet_healthy h a n 0
  refine ⟨t, ?_, ht⟩
  simp [State.readAs, e, State.bytes, State.byte, ht.2]

/-! ### Writes -/

theorem Calm.setBytes (h : Calm s t) (a : Nat) (bs : List Byte) : Calm s (t.setBytes a bs) := by
  obtain ⟨m, e⟩ := t.setBytes_mem_only a bs
  rw [e]
  exact h.trans (Calm.of ((ChangesOnly.mem (by simp) m).2 (.refl _ t)) rfl (fun _ _ => rfl) (fun _ => .inl rfl) id id)

/-- A calm state with bytes stored. -/
theorem Still.stored (h : Still s t) (a : Nat) (bs : List Byte) :
    Calm s (t.setBytes a bs) ∧ ∀ x, (t.setBytes a bs).byte x = afterWrites s.byte [(a, bs)] x := by
  refine ⟨h.1.setBytes a bs, fun x => ?_⟩
  rw [State.byte_setBytes_after]
  exact afterWrites_congr (fun y => by simp only [State.byte, h.2]) _ x

theorem State.writeBlock_healthy (h : s.healthy) (b lo : Nat) (part : List Byte) (src : Nat) :
    ∃ t, s.writeBlock b lo part src = (t, false) ∧ Calm s t ∧ ∀ x, t.byte x = afterWrites s.byte [(lo, part)] x := by
  unfold State.writeBlock
  split
  · obtain ⟨t, e, ht⟩ := State.lineUse_healthy h b lo (lo + part.length) true src
    rw [e]
    exact ⟨_, rfl, ht.stored lo part⟩
  · split
    next e => exact absurd e (by simp [State.rowDead, h.deadRows, h.serves])
    · split
      · exact ⟨_, rfl, (State.cleanBlock_still h b).stored lo part⟩
      · obtain ⟨t, e, ht⟩ := State.meetBlock_healthy h b src
        rw [e]
        have hs : Still t (t.setSyms b []) := by
          refine ⟨Calm.of ((State.setSyms_only (by simp) b []).2 (.refl _ t)) rfl (fun _ _ => rfl) (fun _ => .inr ⟨b, ?_⟩) id id, rfl⟩
          simp only [State.setSyms, tset, noSyms, if_true]
        exact ⟨_, rfl, (ht.trans hs).stored lo part⟩

/-- The bytes of a write up to an address, as one write. -/
theorem afterWrites_upto (old : Nat → Byte) (a : Nat) (bs : List Byte) (m b : Nat) (h1 : a ≤ m) (x : Nat) (hm : m ≤ a + bs.length) :
    afterWrites (fun y => if a ≤ y ∧ y < m then bs.getD (y - a) 0 else old y)
        [(m, (bs.drop (m - a)).take (min (a + bs.length) (b * 128 + 128) - m))] x =
      if a ≤ x ∧ x < max m (min (a + bs.length) (b * 128 + 128)) then bs.getD (x - a) 0 else old x := by
  simp only [afterWrites, List.length_take, List.length_drop]
  by_cases hx : m ≤ x ∧ x < min (a + bs.length) (b * 128 + 128)
  · rw [if_pos (by omega), if_pos (by omega)]
    simp only [List.getD_eq_getElem?_getD, List.getElem?_take, List.getElem?_drop]
    rw [if_pos (by omega), show m - a + (x - m) = x - a from by omega]
  · rw [if_neg (by omega)]
    by_cases hy : a ≤ x ∧ x < m
    · rw [if_pos hy, if_pos (by omega)]
    · rw [if_neg hy, if_neg (by omega)]

/-- A write in a healthy memory is performed. -/
theorem State.writeMem_healthy (h : s.healthy) (a : Nat) (bs : List Byte) (src : Nat) :
    ∃ t, s.writeMem a bs src = (t, false) ∧ Calm s t ∧ ∀ x, t.byte x = afterWrites s.byte [(a, bs)] x := by
  have plain : ∃ t, (s.setBytes a bs, false) = (t, false) ∧ Calm s t ∧ ∀ x, t.byte x = afterWrites s.byte [(a, bs)] x :=
    ⟨_, rfl, (Still.refl s).stored a bs⟩
  by_cases hst : isStacked a = false
  · obtain ⟨t, e, ht, hx⟩ := State.writeMem_chip bs src hst h.words
    exact ⟨t, e, ht.calm, hx⟩
  unfold State.writeMem
  extract_lets n
  split
  · next e =>
    simp only [List.isEmpty_iff] at e; subst e
    refine ⟨s, rfl, .refl s, fun x => ?_⟩
    simp only [afterWrites, List.length_nil]
    rw [if_neg (by omega)]
  · next hne =>
    have hpos : 1 ≤ bs.length := by
      cases bs with
      | nil => exact absurd rfl hne
      | cons => simp
    simp only [hst, if_true]
    split
    · exact plain
    · suffices H : ∀ k, k ≤ (a + n - 1) / 128 - a / 128 + 1 → ∃ t, ((List.range k).map (a / 128 + ·)).foldl (fun (p : State × Bool) b =>
          let lo := max a (b * 128)
          let q := p.1.writeBlock b lo ((bs.drop (lo - a)).take (min (a + n) (b * 128 + 128) - lo)) src
          (q.1, p.2 || q.2)) (s, false) = (t, false) ∧ Calm s t ∧
          ∀ x, t.byte x = if a ≤ x ∧ x < max a (min (a + n) ((a / 128 + k) * 128)) then bs.getD (x - a) 0 else s.byte x by
        obtain ⟨t, e, hc, hx⟩ := H _ (Nat.le_refl _)
        refine ⟨t, ?_, hc, fun x => ?_⟩
        · rw [← e, blocksOf, if_neg (by omega)]
        · rw [hx, afterWrites, afterWrites]
          have : max a (min (a + n) ((a / 128 + ((a + n - 1) / 128 - a / 128 + 1)) * 128)) = a + bs.length := by
            simp only [n]; omega
          rw [this]
      intro k
      induction k with
      | zero =>
        intro _
        refine ⟨s, rfl, .refl s, fun x => ?_⟩
        rw [if_neg (by omega)]
      | succ k ih =>
        intro hk
        obtain ⟨t, e, hc, hx⟩ := ih (by omega)
        simp only [List.range_succ, List.map_append, List.map_cons, List.map_nil, List.foldl_append, List.foldl_cons, List.foldl_nil]
        have e' := e
        dsimp only at e'
        rw [e']
        obtain ⟨u, eu, hu, hy⟩ := State.writeBlock_healthy (hc.health h) (a / 128 + k) (max a ((a / 128 + k) * 128))
          ((bs.drop (max a ((a / 128 + k) * 128) - a)).take (min (a + n) ((a / 128 + k) * 128 + 128) - max a ((a / 128 + k) * 128))) src
        refine ⟨u, by rw [eu]; simp only [Bool.or_self], hc.trans hu, fun x => ?_⟩
        rw [hy, afterWrites_congr hx]
        have hm : max a (min (a + n) ((a / 128 + k) * 128)) = max a ((a / 128 + k) * 128) := by simp only [n]; omega
        rw [hm, afterWrites_upto s.byte a bs _ (a / 128 + k) (by omega) x (by omega)]
        have : max (max a ((a / 128 + k) * 128)) (min (a + bs.length) ((a / 128 + k) * 128 + 128)) =
            max a (min (a + n) ((a / 128 + (k + 1)) * 128)) := by simp only [n]; omega
        rw [this]

theorem State.rangeRetired_healthy (h : s.healthy) (a n : Nat) : s.rangeRetired a n = false := by simp [State.rangeRetired, h.retired]

theorem State.stallsAt_healthy (h : s.healthy) (a n : Nat) : s.stallsAt a n = false := by
  have : s.unread a n = [] := by unfold State.unread; split <;> simp [h.copied]
  simp [State.stallsAt, this, h.stalled]

/-- A write of the device's own in a healthy memory. -/
theorem State.putMem_healthy (h : s.healthy) (a : Nat) (bs : List Byte) (src : Nat) :
    ∃ t, s.putMem a bs src = (t, false) ∧ Calm s t ∧ ∀ x, t.byte x = afterWrites s.byte [(a, bs)] x := by
  have : s.unread a bs.length = [] := by unfold State.unread; split <;> simp [h.copied]
  simp only [State.putMem, this, List.isEmpty_nil, if_true]
  exact State.writeMem_healthy h a bs src

/-- A write in a healthy memory that nothing closes to the record: the bytes stand where they were written. -/
theorem State.writeAs_healthy (h : s.healthy) {f : Flight} (hf : s.writesFreely f) (a : Nat) (bs : List Byte) :
    ∃ t, s.writeAs f a bs = (t, .ok) ∧ Calm s t ∧ ∀ x, t.byte x = afterWrites s.byte [(a, bs)] x := by
  obtain ⟨t, e, hc, hx⟩ := State.writeMem_healthy h a bs 0
  unfold State.writeAs
  split
  · next e' =>
    simp only [List.isEmpty_iff] at e'; subst e'
    refine ⟨s, rfl, .refl s, fun x => ?_⟩
    simp only [afterWrites, List.length_nil]
    rw [if_neg (by omega)]
  · simp only [State.rangeRetired_healthy h, hf.1, hf.2, State.stallsAt_healthy h, Bool.false_eq_true, if_false, e]
    exact ⟨t, rfl, hc, hx⟩

/-- A run of writes in a healthy memory that nothing closes to the record. -/
theorem State.writeAll_healthy (h : s.healthy) {f : Flight} (hf : s.writesFreely f) (ws : List (Nat × List Byte)) :
    ∃ t, s.writeAll f ws = (t, .ok) ∧ Calm s t ∧ ∀ x, t.byte x = afterWrites s.byte ws x := by
  unfold State.writeAll
  suffices H : ∀ (s : State), s.healthy → s.writesFreely f → ∃ t, ws.foldl (fun (p : State × Wrote) w =>
      if p.2.refused then (p.1, p.2) else ((p.1.writeAs f w.1 w.2).1, p.2.worse (p.1.writeAs f w.1 w.2).2)) (s, .ok) = (t, .ok) ∧
      Calm s t ∧ ∀ x, t.byte x = afterWrites s.byte ws x from H s h hf
  induction ws with
  | nil => exact fun s _ _ => ⟨s, rfl, .refl s, fun _ => rfl⟩
  | cons w ws ih =>
    obtain ⟨b, bs⟩ := w
    intro s h hf
    obtain ⟨u, e, hc, hu⟩ := State.writeAs_healthy h hf b bs
    obtain ⟨t, e', hc', ht⟩ := ih u (hc.health h) (hc.writesFreely hf)
    refine ⟨t, ?_, hc.trans hc', fun x => ?_⟩
    · simpa [e, Wrote.worse, Wrote.rank, Wrote.refused] using e'
    · rw [ht, afterWrites]
      exact afterWrites_congr hu ws x

end Sys2Proof.Machine
end

