-- ==== Sys2Proof/WellFormed.lean ====
section
/-! DEFINITION. The operands that a command can carry: every field fits the width that the spec gives it, every number names something that
the device has. -/
namespace Sys2Proof

/-- The value fits a field of w bits. -/
def fits (w v : Nat) : Bool := v < 2 ^ w

/-- Flit headers hold a 10-bit ACK and SEQ and a 3-bit buffer code (R223). -/
def FlitHdr.wf (h : FlitHdr) : Bool := fits 10 h.ack && fits 3 h.crdBuf && fits 10 h.seq

/-- The fields of a packet header fit their widths (R228), VC and DL those of R223; it has no more link headers than flits. -/
def Packet.wf (p : Packet) : Bool :=
  fits 2 p.vc && fits 1 p.dl && fits 64 p.pctr && fits 64 p.step && fits 32 p.epoch && fits 14 p.bodyLen && fits 8 p.ptype && fits 18 p.src &&
    fits 5 p.flits && fits 18 p.dst && fits 32 p.gen && p.body.length ≤ 4128 && p.hdrs.length ≤ p.flits && p.hdrs.all FlitHdr.wf

/-- The fields of a host message fit their widths (R371); its class is 0 to 2 (R370), and it has no more link headers than flits. -/
def HostMsg.wf (m : HostMsg) : Bool :=
  fits 8 m.mtype && m.cls < 3 && fits 64 m.addr && fits 32 m.data && fits 16 m.tag && fits 14 m.queue && fits 6 m.ctx && fits 13 m.len &&
    fits 8 m.status && fits 64 m.mctr && m.body.length ≤ 4096 && m.hdrs.length ≤ 17 && m.hdrs.all FlitHdr.wf

/-- The five values of R230, and the lane map of a port's sixteen lanes and two spares (R219). -/
def Params.wf (p : Params) : Bool :=
  fits 18 p.coord && fits 18 p.dims && fits 32 p.yoke && fits 10 p.seq && fits 5 p.sp16 && fits 5 p.sp17 &&
    (match p.kcv with | some k => k.length = 16 | none => true)

/-- The fields of a Grielle header fit their widths, and a body has at most 20,480 bytes (R390). -/
def GMsg.wf (m : GMsg) : Bool :=
  m.path < 4 && fits 18 m.src && fits 8 m.version && fits 16 m.reqId && fits 32 m.seq && fits 32 m.len && fits 8 m.status && m.body.length ≤ 20480

/-- A block of stacked memory and pins of its burst, a memory key, an address; 16 bits of a symbol, 39 bits of a word (R173, R177). -/
def MemErr.wf : MemErr → Bool
  | .block addr syms => addr < 0x006000000000 && syms.all fun s => s.1 < 72 && fits 16 s.2
  | .word key flips => key < 5 * 2 ^ 48 && fits 39 flips
  | .line addr flips => addr < 0x006000000000 && fits 39 flips
  | .core flips => fits 39 flips

/-- A matrix fault names a product of MXC_CHK_POS's code, a row and column, and a bit of an accumulator (R65, R70). -/
def MxFault.wf (f : MxFault) : Bool := f.product < 3 && fits 16 f.row && fits 24 f.col && f.bit < if f.drain then 8 else 32

def CodeFault.wf (f : CodeFault) : Bool := fits 16 f.row && fits 26 f.byte && f.bit < 8

/-- A flip names bits of one byte. -/
def CoreFlip.wf (f : CoreFlip) : Bool := fits 8 f.mask

/-- A torus port, the Yoke port (R213), or with `host` the host link. -/
def portOk (p : Nat) : Bool := p < 7

def linkOk (p : Nat) : Bool := p < 8

/-- A unit of a carriage: matrix core, lane group or decode unit, with its physical index (R290). -/
def unitOk (carriage unit index : Nat) : Bool := carriage < 4 && unit < 3 && index < 17

/-- The command can be given. -/
def Instr.wf : Instr → Bool
  | .registerWrite _ off size data tag => fits 64 off && 0 < size && size ≤ 4096 && fits 32 data && fits 16 tag
  | .pairLowRead _ r => fits 26 r.off && 0 < r.size && r.size ≤ 4096
  | .pairLowWrite _ off data tag => fits 26 off && fits 32 data && fits 16 tag
  | .pairHighWrite _ off data tag => fits 26 off && fits 32 data && fits 16 tag
  | .regRd r tag => fits 64 r.off && 0 < r.size && r.size ≤ 4096 && fits 16 tag
  | .regTimeout addr tag _ => fits 64 addr && fits 16 tag
  | .processorFault proc cls => proc < 8 && fits 8 cls
  | .doorbell page word => page < 64 && fits 32 word
  | .recordStart engine => engine < 16
  | .recordRetire _ => true
  | .nop _ => true
  | .mvPack x => x.faults.all CodeFault.wf
  | .mxGemm _ errs faults => errs.all MemErr.wf && faults.all MxFault.wf
  | .mxAttn _ faults => faults.all MxFault.wf
  | .vxEw _ => true
  | .vxRed _ => true
  | .vxPcm _ => true
  | .vxOptMoment _ => true
  | .vxOptSgdm _ => true
  | .vxOptSign _ => true
  | .mvCopy _ errs => errs.all MemErr.wf
  | .mvGather _ => true
  | .mvScatterAdd _ => true
  | .mvUnpack _ => true
  | .mvFill _ => true
  | .queCfgWrite _ data => fits 32 data
  | .queueStop _ => true
  | .queueResume _ => true
  | .queueSkip _ => true
  | .queCtxCfgWrite _ data => fits 32 data
  | .synValSet _ data => fits 32 data
  | .synAdd _ data => fits 32 data
  | .stepIssue => true
  | .stepBoundary times => times.length ≤ 7
  | .schedFirstWrite data => fits 32 data
  | .watchCapture => true
  | .watchCommit => true
  | .depModeWrite word data => word < 2 && fits 32 data
  | .depCrWrite reg data => reg < 16 && fits 32 data
  | .stateRangeWrite reg data => reg < 24 && fits 32 data
  | .scrub addr errs => fits 48 addr && errs.all MemErr.wf
  | .memRetrain _ stack => stack < 8
  | .pchTrainComplete stack pch failed => stack < 8 && pch < 32 && failed.all (· < 72)
  | .ixSample _ errs flips => errs.all MemErr.wf && flips.all CoreFlip.wf
  | .ixShuffle _ => true
  | .portTrainComplete port failed p => portOk port && failed.all (· < 18) && p.wf
  | .trainingTimeout port _ => portOk port
  | .linkLost port => portOk port
  | .laneErrorWindow port counts codewords => portOk port && counts.length ≤ 18 && fits 64 codewords
  | .portCtlWrite _ port data => portOk port && fits 32 data
  | .portRetrainRequest port => portOk port
  | .idle port h => linkOk port && h.wf
  | .nakRepeat port => linkOk port
  | .linkErr port h code seq => linkOk port && h.wf && fits 8 code && fits 10 seq
  | .retrainReq port h => linkOk port && h.wf
  | .key port h gen => linkOk port && h.wf && fits 32 gen
  | .abort port h step reason run domain origin =>
    portOk port && h.wf && fits 64 step && fits 8 reason && fits 4 run && fits 8 domain && fits 18 origin
  | .packetForward port p => portOk port && p.wf
  | .fabUnreach port p => linkOk port && p.wf
  | .mapReload _ => true
  | .cxAllreduce _ => true
  | .cxRedscat _ => true
  | .cxAllgather _ => true
  | .cxSend _ => true
  | .cxSignal _ => true
  | .cxRing port p => linkOk port && p.wf
  | .cxWrite port p => linkOk port && p.wf
  | .remoteSignal port p => linkOk port && p.wf
  | .cxResp port p => linkOk port && p.wf
  | .cxReady port p => linkOk port && p.wf
  | .cxVerdict port p => linkOk port && p.wf
  | .resend _ pseq => fits 32 pseq
  | .layoutArm _ => true
  | .layoutCancel _ => true
  | .layoutApply => true
  | .lxRecord _ => true
  | .lxForward _ => true
  | .lxVerdict _ => true
  | .lxWindow _ => true
  | .lxData port p => linkOk port && p.wf
  | .lxHeader port p => linkOk port && p.wf
  | .lxDigest port p => linkOk port && p.wf
  | .lxResp port p => linkOk port && p.wf
  | .stateReread _ => true
  | .spareSelfTest carriage unit index _ => unitOk carriage unit index
  | .remountRetire _ carriage unit index => unitOk carriage unit index
  | .remountReturn _ carriage unit index => unitOk carriage unit index
  | .expel m => m.wf
  | .abortStep m => m.wf
  | .reissue m => m.wf
  | .joinLoad m => m.wf
  | .takeover m => m.wf
  | .joinCancel m => m.wf
  | .standby m => m.wf
  | .voteExpired low high => fits 256 low && fits 256 high
  | .lxCkpt _ => true
  | .ckptPageCopy page => fits 28 page
  | .stalledWritePerformed page => fits 28 page
  | .ckptUnit port p => linkOk port && p.wf
  | .ckptEnd port p => linkOk port && p.wf
  | .ckptReduce port p => linkOk port && p.wf
  | .ckptFetch port p => linkOk port && p.wf
  | .lxCkptRebuild _ => true
  | .lxRestore _ => true
  | .ckptDrained => true
  | .ckptDiscard => true
  | .preNotice _ data => fits 32 data
  | .preemptN => true
  | .ckptStop port p => linkOk port && p.wf
  | .release => true
  | .engineProgressExpire engine => engine < 16
  | .syncWaitExpire queue => fits 14 queue
  | .fabricResponseExpire _ => true
  | .peerTimeout port => portOk port
  | .fenceDrainExpire domain => fits 8 domain
  | .collectComplete tick _ => fits 64 tick
  | .dumpReadTimeout window => fits 10 window
  | .collectAbandon _ _ => true
  | .domainResetComplete => true
  | .discardTimeout engine => engine < 16
  | .rstFenceCollectReset _ domain => fits 8 domain
  | .rstFenceHold _ domain => fits 8 domain
  | .rstRelease _ domain => fits 8 domain
  | .blkResetReq _ off => fits 26 off
  | .blkFenceReq _ off => fits 26 off
  | .blkEngineEn off data => fits 26 off && fits 32 data
  | .blkEvtSet off data => fits 26 off && fits 32 data
  | .dumpAck => true
  | .dumpHoldExpire => true
  | .abortCtlReissue => true
  | .groupTimerExpire group => group < 256
  | .interruptDelivery target => target < 8
  | .endOfInterrupt _ target vector => target < 8 && fits 8 vector
  | .stackClear _ target => target < 8
  | .stackPoptop _ target => target < 8
  | .icuMaskWrite _ plane index data => plane < 2 && index < 64 && fits 32 data
  | .htToDev _ => true
  | .htToHost _ => true
  | .htRing _ => true
  | .dmaRdData m => m.wf
  | .dmaWrAck m => m.wf
  | .hostTimeout tag => fits 16 tag
  | .hostPre m => m.wf
  | .hostLinkTrain modules => fits 4 modules
  | .mailboxGo data => fits 32 data
  | .discover m => m.wf
  | .getCert m => m.wf
  | .attest m => m.wf
  | .jobOpen m => m.wf
  | .jobClose m => m.wf
  | .keyLoad m => m.wf
  | .keyDerive m => m.wf
  | .keyErase m => m.wf
  | .keySlotChangeApply slot => slot < 256
  | .keySlotWaitTimeout slot => slot < 256
  | .read m => m.wf
  | .fwBegin m => m.wf
  | .fwWrite m => m.wf
  | .fwActivate m => m.wf
  | .fwCommit m => m.wf
  | .fwSessionTimeout => true
  | .holdRelease m => m.wf
  | .debugChal m => m.wf
  | .debugUnlock m => m.wf
  | .challengeExpire => true
  | .forward m => m.wf
  | .jtagInstruction code => fits 8 code
  | .supplyStart => true
  | .sysResetN _ => true
  | .firmwareBoot banks _ => banks.length = 2
  | .controlCoreRelease core => core < 7
  | .memoryInitComplete carriage => carriage < 4
  | .startupSelfTestComplete _ => true
  | .seal _ => true
  | .supplyWarn mv => fits 16 mv
  | .supplyWarnRecover mv => fits 16 mv
  | .supplySag mv => fits 16 mv
  | .supplySuspect mv => fits 16 mv
  | .supplySuspectRecover => true
  | .supplyReset => true
  | .powerTransientLimit => true
  | .powerCapTick watts => fits 16 watts
  | .thermalThrottle die => die < 16
  | .thermalRelease => true
  | .thermalReset die => die < 16
  | .thermalRestart => true
  | .refclkBad input => input < 2
  | .refclkRevertTimer => true
  | .refclkHoldExpire => true
  | .testUnitSelfTest _ target _ _ => fits 16 target
  | .testPchRetrain _ target => fits 16 target
  | .testPortRetrain _ target => fits 16 target
  | .testFullSelfTest _ => true
  | .calibrationPeriod => true
  | .testComplete _ _ => true
  | .discardedFlit port codewords => linkOk port && fits 64 codewords
  | .refclkGood input => input < 2
  | .powerTransientRelease => true
  | .forwardResponse code m => fits 8 code && m.wf
  | .forwardTimeout coord reqId => fits 18 coord && fits 16 reqId

end Sys2Proof
end

