-- ==== Sys2Proof/Tests/Slice0.lean ====
section
/-! SUPPORT. The model's own tests: ill-formed commands that the checks refuse, the spec's worked values, and for the statements with hypotheses
concrete states and operands that meet them, clause by clause. Each witness is State.reset with a few fields set. -/
namespace Sys2Proof.Machine

set_option Elab.async false

/-! ### Helpers -/

/-- A 512-bit word with values at bit positions. -/
def recOf (fs : List (Nat × Nat)) : RecWord := BitVec.ofNat 512 (fs.foldl (fun n p => n + p.2 * 2 ^ p.1) 0)

/-- Record 1 of a queue, of context 0. -/
def flightOf (queue : Nat) (w : RecWord) : Flight :=
  { rid := 1, queue := queue, ctx := 0, entry := 0, idx := 0, step := 5, word := w, unit := 0, resp := none, suspect := false, loose := false, key := 0, inj := none, shuf := [], cls := 3 }

def State.fly (s : State) (f : Flight) : State := { s with que := { s.que with flights := s.que.flights ++ [f] } }

/-- A record in flight that has ended with a response. -/
def Flight.ended (f : Flight) (r : Nat) : Flight := { f with resp := some (r, 0) }

/-- A queue that is enabled and runs; context 0 with it. -/
def State.withQueue (s : State) (q : Nat) : State :=
  (s.setQ q { s.getQ q with en := true, mode := .run, sizeLog2 := 4, ctx := 0, base := 0x10000 }).setC 0 { s.getC 0 with en := true }

/-- The queue's entry at HEAD is one record of a step, which has passed every check. -/
def State.withEntry (s : State) (q step : Nat) (w : RecWord) : State :=
  let s := s.withQueue q
  let s := s.setQ q { s.getQ q with tail := 1, entryOk := true, checked := true, waitMet := true }
  (s.setBytes 0x10000 (entryBytes step 1 0x20000)).setBytes 0x20000 (leBytes 64 w.toNat)

/-- The context of the tests is a stepped one. -/
def State.stepped (s : State) : State := s.setC 0 { s.getC 0 with stepped := true }

/-- Step n has been issued and runs. -/
def State.inStep (s : State) (n : Nat) : State :=
  let s := ((s.fset F.HUB_STEP_STS_BOUNDARY 0).wr64 R.HUB_STEP_NUM n).fset F.HUB_STEP_STS_PHASE 1
  { s with pos := { s.pos with issued := true, lastSealed := some (n - 1), firstSet := true } }

/-- The device stands at the boundary after step n. -/
def State.afterStep (s : State) (n : Nat) : State :=
  let s := s.wr64 R.HUB_STEP_NUM n
  { s with pos := { s.pos with lastSealed := some n, firstSet := true } }

/-- A port carries its link. -/
def State.linkedPort (s : State) (p : Nat) : State := s.fset (F.FAB_PORT_STS_STATE.page p) 2

def State.hostUp (s : State) : State := s.fset F.UCI_STS_LINK 1

def zeroHdr : FlitHdr := { nak := false, ack := 1023, crdEn := false, crdBuf := 0, seq := 0, bad := false }

def zeroPkt : Packet :=
  { vc := 0, dl := 0, pctr := 0, step := 0, epoch := 0, bodyLen := 0, ptype := 0, src := 0, flits := 1, y := false, dst := 0, body := [], gen := 0, resv := false,
    lastOk := true, credit := true, tagOk := true, hdrs := [] }

def zeroHost : HostMsg :=
  { mtype := 0, cls := 0, addr := 0, data := 0, tag := 0, queue := 0, ctx := 0, len := 0, status := 0, mctr := 0, body := [], resv := false, tagOk := true,
    lastOk := true, credit := true, hdrs := [] }

def zeroMsg : GMsg :=
  { path := 0, src := 0, version := 1, resp := false, sealed := false, reqId := 0, seq := 0, len := 0, status := 0, resv := false, body := [], tagOk := true, proofOk := true }

def zeroParams : Params := { coord := 0, dims := 0, yoke := 0, seq := 0, kcv := none, sp16 := 31, sp17 := 31 }

/-- The next state of an outcome; State.reset of any other. -/
def nextOf (o : Host.Outcome State Fault Refusal) : State := match o with | .next t => t | _ => State.reset

/-- Nothing fences, guards or spoils any memory. -/
def State.calm (s : State) : Bool :=
  s.mpart.bad = [] && s.mpart.syms = [] && s.mpart.words = [] && s.mpart.cache = [] && s.mpart.remap = [] && s.mpart.deadRows = [] && s.mpart.retired = [] && s.mpart.pch = [] &&
    s.ckpt.uncopied = [] && s.ckpt.stalled = [] && s.mpart.srCur = [] && s.recov.cur = none && s.recov.waiting = [] && s.recov.held = [] && s.rd R.HUB_OOS0 = 0 && s.rd R.HUB_OOS1 = 0

theorem bit_zero (i : Nat) : bit 0 i = false := by simp [bit]

theorem bits_zero (hi lo : Nat) : bits 0 hi lo = 0 := by simp [bits]

/-- The code corrects every word if it corrects those that have flipped bits. -/
theorem corrects_of {s : State} (h : ∀ p ∈ s.mpart.words, wordFix p.2 = some p.2) : s.corrects := fun w => by
  rcases tget_mem (fun _ => 0) s.mpart.words w with e | e
  · rw [State.wordAt, e]; decide
  · exact h _ e

/-- A calm state is healthy, and nothing that a record writes in it is refused. -/
theorem State.calm_free {s : State} (h : s.calm = true) : s.healthy ∧ (∀ a n, s.rangeFenced a n = false) ∧ ∀ f, s.writesFreely f := by
  simp only [State.calm, Bool.and_eq_true, decide_eq_true_eq] at h
  obtain ⟨⟨⟨⟨⟨⟨⟨⟨⟨⟨⟨⟨⟨⟨⟨h1, hs⟩, h2⟩, hw⟩, h3⟩, h4⟩, hr⟩, h5⟩, h6⟩, h7⟩, h8⟩, h9⟩, h10⟩, h11⟩, h12⟩, h13⟩ := h
  have oos : ∀ d, s.domOos d = false := fun d => by
    simp only [State.domOos, State.fget, show F.HUB_OOS1_CARRIAGE.reg = R.HUB_OOS1 from rfl, show F.HUB_OOS0_ENGINE.reg = R.HUB_OOS0 from rfl,
      show F.HUB_OOS0_PORT.reg = R.HUB_OOS0 from rfl, show F.HUB_OOS0_MEM.reg = R.HUB_OOS0 from rfl, show F.HUB_OOS1_HUBF.reg = R.HUB_OOS1 from rfl, h12, h13,
      bits_zero, bit_zero, ite_self]
  have fd : s.fencedDomains = [] := by simp [State.fencedDomains, h9, h10, h11]
  have fen : ∀ d, s.fenced d = false := fun d => by simp [State.fenced, fd, oos]
  have rng : ∀ a n, s.rangeFenced a n = false := fun a n => by simp [State.rangeFenced, State.addrFenced, fen, fd, oos]
  refine ⟨⟨h1, fun b => ?_, .inl hs, corrects_of (by simp [h2]), by simp [hw], h3, h4, hr, fun n => by simp [State.carriageDead, h5], h6, h7⟩, rng, fun f => ⟨rng, fun a n => ?_⟩⟩
  · simp [State.blockFix, State.symsAt, hs, tget, noSyms, pinDecode, syndromes]
  simp [State.guarded, State.guardedCtx, State.inStateRange, h8]

/-! ### Ill-formed commands -/

theorem test_wf_fields : ([
    .registerWrite .host (2 ^ 64) 4 0 0, .registerWrite .host 0 0 0 0, .registerWrite .host 0 4097 0 0, .registerWrite .host 0 4 (2 ^ 32) 0, .registerWrite .host 0 4 0 (2 ^ 16),
    .pairLowRead .host ⟨2 ^ 26, 4⟩, .pairLowRead .host ⟨0, 0⟩, .pairLowWrite .host (2 ^ 26) 0 0, .pairLowWrite .host 0 (2 ^ 32) 0, .pairHighWrite .host 0 0 (2 ^ 16), .regRd ⟨2 ^ 64, 4⟩ 0, .regRd ⟨0, 4097⟩ 0, .regRd ⟨0, 4⟩ (2 ^ 16),
    .regTimeout 0 (2 ^ 16) true, .processorFault 8 0, .processorFault 0 256, .doorbell 64 0, .doorbell 0 (2 ^ 32), .recordStart 16, .queCfgWrite .host (2 ^ 32),
    .queCtxCfgWrite .host (2 ^ 32), .synValSet .host (2 ^ 32), .synAdd .host (2 ^ 32), .stepBoundary (List.replicate 8 0), .schedFirstWrite (2 ^ 32),
    .depModeWrite 2 0, .depModeWrite 0 (2 ^ 32), .depCrWrite 16 0, .stateRangeWrite 24 0, .scrub (2 ^ 48) [], .memRetrain .host 8, .pchTrainComplete 8 0 [],
    .pchTrainComplete 0 32 [], .pchTrainComplete 0 0 [72], .resend 0 (2 ^ 32), .spareSelfTest 4 0 0 true, .spareSelfTest 0 3 0 true, .spareSelfTest 0 0 17 true,
    .remountRetire .host 4 0 0, .remountReturn .host 0 3 0, .voteExpired (2 ^ 256) 0, .voteExpired 0 (2 ^ 256), .ckptPageCopy (2 ^ 28), .stalledWritePerformed (2 ^ 28)] :
    List Instr).all (fun i => !i.wf) = true := by decide +kernel

theorem test_wf_numbers : ([
    .preNotice .host (2 ^ 32), .engineProgressExpire 16, .syncWaitExpire (2 ^ 14), .peerTimeout 7, .fenceDrainExpire 256, .collectComplete (2 ^ 64) 0, .dumpReadTimeout 1024,
    .discardTimeout 16, .rstFenceCollectReset .host 256, .rstFenceHold .host 256, .rstRelease .host 256, .blkResetReq .host (2 ^ 26), .blkFenceReq .host (2 ^ 26),
    .blkEngineEn (2 ^ 26) 0, .blkEngineEn 0 (2 ^ 32), .blkEvtSet (2 ^ 26) 0, .groupTimerExpire 256, .interruptDelivery 8, .endOfInterrupt .host 8 0, .endOfInterrupt .host 0 256,
    .stackClear .host 8, .stackPoptop .host 8, .icuMaskWrite .host 2 0 0, .icuMaskWrite .host 0 64 0, .icuMaskWrite .host 0 0 (2 ^ 32), .hostTimeout (2 ^ 16), .hostLinkTrain 16,
    .mailboxGo (2 ^ 32), .keySlotChangeApply 256, .keySlotWaitTimeout 256, .jtagInstruction 256, .firmwareBoot [true] 0, .controlCoreRelease 7, .memoryInitComplete 4,
    .supplyWarn (2 ^ 16), .supplyWarnRecover (2 ^ 16), .supplySag (2 ^ 16), .supplySuspect (2 ^ 16), .powerCapTick (2 ^ 16), .thermalThrottle 16, .thermalReset 16, .refclkBad 2,
    .refclkGood 2, .testUnitSelfTest .host (2 ^ 16) true 0, .testPchRetrain .host (2 ^ 16), .testPortRetrain .host (2 ^ 16), .forwardResponse 256 zeroMsg, .forwardTimeout (2 ^ 18) 0] :
    List Instr).all (fun i => !i.wf) = true := by decide +kernel

/-- What comes with a command is as wide as its fields: memory errors, faults, flips, ports, flit headers and training parameters. -/
theorem test_wf_links : ([
    .mxGemm 0 [.block (2 ^ 48) []] [], .mxGemm 0 [.block 0 [(72, 1)]] [], .mxGemm 0 [.block 0 [(0, 2 ^ 16)]] [], .mxGemm 0 [] [⟨false, 3, 0, 0, 0, false, false⟩], .mxAttn 0 [⟨false, 0, 2 ^ 16, 0, 0, false, false⟩],
    .mxAttn 0 [⟨false, 0, 0, 2 ^ 24, 0, false, false⟩], .mxGemm 0 [] [⟨true, 0, 0, 0, 8, true, false⟩], .mvPack ⟨0, [⟨0, 0, 8⟩]⟩, .mvPack ⟨0, [⟨2 ^ 16, 0, 0⟩]⟩, .mvPack ⟨0, [⟨0, 2 ^ 26, 0⟩]⟩, .mxAttn 0 [⟨false, 0, 0, 0, 32, false, false⟩], .mvCopy 0 [.word (5 * 2 ^ 48) 0],
    .ixSample 0 [.word 0 (2 ^ 39)] [], .mvCopy 0 [.line (2 ^ 48) 0], .mvCopy 0 [.line 0 (2 ^ 39)], .ixSample 0 [.core (2 ^ 39)] [],
    .ixSample 0 [] [⟨false, 0, 256⟩], .scrub 0 [.block 0 [(0, 2 ^ 16)]], .portTrainComplete 7 [] zeroParams, .portTrainComplete 0 [18] zeroParams,
    .portTrainComplete 0 [] { zeroParams with coord := 2 ^ 18 }, .portTrainComplete 0 [] { zeroParams with dims := 2 ^ 18 }, .portTrainComplete 0 [] { zeroParams with yoke := 2 ^ 32 },
    .portTrainComplete 0 [] { zeroParams with seq := 1024 }, .portTrainComplete 0 [] { zeroParams with sp16 := 32 }, .portTrainComplete 0 [] { zeroParams with sp17 := 32 },
    .portTrainComplete 0 [] { zeroParams with kcv := some [] }, .trainingTimeout 7 0, .linkLost 7, .laneErrorWindow 7 [] 0, .laneErrorWindow 0 (List.replicate 19 0) 0,
    .laneErrorWindow 0 [] (2 ^ 64), .portCtlWrite .host 7 0, .portCtlWrite .host 0 (2 ^ 32), .portRetrainRequest 7, .idle 8 zeroHdr, .idle 0 { zeroHdr with ack := 1024 },
    .idle 0 { zeroHdr with crdBuf := 8 }, .idle 0 { zeroHdr with seq := 1024 }, .nakRepeat 8, .linkErr 0 zeroHdr 256 0, .linkErr 0 zeroHdr 0 1024, .retrainReq 8 zeroHdr,
    .key 0 zeroHdr (2 ^ 32), .abort 7 zeroHdr 0 0 0 0 0, .abort 0 zeroHdr (2 ^ 64) 0 0 0 0, .abort 0 zeroHdr 0 256 0 0 0, .abort 0 zeroHdr 0 0 16 0 0, .abort 0 zeroHdr 0 0 0 256 0,
    .abort 0 zeroHdr 0 0 0 0 (2 ^ 18), .discardedFlit 8 0, .discardedFlit 0 (2 ^ 64)] : List Instr).all (fun i => !i.wf) = true := by decide +kernel

/-- Packets, host messages and Grielle messages hold what their headers can. -/
theorem test_wf_messages :
    ([{ zeroPkt with vc := 4 }, { zeroPkt with dl := 2 }, { zeroPkt with pctr := 2 ^ 64 }, { zeroPkt with step := 2 ^ 64 }, { zeroPkt with epoch := 2 ^ 32 },
      { zeroPkt with bodyLen := 2 ^ 14 }, { zeroPkt with ptype := 256 }, { zeroPkt with src := 2 ^ 18 }, { zeroPkt with flits := 32 }, { zeroPkt with dst := 2 ^ 18 },
      { zeroPkt with gen := 2 ^ 32 }, { zeroPkt with hdrs := [zeroHdr, zeroHdr] }, { zeroPkt with hdrs := [{ zeroHdr with ack := 1024 }] }, { zeroPkt with body := List.replicate 4129 0 }] : List Packet).all (fun p => !(Instr.cxRing 0 p).wf) = true ∧
    ([{ zeroHost with mtype := 256 }, { zeroHost with cls := 3 }, { zeroHost with addr := 2 ^ 64 }, { zeroHost with data := 2 ^ 32 }, { zeroHost with tag := 2 ^ 16 },
      { zeroHost with queue := 2 ^ 14 }, { zeroHost with ctx := 64 }, { zeroHost with len := 2 ^ 13 }, { zeroHost with status := 256 }, { zeroHost with mctr := 2 ^ 64 },
      { zeroHost with body := List.replicate 4097 0 }] : List HostMsg).all (fun m => !(Instr.hostPre m).wf) = true ∧
    ([{ zeroMsg with path := 4 }, { zeroMsg with src := 2 ^ 18 }, { zeroMsg with version := 256 }, { zeroMsg with reqId := 2 ^ 16 }, { zeroMsg with seq := 2 ^ 32 },
      { zeroMsg with len := 2 ^ 32 }, { zeroMsg with status := 256 }] : List GMsg).all (fun m => !(Instr.discover m).wf) = true ∧
    (Instr.cxRing 7 zeroPkt).wf = true ∧ (Instr.hostPre zeroHost).wf = true ∧ (Instr.discover zeroMsg).wf = true := by decide +kernel

/-! ### The step, the engines -/

theorem test_step_front : ∃ s c rest, State.pending s = c :: rest ∧ rest ≠ [] ∧ (nextOf (step s)).pending = rest ∧ (nextOf (step s)).power.spike = true :=
  ⟨{ State.reset with pending := [.powerTransientLimit, .release] }, .powerTransientLimit, [.release], by decide +kernel⟩

theorem test_canonical_step : ∃ s t, Memory.wf (State.mem s) = true ∧ s.mem ≠ [] ∧ step s = .next t :=
  ⟨{ (State.reset.setBytes 0x4000 [1, 0, 2]) with pending := [.release] }, _, by decide +kernel, by decide +kernel, rfl⟩

/-- An engine's record runs from reset. -/
def runningOn (queue op : Nat) (fs : List (Nat × Nat)) : State × Flight :=
  let f := flightOf queue (recOf ((0, op) :: fs))
  (State.reset.fly f, f)

theorem runs_of {s : State} {f : Flight} (h : s.flight? f.rid = some f ∧ f.resp = none ∧ s.halted (queueEngine f.queue) = false) : s.runs f := h

theorem test_gemm_witness : ∃ s f, State.runs s f ∧ f.onUnit 0 0x10 = true ∧ (s.memErrors [.word (2 ^ 48) 4, .block 0 [(0, 1)]]).corrects :=
  ⟨(runningOn 0 0x10 []).1, (runningOn 0 0x10 []).2, runs_of (by decide +kernel), by decide +kernel, corrects_of (by decide +kernel)⟩

theorem test_attn_witness : ∃ s f, State.runs s f ∧ f.onUnit 0 0x11 = true ∧ s.corrects :=
  ⟨(runningOn (9 * 1024) 0x11 []).1, (runningOn (9 * 1024) 0x11 []).2, runs_of (by decide +kernel), by decide +kernel, corrects_of (by decide +kernel)⟩

theorem test_vector_witness : ∀ op ∈ [0x20, 0x21, 0x22, 0x23, 0x24, 0x28], ∃ s f, State.runs s f ∧ f.onUnit 1 op = true ∧ s.corrects := by
  have h : ∀ op ∈ [0x20, 0x21, 0x22, 0x23, 0x24, 0x28], let x := runningOn (10 * 1024) op []
      (x.1.flight? x.2.rid = some x.2 ∧ x.2.resp = none ∧ x.1.halted (queueEngine x.2.queue) = false) ∧ x.2.onUnit 1 op = true ∧ ∀ p ∈ x.1.mpart.words, wordFix p.2 = some p.2 := by decide +kernel
  exact fun op ho => ⟨_, _, runs_of (h op ho).1, (h op ho).2.1, corrects_of (h op ho).2.2⟩

/-- MV_COPY and MV_GATHER from the carriage's first kilobyte, the last index of a gather beyond its table. -/
theorem test_move_witness :
    (∃ s f, State.runs s f ∧ f.onUnit 2 0x30 = true ∧ (mvOf (s.rungNow (mxLayer f.word)) f.word).source.isSome = true ∧
      (s.memErrors []).healthy ∧ s.writesFreely f) ∧
    ∃ s f, State.runs s f ∧ f.onUnit 2 0x31 = true ∧ (mvOf (s.rungNow (mxLayer f.word)) f.word).source.isSome = true ∧ s.healthy ∧ s.writesFreely f := by
  have h (op : Nat) : (runningOn 2048 op []).1.calm = true := by rfl
  exact ⟨⟨(runningOn 2048 0x30 []).1, (runningOn 2048 0x30 []).2, runs_of (by decide +kernel), by decide +kernel, by decide +kernel, 
      (State.calm_free (h 0x30)).1, (State.calm_free (h 0x30)).2.2 _⟩,
    (runningOn 2048 0x31 []).1, (runningOn 2048 0x31 []).2, runs_of (by decide +kernel), by decide +kernel, by decide +kernel, (State.calm_free (h 0x31)).1,
      (State.calm_free (h 0x31)).2.2 _⟩

theorem test_fills_witness :
    (∃ s f, State.runs s f ∧ f.onUnit 2 0x35 = true ∧ s.healthy ∧ s.writesFreely f) ∧
    (∃ s f, State.runs s f ∧ f.onUnit 2 0x32 = true ∧ (mvOf 0 f.word).sFmt = 6 ∧ (mvOf 0 f.word).dFmt = 6 ∧ (mvOf 0 f.word).source.isSome = true ∧ s.healthy ∧ s.writesFreely f) ∧
    (∃ s f, State.runs s f ∧ f.onUnit 2 0x33 = true ∧ (mvOf 0 f.word).source.isSome = true ∧ s.healthy ∧ s.writesFreely f) ∧
    (∃ s f, State.runs s f ∧ f.onUnit 2 0x34 = true ∧ (mvOf 0 f.word).source.isSome = true ∧ s.healthy ∧ s.writesFreely f) := by
  have h (op : Nat) (fs : List (Nat × Nat)) : (runningOn 2048 op fs).1.calm = true := by rfl
  have k (op : Nat) (fs : List (Nat × Nat)) := (State.calm_free (h op fs)).1
  have w (op : Nat) (fs : List (Nat × Nat)) := (State.calm_free (h op fs)).2.2
  exact ⟨⟨(runningOn 2048 0x35 []).1, (runningOn 2048 0x35 []).2, runs_of (by decide +kernel), by decide +kernel, k _ _, w _ _ _⟩,
    ⟨(runningOn 2048 0x32 [(160, 6), (164, 6)]).1, (runningOn 2048 0x32 [(160, 6), (164, 6)]).2, runs_of (by decide +kernel), by decide +kernel, by decide +kernel, by decide +kernel,
      by decide +kernel, k _ _, w _ _ _⟩,
    ⟨(runningOn 2048 0x33 []).1, (runningOn 2048 0x33 []).2, runs_of (by decide +kernel), by decide +kernel, by decide +kernel, k _ _, w _ _ _⟩,
    (runningOn 2048 0x34 []).1, (runningOn 2048 0x34 []).2, runs_of (by decide +kernel), by decide +kernel, by decide +kernel, k _ _, w _ _ _⟩

/-- Chunks of no value, of one and of 256. -/
theorem test_chunk_trips : ∀ n ∈ [0, 1, 256], ∀ form ∈ [4, 5], let xs := (List.range n).map fun i => (i * 257 + 65280) % 65536
    xs.length ≤ 256 ∧ (∀ x ∈ xs, x < 2 ^ 16) ∧ chunkDecode n (chunkEncode form xs) = xs ∧ (chunkEncode form xs).length ≤ 576 := by decide +kernel

/-! ### Registers -/

def sealedReset : State := State.reset.fset F.HUB_SEAL_STS_SEALED 1

/-- PWR_LEVELS: the least levels that R410 takes, and one step outside each limit. -/
theorem test_register_witness :
    (∀ a ∈ [Agent.host, .firmware], Obligations.reaches State.reset a R.HUB_SCHED_CFG) ∧
    (∀ k ∈ [R.HUB_SCHED_CFG, carReg R.MXC_CHK_CTL 3, pageReg R.FAB_PORT_STS 6, R.DMP_CFG], Obligations.reaches sealedReset .host k ∧ Obligations.plainOffset k = true ∧
      (rowOf (canonReg k)).isSome = true) ∧
    Obligations.reaches State.reset .host R.PWR_LEVELS ∧
    (∀ l ∈ [(360, 350, 340), (395, 360, 350), (360, 330, 320)], (nextOf (exec (.registerWrite .host R.PWR_LEVELS 4 (l.1 * 2 ^ 20 + l.2.1 * 2 ^ 10 + l.2.2) 0) State.reset)).rd R.PWR_LEVELS =
      l.1 * 2 ^ 20 + l.2.1 * 2 ^ 10 + l.2.2) ∧
    ∀ l ∈ [(359, 349, 339), (396, 360, 340), (360, 351, 340), (370, 349, 340), (380, 361, 351), (360, 329, 319)],
      (nextOf (exec (.registerWrite .host R.PWR_LEVELS 4 (l.1 * 2 ^ 20 + l.2.1 * 2 ^ 10 + l.2.2) 0) State.reset)).rd R.PWR_STS = 2 ^ 28 := by
  unfold Obligations.reaches; decide +kernel

/-- The headers of a window without pages of its own, of the last carriage window and of the last port's page. -/
theorem test_header_witness : ∀ x ∈ [(0, 0), (0x134, 2), (7, 7)], x.1 < 0x300 ∧ x.2 < windowPages x.1 := by decide +kernel

theorem test_pairs_witness :
    (isPairLow R.LXE_LEDGER_BASE = true ∧ State.reset.regStatus R.LXE_LEDGER_BASE 4 = 0 ∧ regNamed R.LXE_LEDGER_BASE = true ∧
      State.reset.regStatus R.LXE_LEDGER_BASE 2 ≠ 0 ∧ State.reset.cutOff .host = false) ∧
    (Obligations.reaches State.reset .host R.LXE_LEDGER_BASE ∧ State.reset.pairOpen 0 (canonReg R.LXE_LEDGER_BASE) = true ∧ canonReg R.LXE_LEDGER_BASE ≠ R.SYN_VAL ∧
      canonReg R.LXE_LEDGER_BASE ≠ R.HUB_SCHED_FIRST ∧ regNamed (R.LXE_LEDGER_BASE + 4) = true ∧ Obligations.reaches State.reset .host (R.LXE_LEDGER_BASE + 4)) ∧
    -- the high word applies both at once; BASE holds multiples of 64 KiB
    (let t := nextOf (exec (.pairLowWrite .host R.LXE_LEDGER_BASE 0x12345678 0) State.reset)
     t.rd R.LXE_LEDGER_BASE = 0 ∧ (nextOf (exec (.pairHighWrite .host (R.LXE_LEDGER_BASE + 4) 0x9 0) t)).rd64 R.LXE_LEDGER_BASE = 0x912340000) := by
  unfold Obligations.reaches; decide +kernel

/-- Addresses for each answer: unassigned, misaligned, fenced, unnamed, of a header, and of a register; and the writes that fail. -/
theorem test_answers_witness :
    (¬ (2 ^ 26 < 2 ^ 26 ∧ windowPages (offWindow (2 ^ 26)) ≠ 0) ∧ windowPages (offWindow 0xF0000) = 0) ∧
    (R.HUB_STEP_STS + 1 < 2 ^ 26 ∧ windowPages (offWindow (R.HUB_STEP_STS + 1)) ≠ 0 ∧ (R.HUB_STEP_STS + 1) % 4 ≠ 0) ∧
    (let s := { State.reset with recov := { State.reset.recov with held := [0x41] } }
     s.regFenced (offWindow R.QUE_CFG) (offPage R.QUE_CFG) = true ∧ regNamed R.QUE_CFG = true ∧ 0x40 ≤ inPage R.QUE_CFG ∧ windowPages (offWindow R.QUE_CFG) ≠ 0) ∧
    (regNamed 0xFFC = false ∧ 0x40 ≤ inPage 0xFFC ∧ windowPages (offWindow 0xFFC) ≠ 0) ∧ inPage 0x3C < 0x40 ∧
    (regNamed R.HUB_STEP_STS = true ∧ State.reset.regFenced 0 0 = false ∧ isPairLow R.HUB_STEP_STS = false ∧ isPairHigh R.HUB_STEP_STS = false) ∧
    (windowPages (offWindow 0x11000) ≤ offPage 0x11000 ∧ windowPages (offWindow 0x11000) ≠ 0) := by decide +kernel

/-! ### Queues -/

theorem test_doorbell_witness :
    (let s := State.reset.withQueue 3
     let x := s.getQ 3
     x.ctx = 0 ∧ x.en = true ∧ (s.getC 0).en = true ∧ 15 < 2 ^ x.sizeLog2 ∧ x.mode ≠ .reset ∧ (s.getC 0).mark ≠ .guilty ∧ s.ostlerStopped = false ∧
       s.fenced (0x10 + queueEngine 3) = false ∧ ((s.getC 0).stepped = true → s.rcv.stopped = false ∧ s.stepsBarred = false)) ∧
    ¬ (16 < 2 ^ ((State.reset.withQueue 3).getQ 3).sizeLog2) := by decide +kernel

/-- A record that has ended OK and signals. -/
theorem test_counter_witness :
    let f := (flightOf 0 (recOf [(9, 1), (48, 7)])).ended 0
    let s := State.reset.fly f
    s.flight? f.rid = some f ∧ s.halted (queueEngine f.queue) = false ∧ f.resp = some (0, 0) ∧ f.suspect = false ∧ s.ckpt.stalled.any (fun x => x.rid = some f.rid) = false ∧
      recCmpl f.word = false ∧ recSigEn f.word = true := by decide +kernel

/-- SYN_ADD wraps at 2^64. -/
theorem test_counter_wraps : (nextOf (exec (.synAdd .host 5) (State.reset.putCtr 0 (2 ^ 64 - 2)))).getCtr 0 = 3 := by decide +kernel

theorem test_queue_states :
    (State.reset.withQueue 3).queueState 3 = 1 ∧
    (let s := State.reset.withQueue 0; s.queueState (s.queSel (agentPage .host)) ≠ 4) ∧
    ((State.reset.withQueue 0).setQ 0 { (State.reset.withQueue 0).getQ 0 with mode := .stop }).queueState 0 = 4 ∧
    (let s := (State.reset.withEntry 0 0 0).setQ 0 { (State.reset.withEntry 0 0 0).getQ 0 with mode := .error, entryOk := false }
     s.queueState 0 = 5 ∧ (s.getQ 0).entryOk = false ∧ (s.getQ 0).head ≠ (s.getQ 0).tail) := by decide +kernel

theorem test_start_witness :
    (State.reset.engineOpen 2 = true ∧ State.reset.choose 2 = none) ∧
    (let s := State.reset.withEntry 2048 0 0
     s.choose 2 = some 2048 ∧ s.engineOpen 2 = true ∧ s.startable 2048 = some (0, noUnit) ∧ s.phaseHolds 2 0 ≠ 2 ∧ 2048 ∈ s.queueNumbers) ∧
    (let w := recOf [(0, 0x10)]
     let s := (State.reset.withEntry 0 0 w).putCtr 0 1
     s.choose 0 = some 0 ∧ s.engineOpen 0 = true ∧ (s.startable 0).map (·.1) = some w ∧ s.phaseHolds 0 w = 2 ∧ (s.getC (s.getQ 0).ctx).stepped = false) := by decide +kernel

theorem test_retire_witness :
    (let x := runningOn 0 0 []; x.1.flight? 1 = some x.2 ∧ x.2.resp = none ∧ x.1.halted (queueEngine x.2.queue) = false ∧ recOpcode x.2.word = 0) ∧
    (let f := (flightOf 0 0).ended 0
     let s := State.reset.fly f
     s.flight? f.rid = some f ∧ s.halted (queueEngine f.queue) = false ∧ f.resp = some (0, 0) ∧ s.ckpt.stalled.any (fun x => x.rid = some f.rid) = false ∧ f.suspect = false ∧
       recCmpl f.word = false) := by decide +kernel

/-! ### Steps -/

/-- A stepped queue holds an entry of step 6, and everything that R138 asks for holds. -/
def mayIssueSix : State :=
  (((State.reset.withEntry 0 6 0).stepped.afterStep 5).fset F.HUB_SCHED_CTL_RUN 1).fset F.HUB_SEAL_STS_SEALED 1

/-- A run of step 5 that has been rewound. -/
def rewound : State :=
  let s := (State.reset.inStep 5).fset F.HUB_STEP_STS_PHASE 6
  { s with pos := { s.pos with issued := false, run := 1 }, run := { s.run with hdr := { s.run.hdr with step := 5 } } }

theorem test_issue_witness :
    (rewound.mayReplay = true ∧ rewound.run.hdr.step = rewound.stepNum ∧ rewound.pos.run ≠ 0) ∧
    (mayIssueSix.mayReplay = false ∧ mayIssueSix.pos.lastSealed = some 5 ∧ mayIssueSix.startTests.mayIssue 6 = true) ∧
    ((State.reset.afterStep 5).mayReplay = false ∧ (State.reset.afterStep 5).startTests.mayIssue 6 = false) ∧
    (nextOf (exec .stepIssue mayIssueSix)).stepNum = 6 := by decide +kernel

def sealingStep : State := let s := State.reset.inStep 5; { s with pos := { s.pos with lastSealed := some 5 } }

theorem test_boundary_witness :
    State.reset.boundaryDue = false ∧ sealingStep.boundaryDue = true ∧
    (let s := (sealingStep.withEntry 0 5 0).stepped; s.boundaryDue = false ∧ s.startable 0 = some (0, noUnit)) ∧
    (State.reset.fget F.HUB_SCHED_CTL_RUN = 0 ∧ State.reset.fget F.HUB_STEP_STS_PHASE = 0) ∧
    (let s := State.reset.fset F.HUB_SCHED_CTL_RUN 1; ¬ (s.fget F.HUB_SCHED_CTL_RUN = 0 ∧ s.fget F.HUB_STEP_STS_PHASE = 0)) ∧
    (0 * 2 ^ 32 + State.reset.lowWord R.HUB_SCHED_FIRST (State.reset.rd R.HUB_SCHED_FIRST) = 0 ∧
     1 * 2 ^ 32 + State.reset.lowWord R.HUB_SCHED_FIRST (State.reset.rd R.HUB_SCHED_FIRST) ≠ 0) := by decide +kernel

theorem test_watch_witness :
    ((State.reset.fset F.HUB_WATCH_STS_PENDING 1).flag F.HUB_WATCH_STS_PENDING = true ∧ (State.reset.fset F.HUB_WATCH_SEL_INDEX 0x1001).fget F.HUB_WATCH_SEL_INDEX > 0x1000) ∧
    (let s := (State.reset.inStep 5).fset F.HUB_WATCH_SEL_INDEX 0x1000
     ¬ (s.flag F.HUB_WATCH_STS_PENDING = true ∨ s.fget F.HUB_WATCH_SEL_INDEX > 0x1000) ∧ s.standsAtBoundary = false) ∧
    (let s := State.reset.fset F.HUB_WATCH_SEL_INDEX 0x1000
     ¬ (s.flag F.HUB_WATCH_STS_PENDING = true ∨ s.fget F.HUB_WATCH_SEL_INDEX > 0x1000) ∧ s.standsAtBoundary = true) := by decide +kernel

/-! ### Memory, ingest, ports -/

/-- At the boundary, in a run, and under a sequence. -/
theorem test_held_memory_witness :
    (State.reset.standsAtBoundary = true ∧ State.reset.recov.cur = none) ∧ (State.reset.inStep 5).standsAtBoundary = false ∧
    (let s := nextOf (exec (.depModeWrite 0 5) (State.reset.inStep 5)); s.rd R.DEP_MODE = 5 ∧ s.rd R.DEP_MODE_CUR = State.reset.rd R.DEP_MODE_CUR) ∧
    (nextOf (exec (.depModeWrite 0 5) State.reset)).rd R.DEP_MODE_CUR = 5 := by decide +kernel

theorem test_upkeep_witness :
    (isStacked (5 * 2 ^ 47) = false ∧ isStacked 0 = true ∧ State.reset.fget (F.MEM_CFG_SCRUB_HOURS.stack (addrLoc 0).stack) ≠ 0) ∧
    (nextOf (exec (.scrub 0 [.block 0 ((List.range 5).map fun p => (p, 1))]) State.reset)).unreadable 0 = true ∧
    bits (State.reset.pchSts (pchKey 7 31)) 31 29 < 2 ∧
    (let s := nextOf (exec (.pchTrainComplete 7 31 [0, 71]) State.reset)
     bits (s.pchSts (pchKey 7 31)) 31 29 = 2 ∧ bits ((nextOf (exec (.pchTrainComplete 7 31 [0, 1, 2, 3, 4]) State.reset)).pchSts (pchKey 7 31)) 31 29 = 4 ∧
       (nextOf (exec (.pchTrainComplete 7 31 [0, 1, 2, 3, 4]) State.reset)).domOos 0x37 = true) := by decide +kernel

/-- The largest N is in the statement's range, and in a small one no two places meet. -/
theorem test_shuffle_small : (2 ^ 48 : Nat) ≤ 2 ^ 48 ∧
    (let x : Shuf := { n := 6, key := 0x0123456789ABCDEF, seed := 7, step0 := 0, members := 1, rank := 0, batch := 1 }
     ((List.range 6).map (x.permuted 0)).Nodup ∧ ∀ q, q < 6 → x.permuted 0 q < 6) := by decide +kernel

theorem test_ingest_witness :
    (∃ s f, State.runs s f ∧ queueEngine f.queue = 13 ∧ recOpcode f.word = 0x51 ∧ s.healthy ∧ s.writesFreely f) ∧
    ∃ s f, State.runs s f ∧ queueEngine f.queue = 13 ∧ recOpcode f.word = 0x50 := by
  have h : (runningOn (13 * 1024) 0x51 []).1.calm = true := by rfl
  exact ⟨⟨(runningOn (13 * 1024) 0x51 []).1, (runningOn (13 * 1024) 0x51 []).2, runs_of (by decide +kernel), by decide +kernel, by decide +kernel, (State.calm_free h).1,
    (State.calm_free h).2.2 _⟩, (runningOn (13 * 1024) 0x50 []).1, (runningOn (13 * 1024) 0x50 []).2, runs_of (by decide +kernel), by decide +kernel⟩

/-- A stream of one H.264 access unit at 0x40000, the window of context 0 open, and the sample of its first picture. -/
def streaming : State × Flight :=
  let f := flightOf (13 * 1024) (recOf [(0, 0x50), (374, 0x1000), (208, 16), (221, 16)])
  let s := (State.reset.setC 0 { State.reset.getC 0 with winLimit := 0x5FFFF }).fset F.IXE_WORK_SIZE_SIZE 64
  let s := s.setBytes 0x40000 (leBytes 22 (1 + 2 ^ 32 + 0x42000 * 2 ^ 64 + 0x41000 * 2 ^ 128))
  (((s.setBytes 0x42000 (leBytes 16 (2 ^ 48 + 4 * 2 ^ 64))).setBytes 0x41000 [9, 8, 7, 6]).fly f, f)

/-- One picture of 16 by 16 at which a decode may start. -/
def onePicture : Config.Parsed :=
  { pics := [{ (default : Config.Coded) with start := .idr, place := some 0, profile := .main, chroma := 1, depth := 8, width := 16, height := 16, codedW := 16, codedH := 16 }], final := 1, broken := false }

theorem parsed_one (h : ∀ b aus, Config.parse 1 b aus = onePicture) (r : IxRead) : r.parsed 1 = onePicture := h _ _

/-- What the codec makes of the access unit no file of the model says, so the witness of a sample that completes assumes it. -/
theorem test_sample_witness (h : ∀ b aus, Config.parse 1 b aus = onePicture) : let s := streaming.1; let f := streaming.2
    s.runs f ∧ queueEngine f.queue = 13 ∧ recOpcode f.word = 0x50 ∧ s.calm = true ∧ Obligations.showsSample s f [] [[9, 8, 7, 6]] ∧ (s.getC f.ctx).stepped = false := by
  have cod : (streamOf (streaming.1.num (ixOf streaming.2.word).stream 64)).codec = 1 := by decide +kernel
  have cnt : (streamOf (streaming.1.num (ixOf streaming.2.word).stream 64)).count = 1 := by decide +kernel
  have fr : (ixOf streaming.2.word).frames = 1 := by decide +kernel
  have rp : (ixOf streaming.2.word).rap = 0 := by decide +kernel
  refine ⟨runs_of (by decide +kernel), by decide +kernel, by decide +kernel, by decide +kernel, ?_, by decide +kernel⟩
  simp only [Obligations.showsSample, cod, fr]
  refine ⟨by decide +kernel, by decide, by rw [rp, cnt]; decide, ?_, ?_, ?_⟩
  · intro i au ha
    obtain ⟨rfl, rfl⟩ : i = 0 ∧ au = [9, 8, 7, 6] := by
      cases i with
      | zero => simpa [eq_comm] using ha
      | succ i => simp at ha
    decide +kernel
  · intro m m1 ml
    obtain rfl : m = 1 := by simp at ml; omega
    simp only [IxRead.fault, IxRead.decodes, IxRead.complete, IxRead.picks, parsed_one h]
    decide +kernel
  · intro i hi
    obtain rfl : i = 0 := by omega
    simp only [IxRead.pic, picOf, IxRead.picks, parsed_one h, Ix.picFault]
    decide +kernel
/-- A port that trains, one that carries a link, a partner that is miscabled and one in its place, and the third failure in a row in normal service. -/
theorem test_training_witness :
    ((State.reset.linkedPort 0).linkUp 0 = true ∧ State.reset.linkUp 6 = false ∧ State.reset.portState 6 = 1 ∧ (State.reset.linkedPort 0).portState 0 ≠ 1) ∧
    (State.reset.judge 0 { zeroParams with dims := 1 } = 3 ∧ State.reset.judge 0 zeroParams ≠ 3) ∧
    (let s := State.reset.setLink 6 { State.reset.getLink 6 with fails := 2 }
     let s := { s with recov := { s.recov with startup := false } }
     s.mode = 1 ∧ 3 ≤ (s.getLink 6).fails + 1 ∧ (nextOf (exec (.trainingTimeout 6 0) s)).portState 6 = 5 ∧ (nextOf (exec (.portTrainComplete 6 [0, 1, 2] zeroParams) s)).portState 6 = 5) ∧
    (nextOf (exec (.portTrainComplete 0 [3, 9] zeroParams) State.reset)).portState 0 = 3 := by decide +kernel

theorem test_port_control_witness :
    ¬ ((State.reset.inStep 5).standsAtBoundary = true ∧ (State.reset.inStep 5).recov.cur = none) ∧ bit (2 ^ 31) 30 = false ∧ State.reset.isSealed = false ∧ sealedReset.isSealed = true ∧
    (let s := State.reset.linkedPort 2
     s.linkUp 2 = true ∧ (s.getLink 2).unacked = [] ∧ (nextOf (exec (.portRetrainRequest 2) s)).portState 2 = 1 ∧ (nextOf (exec (.portCtlWrite .host 2 0) s)).portState 2 = 0 ∧
       (nextOf (exec (.laneErrorWindow 2 [0x10001] 7) s)).rd64 (pageReg R.FAB_CW_CORR 2) = 7) := by decide +kernel

/-- A header on port 3 and on the host link that acknowledges what was accepted last, and one that returns sixteen credits into an empty buffer. -/
theorem test_flit_witness :
    (let s := State.reset.linkedPort 3
     s.linkUp 3 = true ∧ Obligations.goodHeader s 3 zeroHdr ∧ Obligations.goodHeader s 3 { zeroHdr with crdEn := true } ∧ (s.getLink 3).rxFresh = true) ∧
    (let s := State.reset.hostUp
     s.linkUp 7 = true ∧ Obligations.goodHeader s 7 zeroHdr) ∧
    (let s := (State.reset.linkedPort 3).setLink 3 { State.reset.getLink 3 with rxFresh := false }
     (s.getLink 3).rxFresh = false ∧ (s.getLink 3).rxGen + 1 < 5 ∧ Obligations.goodHeader s 3 zeroHdr) := by
  unfold Obligations.goodHeader; decide +kernel

/-! ### Packets and collectives -/

/-- A packet of one flit that waits at a link. -/
def waits (vc src : Nat) : Item :=
  { buf := 2 * vc, src := src, back := none, size := 1, flits := [.data { zeroPkt with vc := vc } 0 []], begun := false }

/-- R227: VC2 first, VC3 once in 64 flits or when nothing else waits, VC0 and VC1 by their weights, inputs in turn; without credits, nothing. -/
theorem test_flit_order :
    (let l := { Link.reset with credits := (List.range 8).map fun b => (b, 1) }
     ({ l with waiting := [waits 0 7, waits 3 7, waits 2 7] } : Link).nextItem false 4 1 = some 2 ∧
     ({ l with waiting := [waits 0 7, waits 3 7] } : Link).nextItem false 4 1 = some 1 ∧
     ({ l with waiting := [waits 0 7, waits 3 7], gap3 := 63 } : Link).nextItem false 4 1 = some 0 ∧
     ({ l with waiting := [waits 0 7, waits 1 7], served := 3 } : Link).nextItem false 4 1 = some 0 ∧
     ({ l with waiting := [waits 0 7, waits 1 7], served := 4 } : Link).nextItem false 4 1 = some 1 ∧
     ({ l with waiting := [waits 0 3, waits 0 7], rr := [(0, 3)] } : Link).nextItem false 4 1 = some 1 ∧
     ({ Link.reset with waiting := [waits 0 7] } : Link).nextItem false 4 1 = none) := by decide +kernel

/-- R223: an IDLE flit with a NAK for SEQ 5 is 256 bytes, its header 0x80140000. -/
theorem test_flit_bytes :
    (flitBytes true none 5 0 (0, 0, false) 0 []).length = 256 ∧ (flitBytes true none 5 0 (0, 0, false) 0 []).take 4 = leBytes 4 0x80140000 := by decide +kernel

/-- The device at coordinate 0 of a torus of 4 × 4 × 4, its ports active, with a yoke partner at coordinate 3. -/
def inTorus : State :=
  let s := ((List.range 7).foldl State.linkedPort State.reset).wr R.FAB_DIMS (3 + 3 * 64 + 3 * 4096)
  s.wr R.FAB_YOKE (2 ^ 31 + 3)

/-- A packet from the yoke partner. -/
def fromYoke (vc ptype step : Nat) (body : List Byte) : Packet :=
  { zeroPkt with vc := vc, ptype := ptype, step := step, src := 3, y := true, body := body, bodyLen := body.length, flits := flitsOf vc body.length }

/-- A packet for coordinate d, from coordinate 1, through the port of the first dimension. -/
def through (vc d : Nat) : Packet := { zeroPkt with vc := vc, ptype := 0x11, src := 1, dst := d, flits := flitsOf vc 0 }

theorem arrives {s : State} {port : Nat} {p : Packet} (h : (s.arrive port p).2 = true) : ∃ u, s.arrive port p = (u, true) := ⟨(s.arrive port p).1, by rw [← h]⟩

theorem test_transit_witness :
    ((inTorus.linkUp 0 = true ∧ inTorus.packetViolation 0 { through 1 0 with resv := true } ≠ 0) ∧
    (let a := inTorus.arrive 0 (through 1 3)
     a.2 = true ∧ 3 ≠ a.1.fget F.FAB_COORD_COORD ∧ (∃ q ∈ [0, 1], a.1.routeFrom 0 3 = some q ∧ a.1.carries q 1 = true)) ∧
    (let s := inTorus.fset (F.FAB_PORT_STS_STATE.page 1) 0
     let a := s.arrive 0 (through 2 3)
     a.2 = true ∧ a.1.routeFrom 0 3 = some 1 ∧ a.1.carries 1 2 = false) ∧
    (inTorus.arrive 6 (fromYoke 1 0x13 0 [])).2 = true) := by decide +kernel

/-- The state in which a packet for this device has come in by a port. -/
def State.gotAt (s : State) (port : Nat) (p : Packet) : State :=
  if port < 7 then (s.arrive port p).1.doneWith port p else (s.arrive port p).1

/-- A packet that enters the device by a port, for it and of a type. -/
def State.takesAt (s : State) (port : Nat) (p : Packet) (ptype : Nat) : Bool :=
  (s.arrive port p).2 && p.dst = (s.gotAt port p).fget F.FAB_COORD_COORD && p.ptype = ptype

theorem taken_at {s : State} {port : Nat} {p : Packet} {ptype : Nat} (h : s.takesAt port p ptype = true) : Obligations.taken s (s.gotAt port p) port p ptype := by
  simp only [State.takesAt, Bool.and_eq_true, decide_eq_true_eq] at h
  exact ⟨(s.arrive port p).1, Prod.ext rfl h.1.1, rfl, h.1.2, h.2⟩

/-- By the yoke port. -/
def State.takes (s : State) (p : Packet) (ptype : Nat) : Bool := s.takesAt 6 p ptype

def State.got (s : State) (p : Packet) : State := s.gotAt 6 p

/-- A sub-header with its CHECK, and its data. -/
def Sub.with (x : Sub) (data : List Byte) : List Byte := ({ x with check := crc32c data }).bytes ++ data

/-- A group of four on the first axis, in cut 0. -/
def inGroup : State := inTorus.wr R.CXE_CUT 0xC0810201

/-- A record of the collective engine, alone or in the group. -/
def collective (s : State) (op : Nat) (fs : List (Nat × Nat)) : State × Flight :=
  let f := flightOf (12 * 1024) (recOf ((0, op) :: fs))
  (s.fly f, f)

/-- What Obligations.unbegun asks, for numerals. -/
def isUnbegun (x : State × Flight) (engine op : Nat) : Bool :=
  x.1.flight? x.2.rid = some x.2 && x.2.resp = none && !x.1.halted (queueEngine x.2.queue) && queueEngine x.2.queue = engine && recOpcode x.2.word = op &&
    x.1.cx.begun.all (fun b => b.1 ≠ x.2.rid)

theorem unbegun_of {x : State × Flight} {op : Nat} (h : isUnbegun x 12 op = true) : Obligations.unbegun x.1 x.2 op := by
  simp only [isUnbegun, Bool.and_eq_true, decide_eq_true_eq, Bool.not_eq_true'] at h
  exact ⟨⟨h.1.1.1.1.1, h.1.1.1.1.2, h.1.1.1.2⟩, h.1.1.2, h.1.2, h.2⟩

theorem lxUnbegun_of {x : State × Flight} {op : Nat} (h : isUnbegun x 14 op = true) : Obligations.lxUnbegun x.1 x.2 op := by
  simp only [isUnbegun, Bool.and_eq_true, decide_eq_true_eq, Bool.not_eq_true'] at h
  exact ⟨⟨h.1.1.1.1.1, h.1.1.1.1.2, h.1.1.1.2⟩, h.1.1.2, h.1.2, h.2⟩

/-- A collective that is alone in its cut, and one of a group. -/
def aloneWell (op : Nat) : Bool :=
  let x := collective State.reset op [(164, 6), (168, 6), (172, 6), (352, 1)]
  isUnbegun x 12 op && (x.1.coPhases x.2.word).isEmpty && x.1.members (coCut x.2.word) = 1 && (x.1.getOp 1).isNone && x.1.cx.sigWait.isEmpty && x.1.cx.pend.isEmpty && x.1.calm &&
    !x.1.flag F.HUB_WATCH_LOG_CFG_EN

def groupWell (op : Nat) : Bool :=
  let x := collective inGroup op [(164, 6), (168, 6), (172, 6), (352, 256)]
  isUnbegun x 12 op && !(x.1.coPhases x.2.word).isEmpty && x.1.calm && (x.1.getOp 1).isNone && x.1.cx.readies.isEmpty &&
    (x.1.coPhases x.2.word).all fun ph => [false, true].all fun down =>
      (x.1.mapCoord (x.1.ringFrom (coCut x.2.word) ph.1 down)).isSome && (x.1.mapCoord (x.1.ringTo (coCut x.2.word) ph.1 down)).isSome

theorem test_collective_witness : aloneWell 0x40 = true ∧ aloneWell 0x41 = true ∧ aloneWell 0x42 = true ∧ groupWell 0x40 = true ∧ groupWell 0x41 = true ∧
    groupWell 0x42 = true := by decide +kernel

/-- A target beyond the torus, one that the map gives, and a signal behind a write of its queue that is not answered. -/
theorem test_send_witness :
    (let x := collective inTorus 0x43 [(334, 5), (352, 64)]
     isUnbegun x 12 0x43 = true ∧ (x.1.cxTarget x.2.word).bind x.1.mapCoord = none) ∧
    (let x := collective inTorus 0x43 [(334, 3), (352, 8256)]
     isUnbegun x 12 0x43 = true ∧ (x.1.cxTarget x.2.word).bind x.1.mapCoord = some 3 ∧ x.1.calm = true) ∧
    (let x := collective inTorus 0x44 [(334, 5)]
     isUnbegun x 12 0x44 = true ∧ (x.1.cxTarget x.2.word).bind x.1.mapCoord = none) ∧
    (let x := collective inTorus 0x44 [(334, 3)]
     isUnbegun x 12 0x44 = true ∧ (x.1.cxTarget x.2.word).bind x.1.mapCoord = some 3 ∧ x.1.signalFree x.2 3 = true ∧ x.1.fly { x.2 with rid := 0, word := recOf [(0, 0x43), (334, 3)] } ≠ x.1 ∧
       (x.1.fly { x.2 with rid := 0, word := recOf [(0, 0x43), (334, 3)] }).signalFree x.2 3 = false) := by decide +kernel

/-- A collective of the group with COLL_ID 9, in flight. -/
def ringOp : RingOp :=
  { rid := 1, word := recOf [(0, 0x40), (164, 6), (168, 6), (172, 6), (320, 9), (352, 256)], ctx := 0, step := 0, digest := 7, vals := [], phases := [(0, false)], sentUp := 0, sentDn := 0, ready := [],
    inbox := [], used := [], pseq := 0 }

def State.inRing (s : State) : State := { s with cx := { s.cx with ops := [ringOp] } }

def ringData (x : Sub) : Packet := fromYoke 1 0x10 0 (x.with [1, 0, 0, 0])
def readyOf (digest : Nat) : Packet := fromYoke 1 0x14 0 (leBytes 16 (9 * 2 ^ 96 + digest * 2 ^ 64))

theorem test_ring_witness :
    let x := { Sub.zero with collId := 9 }
    let s := inGroup
    let member (u : State) (x : Sub) : Bool := u.mapCoord (u.ringFrom x.cut x.part x.down) = some 3 && (u.part x.cut x.part).size > 1
    (s.takes (ringData x) 0x10 = true ∧ (s.got (ringData x)).opFor false 0 0 9 = none ∧ member (s.got (ringData x)) x = true ∧ checkOk (ringData x) (Sub.ofBytes (ringData x).body) = true) ∧
    (s.inRing.takes (ringData x) 0x10 = true ∧ (s.inRing.got (ringData x)).opFor false 0 0 9 = some ringOp) ∧
    (let p := ringData { x with down := true }
     s.takes p 0x10 = true ∧ member (s.got p) (Sub.ofBytes p.body) = false) ∧
    (let p := { ringData x with epoch := 1 }
     s.takes p 0x10 = true ∧ epochCheck p.epoch ((s.got p).rd R.CXE_EPOCH) = 2) := by decide +kernel

theorem test_ready_witness :
    let member (u : State) : Bool := u.mapCoord (u.ringTo 0 0 true) = some 3 && (u.part 0 0).size > 1
    let p := fromYoke 1 0x14 0 (leBytes 16 (9 * 2 ^ 96 + 7 * 2 ^ 64 + 2 ^ 61))
    let bad := fromYoke 1 0x14 0 (leBytes 16 (9 * 2 ^ 96 + 8 * 2 ^ 64 + 2 ^ 61))
    (inGroup.takes p 0x14 = true ∧ member (inGroup.got p) = true ∧ (inGroup.got p).opFor false 0 0 9 = none) ∧
    (inGroup.inRing.takes p 0x14 = true ∧ member (inGroup.inRing.got p) = true ∧ (inGroup.inRing.got p).opFor false 0 0 9 = some ringOp ∧ ringOp.digest = 7) ∧
    (inGroup.inRing.takes bad 0x14 = true ∧ member (inGroup.inRing.got bad) = true ∧ (inGroup.inRing.got bad).opFor false 0 0 9 = some ringOp ∧ ringOp.digest ≠ 8) ∧
    (inGroup.takes (readyOf 7) 0x14 = true ∧ (inGroup.got (readyOf 7)).mapCoord ((inGroup.got (readyOf 7)).ringTo 0 0 false) ≠ some 3) := by decide +kernel

/-- Context 0 takes remote packets. -/
def State.openCtx (s : State) : State := s.setC 0 { s.getC 0 with en := true, remoteEn := true, winLimit := 2 ^ 30 - 1 }

theorem test_remote_witness :
    (let s := inTorus.openCtx
     let x := { Sub.zero with addr := 0x8000 }
     let p := fromYoke 1 0x11 0 (x.with [1, 2, 3])
     let u := s.got p
     s.takes p 0x11 = true ∧ epochCheck p.epoch (u.getC 0).epoch = 0 ∧ u.runStepCheck p x true = 0 ∧ u.remoteCtxCheck 0 false = 0 ∧ u.rangeDetail (u.getC 0) 0x8000 3 = 0 ∧
       checkOk p (Sub.ofBytes p.body) = true ∧ u.calm = true) ∧
    (let p := fromYoke 1 0x11 0 (Sub.zero.with [1, 2, 3])
     inTorus.takes p 0x11 = true ∧ (inTorus.got p).remoteCtxCheck 0 false ≠ 0) ∧
    -- page 0 waits for its copy
    (let s := { inTorus.openCtx with ckpt := { inTorus.ckpt with uncopied := [0] } }
     let p := fromYoke 1 0x11 0 (({ Sub.zero with addr := 0x8000 } : Sub).with [1, 2, 3])
     s.takes p 0x11 = true ∧ (s.got p).remoteCtxCheck 0 false = 0 ∧ (s.got p).stallsAt 0x8000 3 = true) := by decide +kernel

/-- A signal of 2^32 − 1 to counter 0 of context 0: refused, taken now, taken before, and for step 6 of a run of step 5 with room for it and without. -/
theorem test_remote_signal_witness :
    let x := { Sub.zero with value := 2 ^ 32 - 1 }
    let p := fromYoke 1 0x12 0 (x.with [])
    let ahead := fromYoke 1 0x12 6 (({ x with stepped := true } : Sub).with [])
    let early := (inTorus.openCtx.stepped.inStep 5)
    let full := { early with syn := { early.syn with held := List.replicate 1024 ⟨0, 1, 6⟩ } }
    (inTorus.takes p 0x12 = true ∧ ctrOwner 0 = 0 ∧ (inTorus.got p).remoteCtxCheck 0 false ≠ 0) ∧
    (inTorus.openCtx.takes p 0x12 = true ∧ (inTorus.openCtx.got p).remoteCtxCheck 0 false = 0 ∧ (3, 0, 0) ∉ (inTorus.openCtx.got p).cx.signals) ∧
    (let s := { inTorus.openCtx with cx := { inTorus.openCtx.cx with signals := [(3, 0, 0)] } }
     s.takes p 0x12 = true ∧ (s.got p).remoteCtxCheck 0 false = 0 ∧ (3, 0, 0) ∈ (s.got p).cx.signals) ∧
    (early.takes ahead 0x12 = true ∧ (early.got ahead).remoteCtxCheck 0 true = 0 ∧ (early.got ahead).runStepCheck ahead { x with stepped := true } false = 0 ∧
      6 > (early.got ahead).currentStep ∧ (early.got ahead).syn.held.length < 1024) ∧
    (full.takes ahead 0x12 = true ∧ (full.got ahead).remoteCtxCheck 0 true = 0 ∧ 1024 ≤ (full.got ahead).syn.held.length) := by decide +kernel

/-- A packet to coordinate 3 that waits for its answer. -/
def waitingPkt (ptype checks : Nat) : Pend := { opid := 1, pseq := 2, group := 0, checks := checks, again := false, pkt := { zeroPkt with ptype := ptype, dst := 3 } }

def State.awaits (s : State) (q : Pend) : State := { s with cx := { s.cx with pend := [q] } }

def answerOf (ptype reason : Nat) : Packet := fromYoke 1 ptype 0 (leBytes 16 (1 * 2 ^ 96 + 2 * 2 ^ 64 + reason * 2 ^ 56))

/-- A domain is held fenced. -/
def fencedAt (d : Nat) : State := { inTorus with recov := { inTorus.recov with held := [d] } }

/-- Nothing that an answer names; ACCEPTED, EPOCH_AHEAD, CHECK_FAIL before and after the last resend, and refusals. -/
theorem test_answer_witness :
    (inTorus.takes (answerOf 0x13 0) 0x13 = true ∧ (inTorus.got (answerOf 0x13 0)).answered 3 1 2 = none) ∧
    (inTorus.takes (answerOf 0x13 0x0B) 0x13 = true ∧ epochCheck (answerOf 0x13 0).epoch ((inTorus.got (answerOf 0x13 0)).rd R.CXE_EPOCH) = 0 ∧
      epochCheck (answerOf 0x13 0).epoch ((inTorus.wr R.CXE_EPOCH 1).rd R.CXE_EPOCH) ≠ 0 ∧ (inTorus.wr R.CXE_EPOCH 1).takes (answerOf 0x13 0) 0x13 = true ∧
      (fencedAt 0x1C).takes (answerOf 0x13 0) 0x13 = true ∧ ((fencedAt 0x1C).got (answerOf 0x13 0)).fenced 0x1C = true) ∧
    (∀ reason ∈ [0, 1, 2, 3, 7, 8, 0x0C], (inTorus.awaits (waitingPkt 0x11 0)).takes (answerOf 0x13 reason) 0x13 = true ∧
      ((inTorus.awaits (waitingPkt 0x11 0)).got (answerOf 0x13 reason)).answered 3 1 2 = some (waitingPkt 0x11 0)) ∧
    (resendReason 2 = true ∧ resendReason 8 = true ∧ resendReason 1 = false ∧ resendReason 7 = false ∧ 0 < inTorus.fget F.CXE_CFG_RESENDS) ∧
    (let s := inTorus.awaits (waitingPkt 0x11 (inTorus.fget F.CXE_CFG_RESENDS))
     s.takes (answerOf 0x13 8) 0x13 = true ∧ (s.got (answerOf 0x13 8)).answered 3 1 2 = some (waitingPkt 0x11 (inTorus.fget F.CXE_CFG_RESENDS))) ∧
    ((inTorus.awaits (waitingPkt 0x11 0)).cx.pend.filter (fun q => q.opid = 1 && q.pseq = 2) ≠ [] ∧ inTorus.cx.pend.filter (fun q => q.opid = 1 && q.pseq = 2) = []) := by decide +kernel

/-- Cuts that do not tile, an epoch that is not ahead, and a change that is refused by neither; one that may apply, and one with a record of the collective engine in flight. -/
theorem test_layout_witness :
    let s := State.reset.wr R.CXE_NEXT_EPOCH 1
    let armed := nextOf (exec (.layoutArm .host) s)
    s.armCause = 0 ∧ State.reset.armCause = 4 ∧ (s.wr R.CXE_NEXT_CUT 0x201).armCause = 1 ∧ armed.layoutReady = true ∧ (nextOf (exec .layoutApply armed)).rd R.CXE_EPOCH = 1 ∧
      s.layoutReady = false ∧ (armed.fly (flightOf (12 * 1024) 0)).layoutReady = false := by decide +kernel

/-! ### The step ledger -/

/-- A record of the ledger engine. -/
def ledgered (s : State) (op : Nat) (fs : List (Nat × Nat)) : State × Flight :=
  let f := flightOf (14 * 1024) (recOf ((0, op) :: fs))
  (s.fly f, f)

/-- LX_RECORD of 64 bytes: no room, room, and a record of the step and command that is there, with the same bytes or others. -/
theorem test_ledger_record_witness :
    let fs := [(464, 0x8000), (384, 64)]
    let x := ledgered (State.reset.wr R.LXE_LEDGER_SIZE 0) 0x60 fs
    let y := ledgered State.reset 0x60 fs
    let old (crc : Nat) : BoundRec := { step := 5, kind := 0, origin := 0, mb := 0, cmd := 14 * 1024 * 2 ^ 32, crc := crc, bytes := [] }
    (isUnbegun x 14 0x60 = true ∧ x.1.calm = true ∧ x.1.ledger.bounds = [] ∧ x.1.ledgerFits 128 = false) ∧
    (isUnbegun y 14 0x60 = true ∧ y.1.calm = true ∧ y.1.ledger.bounds = [] ∧ y.1.ledgerFits 128 = true) ∧
    (y.1.ledger.bounds ++ [old 3]).find? (fun b => b.step = y.2.step && b.cmd = y.2.queue * 2 ^ 32 + y.2.entry * 2 ^ 16 + y.2.idx) = some (old 3) := by decide +kernel

theorem test_forward_witness :
    let x := ledgered inTorus 0x61 [(464, 0x8000), (416, 0x9000), (384, 4160), (310, 1)]
    isUnbegun x 14 0x61 = true ∧ x.1.calm = true ∧ x.1.ledger.yokeLost = false ∧ x.1.shadowing = false ∧
      isUnbegun ({ x.1 with ledger := { x.1.ledger with yokeLost := true } }, x.2) 14 0x61 = true := by decide +kernel

/-- LX_VERDICT of both stages in step 5, alone and in a verdict group. -/
theorem test_verdict_witness :
    let x (stage : Nat) := ledgered (State.reset.inStep 5) 0x62 [(335, stage)]
    let y (stage : Nat) := ledgered ((inGroup.inStep 5).fset F.LXE_CFG_VG_CUTS 1) 0x62 [(335, stage)]
    let bad (c : Nat) : State := { (x 1).1 with run := { (x 1).1.run with causes := c } }
    (∀ stage ∈ [1, 2], isUnbegun (x stage) 14 0x62 = true ∧ lxStage (x stage).2.word = stage ∧ (x stage).1.run.red.isNone = true ∧ (x stage).1.run.failSent = false ∧
      (x stage).1.pre.held = none ∧ (x stage).1.run.causes = 0 ∧ (x stage).1.verdictParts = [] ∧ (x stage).1.ckpt.stalled = []) ∧
    (∀ stage ∈ [1, 2], isUnbegun (y stage) 14 0x62 = true ∧ (y stage).1.verdictParts = [(0, 0)] ∧ (y stage).1.run.red.isNone = true) ∧
    (isUnbegun (bad 1, (x 1).2) 14 0x62 = true ∧ (bad 1).run.causes &&& 0xBF = 1 ∧ (bad 0x40).run.causes &&& 0xBF = 0) := by decide +kernel

/-- A verdict record of stage 1 for step 5, and a device whose reduction has one round to go with the other direction's record in. -/
def verdictPkt (step epoch : Nat) (fail : Bool) : Packet :=
  { fromYoke 2 0x15 0 (verdictBytes step 0 1 ⟨fail, false, b2n fail, 3, 0⟩ 0 0 1 false) with epoch := epoch }

def lastRound : State :=
  let s := (inGroup.wr R.CXE_CUT 0xC0810101).inStep 5
  { s with run := { s.run with red := some ⟨1, 1, ⟨false, false, 0, 0x3FFFF, 0⟩, [(0, 0)], 1⟩, inbox := [⟨5, 0, 1, 0, 0, 1, 1, ⟨false, false, 0, 0x3FFFF, 0⟩⟩] } }

theorem test_verdict_packet_witness :
    let s := inGroup.inStep 5
    let x (p : Packet) : VIn :=
      let n := leNat (p.body.take 32)
      ⟨bits n 255 192, bits n 191 188, bits n 187 186, bits n 159 158, bits n 157 157, bits n 175 160, bits n 156 156, ⟨bit n 185, bit n 184, bits n 183 176, bits n 145 128, 0⟩⟩
    (s.takes (verdictPkt 5 1 false) 0x15 = true ∧ epochCheck 1 ((s.got (verdictPkt 5 1 false)).rd R.CXE_EPOCH) ≠ 0) ∧
    (s.takes (verdictPkt 4 0 false) 0x15 = true ∧ 4 < (s.got (verdictPkt 4 0 false)).currentStep) ∧
    (s.takes (verdictPkt 5 0 true) 0x15 = true ∧ (s.got (verdictPkt 5 0 true)).currentStep = 5 ∧ (s.got (verdictPkt 5 0 true)).stepNum = 5 ∧ (s.got (verdictPkt 5 0 true)).pos.run = 0) ∧
    -- after the run has failed and been rewound
    (let late := { s with pos := { s.pos with issued := false, run := 1 }, run := { s.run with failure := some ⟨true, false, 1, 0, 0⟩ } }
     let u := late.got (verdictPkt 5 0 true)
     late.takes (verdictPkt 5 0 true) 0x15 = true ∧ u.pos.issued = false ∧ u.stepNum = 5 ∧ u.currentStep = 5 ∧ u.pos.run = 1 ∧ u.run.failure = some ⟨true, false, 1, 0, 0⟩ ∧
       u.replaySpent 0 ((⟨true, false, 1, 0, 0⟩ : VRec).join ⟨true, false, 1, 3, 0⟩ false).cause = false) ∧
    (∀ step ∈ [5, 6], s.takes (verdictPkt step 0 false) 0x15 = true ∧ (s.got (verdictPkt step 0 false)).run.red.isNone = true) ∧
    (let p := verdictPkt 5 0 false
     let u := lastRound.got p
     lastRound.takes p 0x15 = true ∧ u.currentStep = 5 ∧ x p = ⟨5, 0, 1, 0, 0, 1, 0, ⟨false, false, 0, 3, 0⟩⟩ ∧ ringRounds (u.part 0 0).size ≤ 1 + 1 ∧
       u.run.inbox = [{ x p with dir := 1, body := ⟨false, false, 0, 0x3FFFF, 0⟩ }] ∧ (nextOf (exec (.cxVerdict 6 p) lastRound)).run.passed = true) := by decide +kernel

/-- A window of 64 bytes at 0x8000 on side 1, with its sub-waybill's ring on queue 2,048. -/
def windowRec : List (Nat × Nat) := [(464, 0x8000), (416, 0x9000), (384, 64), (368, 1), (354, 2048), (338, 4), (337, 1)]

def mayOpen : State :=
  let s := ((State.reset.withQueue 2048).stepped.inStep 5).wr R.LXE_LEDGER_SIZE 1
  { s with run := { s.run with passed := true } }

theorem test_window_witness :
    let x := ledgered mayOpen 0x63 windowRec
    (isUnbegun x 14 0x63 = true ∧ x.1.ledger.windows = [] ∧ x.1.windowMayStart x.2.word = true ∧ x.1.ledgerFits 128 = true ∧ x.1.calm = true ∧ 1 ≠ (x.1.getQ 2048).head ∧
      x.1.innerBellOk 0 0 2048 1 = true) ∧
    (let y := ledgered (mayOpen.wr R.LXE_LEDGER_SIZE 0) 0x63 windowRec
     isUnbegun y 14 0x63 = true ∧ y.1.ledger.windows = [] ∧ y.1.windowMayStart y.2.word = true ∧ y.1.ledgerFits 128 = false) ∧
    (let y := ledgered State.reset 0x63 windowRec
     isUnbegun y 14 0x63 = true ∧ y.1.ledger.windows = [] ∧ y.1.windowMayStart y.2.word = false) := by decide +kernel

/-- The window, digested in its first attempt. -/
def winOpen (mine : Nat) : Window :=
  { rid := 1, win := 4, side := 1, base := 0x8000, len := 64, vqueue := 2048, entry := 0, sub := 0x9000, wrecs := 1, pre := List.replicate 64 0, mine := [some mine], theirs := [], unc := false,
    digested := true, fetching := false, redo := false }

def windowed (mine : Nat) : State := let s := inTorus.inStep 5; { s with ledger := { s.ledger with windows := [winOpen mine] } }

/-- The partner's digest 7 of its own side 0 of window 4, run 0, attempt 0. -/
def digestPkt (step : Nat) : Packet := fromYoke 1 0x82 step (leBytes 16 (7 * 2 ^ 64 + 4 * 2 ^ 48))

theorem test_digest_witness :
    (let s := inTorus.inStep 5
     let p := { through 1 0 with ptype := 0x82 }
     s.takesAt 0 p 0x82 = true ∧ (s.gotAt 0 p).ledgerFrom 0 p = false) ∧
    (let s := inTorus.inStep 5
     s.takes (digestPkt 4) 0x82 = true ∧ (s.got (digestPkt 4)).fget F.HUB_JOIN_STS_ROLE = 0 ∧ 4 ≠ (s.got (digestPkt 4)).currentStep ∧
       s.takes (digestPkt 5) 0x82 = true ∧ (s.got (digestPkt 5)).currentStep = 5 ∧ joinKey 4 = 65540 ∧ ((s.got (digestPkt 5)).openWin 65540).isNone = true) ∧
    (∀ d ∈ [7, 8], (windowed d).takes (digestPkt 5) 0x82 = true ∧ ((windowed d).got (digestPkt 5)).openWin 65540 = some (winOpen d) ∧
      ((windowed d).got (digestPkt 5)).pos.run = 0 ∧ 1 ≤ ((windowed d).got (digestPkt 5)).fget F.LXE_CFG_WIN_RETRY ∧ ((windowed d).got (digestPkt 5)).calm = true) := by decide +kernel

/-- A committed window of 64 bytes whose digest holds, and one whose digest does not. -/
def committedAs (digest : Nat) : State :=
  let s := (State.reset.inStep 5).fset F.LXE_CFG_REREAD_EN 1
  { s with ledger := { s.ledger with digests := tset (fun _ => none) [] 65540 (some ⟨digest, 64, 0x8000⟩) } }

theorem test_reread_witness :
    let d := crc64 (List.replicate 64 0)
    let due (s : State) : Bool := s.flag F.LXE_CFG_REREAD_EN && s.pos.issued && (s.openWin 65540).isNone && s.ledger.repairs.isEmpty
    (Obligations.digestOf State.reset 65540 = none ∧ due State.reset = false) ∧
    (due (committedAs d) = true ∧ Obligations.digestOf (committedAs d) 65540 = some ⟨d, 64, 0x8000⟩ ∧ (committedAs d).calm = true ∧ crc64 ((committedAs d).bytes 0x8000 64) = d) ∧
    (due (committedAs (d + 1)) = true ∧ (committedAs (d + 1)).calm = true ∧ (nextOf (exec (.stateReread 65540) (committedAs (d + 1)))).ledger.repairs = [(65540, true)]) := by
  unfold Obligations.digestOf; decide +kernel

/-- LX_DATA of 64 bytes to 0x8000 for context 0, with a signal or without, from a stranger, without a context that takes it, and as the first or the last bytes of a fetched window. -/
theorem test_ledger_data_witness :
    let s := inTorus.openCtx
    let data := List.replicate 64 (1 : Byte)
    let x := { Sub.zero with addr := 0x8000 }
    let p := fromYoke 1 0x80 0 (x.with data)
    let sig := fromYoke 1 0x80 0 (({ x with value := 1 } : Sub).with data)
    (let q := { through 1 0 with ptype := 0x80 }
     s.takesAt 0 q 0x80 = true ∧ (s.gotAt 0 q).ledgerFrom 0 q = false) ∧
    ((fencedAt 0x1E).takes p 0x80 = true ∧ ((fencedAt 0x1E).got p).domReason 0x1E = 9) ∧
    (inTorus.takes p 0x80 = true ∧ (inTorus.got p).fetchTarget 0x8000 = none ∧ (inTorus.got p).remoteCtxCheck 0 false = 6) ∧
    (s.takes p 0x80 = true ∧ (s.got p).ledgerFrom 6 p = true ∧ (s.got p).fetchTarget 0x8000 = none ∧ (s.got p).fget F.HUB_JOIN_STS_ROLE ≠ 1 ∧ (s.got p).remoteCtxCheck 0 false = 0 ∧
      (s.got p).rangeDetail ((s.got p).getC 0) 0x8000 64 = 0 ∧ checkOk p (Sub.ofBytes p.body) = true ∧ epochCheck p.epoch ((s.got p).getC 0).epoch = 0 ∧ (s.got p).calm = true) ∧
    (s.takes sig 0x80 = true ∧ (s.got sig).remoteCtxCheck 0 false = 0 ∧ (Sub.ofBytes sig.body).value = 1 ∧ (3, 0, 0) ∉ (s.got sig).cx.signals ∧ checkOk sig (Sub.ofBytes sig.body) = true ∧
      (s.got sig).calm = true) := by decide +kernel

/-- Fetching bytes: the first 64 of 128, all of 64 with the digest that they have, and all of 64 with another. -/
theorem test_fetch_witness :
    let data := List.replicate 64 (1 : Byte)
    let p := fromYoke 1 0x80 0 (({ Sub.zero with addr := 0x8000 } : Sub).with data)
    let w (len digest : Nat) : Window := { winOpen 0 with len := len, theirs := [digest], fetching := true, digested := false }
    let s (len digest : Nat) : State :=
      let s := inTorus.inStep 5
      { s with ledger := { s.ledger with windows := [w len digest] } }
    (∀ x ∈ [(128, 0), (64, crc64 data), (64, crc64 data + 1)], (s x.1 x.2).takes p 0x80 = true ∧ ((s x.1 x.2).got p).ledgerFrom 6 p = true ∧
      ((s x.1 x.2).got p).fetchTarget 0x8000 = some (65540, 0x8000, x.1, x.2) ∧ checkOk p (Sub.ofBytes p.body) = true ∧ ((s x.1 x.2).got p).calm = true) ∧
    (((s 64 (crc64 data)).got p).ledger.windows.find? fun w => w.key = 65540 && w.fetching) = some (w 64 (crc64 data)) ∧
      (nextOf (exec (.lxData 6 p) (s 64 (crc64 data)))).ledger.windows = [] := by decide +kernel

/-- A function again and again, every value computed before the next. -/
def again (f : Nat → Nat) : Nat → Nat → Nat
  | 0, a => a
  | n + 1, a => if a = 0 then again f n (f 0) else again f n (f a)

theorem again_eq (p n a : Nat) : again (fun a => crcByte p a 0) n a = (List.replicate n (0 : Byte)).foldl (crcByte p) a := by
  induction n generalizing a with
  | zero => rfl
  | succ n ih =>
    simp only [again, List.replicate_succ, List.foldl_cons, ih]
    split
    · subst a; rfl
    · rfl

theorem crc_of_zeros : crc32c (List.replicate 4096 0) = 2566472073 := by
  have h : again (fun a => crcByte 0x82F63B78 a 0) 4096 0xFFFFFFFF = 1728495222 := by decide +kernel
  rw [crc32c, ← again_eq, h]
  rfl

/-- The last piece of a run header, behind the two others. -/
def lastHeader : Packet := fromYoke 1 0x81 0 (({ Sub.zero with addr := 8192, check := 2566472073 } : Sub).bytes ++ List.replicate 4096 0)

def twoHeaders : State :=
  { inTorus with ledger := { inTorus.ledger with hdrIn := [(3 * 2 ^ 32, 4096, List.replicate 4096 0), (3 * 2 ^ 32, 0, List.replicate 4096 0)] } }

theorem test_header_packet_witness :
    (let q := { through 1 0 with ptype := 0x81 }
     inTorus.takesAt 0 q 0x81 = true ∧ (inTorus.gotAt 0 q).ledgerFrom 0 q = false) ∧
    (let p := fromYoke 1 0x81 0 (Sub.zero.with [0])
     (fencedAt 0x1E).takes p 0x81 = true ∧ ((fencedAt 0x1E).got p).domReason 0x1E = 9) ∧
    (let far := fromYoke 1 0x81 0 (({ Sub.zero with addr := 12288 } : Sub).with [0])
     inTorus.takes far 0x81 = true ∧ epochCheck far.epoch ((inTorus.got far).rd R.CXE_EPOCH) = 0) ∧
    (let p := fromYoke 1 0x81 0 (Sub.zero.with (List.replicate 64 0))
     inTorus.takes p 0x81 = true ∧ (inTorus.got p).ledger.hdrIn = [] ∧ checkOk p (Sub.ofBytes p.body) = true) ∧
    (twoHeaders.takes lastHeader 0x81 = true ∧ (twoHeaders.got lastHeader).ledger.hdrIn.length = 2 ∧ (twoHeaders.got lastHeader).fget F.HUB_JOIN_STS_ROLE = 0) ∧
      checkOk lastHeader (Sub.ofBytes lastHeader.body) = true := by
  refine ⟨by decide +kernel, by decide +kernel, by decide +kernel, by decide +kernel, by decide +kernel, ?_⟩
  have h : lastHeader.body.drop 32 = List.replicate 4096 0 := List.drop_left' (by decide +kernel)
  have c : (Sub.ofBytes lastHeader.body).check = 2566472073 := by
    rw [Sub.ofBytes, show lastHeader.body.take 32 = _ from List.take_left' (by decide +kernel)]; decide +kernel
  rw [checkOk, h, c, crc_of_zeros]; rfl

theorem test_ledger_answer_witness :
    (inTorus.takes (answerOf 0x83 0) 0x83 = true ∧ (inTorus.got (answerOf 0x83 0)).answered 3 1 2 = none) ∧
    (∀ reason ∈ [0, 2, 8, 0x0C, 7], ∀ ptype ∈ [0x11, 0x80], (inTorus.awaits (waitingPkt ptype 0)).takes (answerOf 0x83 reason) 0x83 = true ∧
      ((inTorus.awaits (waitingPkt ptype 0)).got (answerOf 0x83 reason)).answered 3 1 2 = some (waitingPkt ptype 0)) ∧
    isLedgerType 0x11 = false ∧ isLedgerType 0x80 = true := by decide +kernel

/-! ### Spares and membership -/

/-- The spare core, vector lane and ingest slice of a carriage, and units that are none. -/
theorem test_spare_witness :
    let s := State.reset
    let t := s.fset F.IXE_STS_SPARE 8
    (s.isSpare ⟨0, 3, 8⟩ = true ∧ s.isSpare ⟨1, 3, 16⟩ = true ∧ t.isSpare ⟨2, 0xF, 8⟩ = true ∧ t.spares.now = [] ∧ t.history = []) ∧
      s.isSpare ⟨0, 4, 0⟩ = false ∧ s.isSpare ⟨0, 0, 9⟩ = false ∧ s.isSpare ⟨1, 3, 15⟩ = false ∧ t.isSpare ⟨2, 0xF, 7⟩ = false := by decide +kernel

/-- A device whose Ostler runs, with a job of three managers, recovery epoch 4, command 6 applied last, and a quorum of two of the three. -/
def managed : State :=
  let s := ((State.reset.wr R.HUB_RCV_EPOCH 4).wr R.HUB_RCV_SEQ 6).fset F.HUB_RCV_CFG_N 3 |>.fset F.HUB_RCV_CFG_K 2
  { s with power := { s.power with stage := 2 }, mgmt := { s.mgmt with job := some { id := [], js := [], managers := [[], [], []], path := 0, src := 0 } } }

/-- A recovery command with its EPOCH and SEQ and other fields, signed by a manager. -/
def recoveryMsg (rcmd epoch seq : Nat) (fs : List (Nat × Nat)) (signer : Nat) : GMsg :=
  { zeroMsg with len := 17160, body := leBytes 64 ((recOf ((0, rcmd) :: (96, epoch) :: (64, seq) :: fs)).toNat) ++ leBytes 8 signer }

def isRead (s : State) (m : GMsg) (code : Nat) : Bool := s.ostlerUp && (m.path ≠ 3 || s.mailboxHolds m code) && s.mgmt.changes.isEmpty

theorem read_of {s : State} {m : GMsg} {code : Nat} (h : isRead s m code = true) : Obligations.read s m code := by
  simpa [isRead, Obligations.read, Obligations.heard, Classical.or_iff_not_imp_left] using h

/-- What Obligations.genuine asks, for numerals. -/
def isGenuine (s : State) (m : GMsg) (rcmd : Nat) : Bool :=
  isRead s m 0x10 && s.admits m false true (m.plainLen = 17160) = 0 && s.mgmt.job.any (fun j => m.signer < j.managers.length) && m.proofOk && m.cmd 7 0 = rcmd && m.rFieldsOk

theorem genuine_of {s : State} {m : GMsg} {rcmd : Nat} (h : isGenuine s m rcmd = true) : Obligations.genuine s m rcmd := by
  simp only [isGenuine, Bool.and_eq_true, decide_eq_true_eq, Option.any_eq_true] at h
  exact ⟨read_of h.1.1.1.1.1, h.1.1.1.1.2, h.1.1.1.2, h.1.1.2, h.1.2, h.2⟩

/-- For each of the seven commands: no Ostler; a wrong length; no such manager; a bad signature; another code. -/
theorem test_recovery_order_witness :
    ∀ rcmd ∈ [1, 2, 3, 4, 5, 6, 7], let m := recoveryMsg rcmd 4 7 [] 2
      let st (m : GMsg) := managed.admits m false true (m.plainLen = 17160)
      State.reset.ostlerUp = false ∧ (managed.ostlerUp = true ∧ m.path ≠ 3 ∧ { managed.mgmt with changes := [⟨9, none, 0x08, zeroMsg⟩] }.changes ≠ []) ∧ (isRead managed m 0x10 = true ∧ st { m with len := 64 } = 2 ∧ st m = 0) ∧ (recoveryMsg rcmd 4 7 [] 3).signer = 3 ∧
        isGenuine managed m rcmd = true ∧ isGenuine managed { m with proofOk := false } rcmd = false ∧ isGenuine managed (recoveryMsg 8 4 7 [] 2) rcmd = false ∧
        isGenuine managed (recoveryMsg rcmd 4 7 [(8, 1)] 2) rcmd = false := by decide +kernel

theorem test_recovery_sequence_witness :
    ∀ rcmd ∈ [1, 2, 3, 4, 5, 6, 7],
      (∀ x ∈ [(3, 7), (5, 2), (4, 6), (4, 8), (4, 7)], let m := recoveryMsg rcmd x.1 x.2 [] 2
        isGenuine managed m rcmd = true ∧ m.rEpoch = x.1 ∧ m.rSeq = x.2) ∧
      managed.quorumOk = true ∧ (managed.fset F.HUB_RCV_CFG_K 1).quorumOk = false ∧ isGenuine (managed.fset F.HUB_RCV_CFG_K 1) (recoveryMsg rcmd 4 7 [] 2) rcmd = true ∧
      (managed.fset F.HUB_RCV_CFG_POLICY 1).quorumOk = true ∧ managed.rcv.votes = [] ∧ 1 < (managed.fset F.HUB_RCV_CFG_POLICY 1).fget F.HUB_RCV_CFG_K ∧
      isGenuine (managed.fset F.HUB_RCV_CFG_POLICY 1) (recoveryMsg rcmd 4 7 [] 2) rcmd = true := by decide +kernel

/-- Every command from a state where it acts, and from one where it is refused or does less. -/
theorem test_recovery_action_witness :
    (∀ s ∈ [managed, (managed.fset F.FAB_YOKE_EN 1).fset F.FAB_YOKE_PARTNER 5], isGenuine s (recoveryMsg 1 4 7 [(380, 5)] 2) 1 = true ∧ s.quorumOk = true ∧ s.flag F.HUB_RCV_CFG_POLICY = false) ∧
    (let s := managed.inStep 5
     s.inProgress = true ∧ s.abortable = some 5 ∧ isGenuine s (recoveryMsg 2 4 7 [(448, 5)] 2) 2 = true ∧ (recoveryMsg 2 4 7 [(448, 5)] 2).rStep = 5 ∧ managed.inProgress = false) ∧
    (let s := { managed with recov := { managed.recov with aborted := some 5 } }
     isGenuine s (recoveryMsg 3 4 7 [(448, 5)] 2) 3 = true ∧ s.reissueRefused 5 = false ∧ s.issueHeld = false ∧ { s with power := { s.power with suspect := true } }.issueHeld = true ∧
       managed.reissueRefused 5 = true) ∧
    (managed.fget F.HUB_JOIN_STS_ROLE = 0 ∧ (managed.fset F.HUB_JOIN_STS_ROLE 1).fget F.HUB_JOIN_STS_ROLE ≠ 0 ∧
      ∀ role ∈ [0, 1, 2, 3], isGenuine managed (recoveryMsg 4 4 7 [(342, role), (380, 5)] 2) 4 = true ∧ (recoveryMsg 4 4 7 [(342, role), (380, 5)] 2).cmd 343 342 = role) ∧
    (let s := (managed.fset F.HUB_JOIN_STS_ROLE 2).fset F.HUB_JOIN_STS_STATE 2
     let s := { s with rcv := { s.rcv with join := { s.rcv.join with shadow := true } } }
     s.takeoverOk 6 = true ∧ isGenuine s (recoveryMsg 5 4 7 [(448, 6)] 2) 5 = true ∧ s.quorumOk = true ∧ managed.takeoverOk 6 = false) ∧
    isGenuine managed (recoveryMsg 6 4 7 [] 2) 6 = true ∧
    (isGenuine (managed.inStep 5) (recoveryMsg 7 4 7 [] 2) 7 = true ∧ (managed.inStep 5).standsAtBoundary = false ∧ managed.standsAtBoundary = true ∧ managed.rcv.stopped = false) := by decide +kernel

/-! ### Checkpoints -/

theorem sound_of {s : State} (h : s.calm = true) : Obligations.sound s :=
  have k := (State.calm_free h).1
  { k with copied := rfl, stalled := rfl }

def State.checkpoint (s : State) (state : Nat) : State := (s.fset F.LXE_CKPT_STS_STATE state).wr R.LXE_CKPT_SIZE 64

/-- LX_CKPT of the step after which the device stands, of the next, and of one that lies behind. -/
theorem test_ckpt_witness :
    let s := State.reset.afterStep 5
    let x (s : State) (n : Nat) := ledgered s 0x68 [(448, n), (416, 9)]
    (∀ n ∈ [4, 5, 6], isUnbegun (x s n) 14 0x68 = true ∧ (x s n).1.ckpt.rid = none ∧ (x s n).1.ckpt.held = [] ∧ (x s n).1.pos.lastSealed = some 5 ∧ (x s n).1.ckState = 0 ∧
      (x s n).1.standsAtBoundary = true ∧ (x s n).1.layoutDue = false) ∧
    ∀ state ∈ [1, 2, 3, 4, 5, 6, 7], isUnbegun (x (s.checkpoint state) 5) 14 0x68 = true ∧ (x (s.checkpoint state) 5).1.ckState = state := by decide +kernel

/-- A write into page 0 that waits after its copy: a command's, and a packet's. -/
theorem test_stalled_witness : ∀ pkt ∈ [none, some zeroPkt],
    let s := { State.reset with ckpt := { State.reset.ckpt with stalled := [{ rid := none, addr := 0x8000, data := [1, 2], pkt := pkt }] } }
    (s.unread 0x8000 2).isEmpty = true ∧ 0x8000 / mib ≤ 0 ∧ 0 ≤ (0x8000 + 2 - 1) / mib ∧ ({ s with ckpt := { s.ckpt with stalled := [] } } : State).calm = true := by decide +kernel

/-- A source range of one page. -/
theorem one_page : rangePages [(2 ^ 31, 0)] = [0] := by simp [rangePages, bit, bits, List.eraseDups, List.eraseDupsBy, List.eraseDupsBy.loop]

theorem test_ckpt_range : ∃ s : State, s.standsAtBoundary = true ∧ s.layoutDue = false ∧ s.ckState = 0 ∧ rangePages s.mpart.srcCur ≠ [] :=
  ⟨{ State.reset with mpart := { State.reset.mpart with srcCur := [(2 ^ 31, 0)] } }, by decide +kernel, by decide +kernel, by decide +kernel, by rw [one_page]; decide⟩

theorem planes_short (bs : List Byte) :
    (splitPlanes bs).e.length ≤ bs.length ∧ (splitPlanes bs).s.length ≤ bs.length ∧ (splitPlanes bs).m1.length ≤ bs.length ∧ (splitPlanes bs).m0.length ≤ bs.length := by
  induction bs using splitPlanes.induct with
  | case1 b0 b1 b2 b3 bs ih => simp only [splitPlanes, List.length_cons]; omega
  | case2 bs h =>
    have : splitPlanes bs = ⟨[], [], [], []⟩ := by
      match bs, h with
      | [], _ => rfl
      | [_], _ => rfl
      | [_, _], _ => rfl
      | [_, _, _], _ => rfl
      | a :: b :: c :: d :: r, h => exact absurd rfl (h a b c d r)
    simp [this]

theorem codePlane_short (p : List Byte) : (codePlane p).body.length ≤ max planeLen p.length := by
  unfold codePlane
  split
  · simp
  · split
    · simp
    · simp only; split
      · simp only; omega
      · exact Nat.le_max_right ..

/-- A page's chunk is never longer than the four planes, its header and its tag. -/
theorem chunk_short (key : List Byte) (gen coord page : Nat) (plain : List Byte) (h : plain.length = mib) : (pageChunk key gen coord page plain).length ≤ 4 * mib + 192 := by
  have p := planes_short plain
  have a := codePlane_short (splitPlanes plain).e
  have b := codePlane_short (splitPlanes plain).s
  have c := codePlane_short (splitPlanes plain).m1
  have d := codePlane_short (splitPlanes plain).m0
  simp only [pageChunk, sealChunk, padTo, List.flatMap_cons, List.flatMap_nil, List.append_nil, List.length_append, List.length_take, List.length_replicate, up64, planeLen, mib] at *
  omega

theorem chunk_fits {s : State} {size : Nat} (h : s.ckpt.len = mib) (e : s.rd R.LXE_CKPT_SIZE = size) (big : 6 ≤ size) (key : List Byte) (gen coord page : Nat) :
    s.ckpt.len + (pageChunk key gen coord page (s.bytes (page * mib) mib)).length ≤ s.rd R.LXE_CKPT_SIZE * mib := by
  have c := chunk_short key gen coord page (s.bytes (page * mib) mib) (by simp [State.bytes])
  rw [h, e]
  have : 6 * mib ≤ size * mib := Nat.mul_le_mul_right _ big
  have : 192 ≤ mib := by decide
  omega

/-- Page 0 is due, and is read or cannot be. -/
def copying : State := { ((State.reset.checkpoint 1).wr R.LXE_CKPT_BASE 0x10000000) with ckpt := { State.reset.ckpt with uncopied := [0, 1], len := mib } }

theorem copying_sound : Obligations.sound copying :=
  (State.calm_free (show ({ copying with ckpt := { copying.ckpt with uncopied := [], stalled := [] } } : State).calm = true by decide +kernel)).1

/-- The unit behind the chunks so far is open, however long the next chunk is. -/
theorem copying_clear (n : Nat) : Obligations.clear copying (copying.unitAt 0 + copying.ckpt.len) n := by
  have c : ({ copying with ckpt := { copying.ckpt with uncopied := [], stalled := [] } } : State).calm = true := by decide +kernel
  refine ⟨(State.calm_free c).2.1 _ n, ?_⟩
  have p : (copying.unitAt 0 + copying.ckpt.len) / mib = 257 := by decide +kernel
  simp only [State.unread, p]
  split
  · rfl
  · simp [copying]

theorem test_page_witness :
    (copying.copies 0 = true ∧ copying.copies 1 = false ∧ copying.mpart = State.reset.mpart) ∧
      copying.ckpt.len + (pageChunk (copying.slotKey (copying.fget F.LXE_CKPT_CFG_KEYSLOT)) (copying.rd R.LXE_CKPT_GEN) copying.lcoord 0 (copying.bytes (0 * mib) mib)).length ≤
        copying.rd R.LXE_CKPT_SIZE * mib ∧
      (let t := { copying with mpart := { copying.mpart with bad := [0] } }
       t.copies 0 = true ∧ t.ckpt.red.isNone = true ∧ t.mpart.syms = [] ∧ t.mpart.cache = [] ∧ t.ckpt.taken = [] ∧ t.barred [(0 * mib, mib)] = none) :=
  ⟨by decide +kernel, chunk_fits rfl (show copying.rd R.LXE_CKPT_SIZE = 64 by decide +kernel) (by decide) _ _ _ _, by decide +kernel⟩

theorem test_drain_witness : (∀ n ∈ [0, 1, 2, 3, 4, 5, 6, 7], (State.reset.checkpoint n).ckState = n) ∧ State.reset.calm = true ∧
    (nextOf (exec .ckptDrained (State.reset.checkpoint 3))).ckState = 4 ∧ (nextOf (exec .ckptDiscard (State.reset.checkpoint 5))).ckState = 0 := by decide +kernel

/-- A stripe group of four on the first axis. -/
def striped (state : Nat) : State := ((inTorus.fset F.LXE_CKPT_CFG_AXIS 0).fset F.LXE_CKPT_CFG_GM1 3).checkpoint state

/-- Bytes of member 3 for row 4, which member 0 keeps the parity of, from an offset; and for row 5. -/
def unitPkt (row off : Nat) : Packet := fromYoke 1 0x88 0 (({ Sub.zero with addr := row * mib + off } : Sub).with (List.replicate 64 1))

theorem test_unit_witness :
    ((inTorus.fset F.LXE_CKPT_CFG_AXIS 3).takes (unitPkt 4 0) 0x88 = true ∧ ((inTorus.fset F.LXE_CKPT_CFG_AXIS 1).got (unitPkt 4 0)).stripeFrom 3 = none) ∧
    (∀ n ∈ [0, 1, 2, 3, 4, 5, 6, 7], (striped n).takes (unitPkt 4 0) 0x88 = true ∧ ((striped n).got (unitPkt 4 0)).stripeFrom 3 = some 3 ∧
      ((striped n).got (unitPkt 4 0)).ckState = n ∧ epochCheck 0 (((striped n).got (unitPkt 4 0)).rd R.CXE_EPOCH) = 0) ∧
    checkOk (unitPkt 4 0) (Sub.ofBytes (unitPkt 4 0).body) = true ∧ (Sub.ofBytes (unitPkt 4 0).body).addr / mib = 4 ∧
    (((striped 1).got (unitPkt 5 0)).rowTarget 5 = none ∧ (striped 1).takes (unitPkt 5 0) 0x88 = true) ∧
    (let u := (striped 1).got (unitPkt 4 64)
     u.rowTarget 4 = some (u.parityAt 4) ∧ u.rowGot 4 3 = 0 ∧ (striped 1).takes (unitPkt 4 64) 0x88 = true ∧ u.unitsWith 4 + u.parityWith 4 ≤ u.rd R.LXE_CKPT_SIZE ∧
       (u.wr R.LXE_CKPT_SIZE 0).rd R.LXE_CKPT_SIZE < (u.wr R.LXE_CKPT_SIZE 0).unitsWith 4 + (u.wr R.LXE_CKPT_SIZE 0).parityWith 4 ∧ u.calm = true) ∧
    (let s := { striped 3 with recov := { (striped 3).recov with held := [0x1E] } }
     s.takes (unitPkt 4 0) 0x88 = true ∧ (s.got (unitPkt 4 0)).domReason 0x1E = 9) ∧
    (let s := { (striped 3).wr R.LXE_CKPT_GEN 9 with ckpt := { (striped 3).ckpt with rows := tset (fun _ => 0) [] 131 64 } }
     let p := fromYoke 1 0x88 0 (({ Sub.zero with addr := 4 * mib, opid := ckOp 9 } : Sub).with (List.replicate 64 1))
     s.takes p 0x88 = true ∧ (s.got p).ckState = 3 ∧ (Sub.ofBytes p.body).opid = ckOp ((s.got p).rd R.LXE_CKPT_GEN) ∧ 64 ≤ (s.got p).rowGot 4 3) ∧
    (let s := { striped 1 with ckpt := { (striped 1).ckpt with rows := tset (fun _ => 0) [] 131 64 } }
     s.takes (unitPkt 4 0) 0x88 = true ∧ (s.got (unitPkt 4 0)).rowGot 4 3 = 64) := by decide +kernel

/-- End markers, reduction records and fetches of GEN 9, from a member, from another device, under another epoch, and before this device has what is asked for. -/
theorem test_stripe_witness :
    ∀ ptype ∈ [0x8A, 0x8B, 0x8C], let p := fromYoke 1 ptype 0 (leBytes 64 9)
      let s := (striped 2).wr R.LXE_CKPT_GEN 9
      (s.takes p ptype = true ∧ (s.got p).stripeFrom 3 = some 3 ∧ epochCheck 0 ((s.got p).rd R.CXE_EPOCH) = 0 ∧ (s.got p).rd R.LXE_CKPT_GEN = 9 ∧ (s.got p).ckState = 2) ∧
      (inTorus.fset F.LXE_CKPT_CFG_AXIS 1).takes p ptype = true ∧ s.takes { p with epoch := 1 } ptype = true ∧ epochCheck 1 ((s.got p).rd R.CXE_EPOCH) ≠ 0 ∧
      (s.got p).calm = true ∧ (let t := (striped 1).wr R.LXE_CKPT_GEN 9; t.takes p ptype = true ∧ (t.got p).ckState = 1 ∧ (t.got p).rd R.LXE_CKPT_GEN = 9) ∧
      (striped 1).takes p ptype = true ∧ ((striped 1).got p).ckState = 1 := by decide +kernel

theorem test_rebuild_witness : ∀ n ∈ [0, 1, 2, 3, 4, 5, 6, 7], let x := ledgered (striped n) 0x69 [(448, 5), (416, 9)]
    isUnbegun x 14 0x69 = true ∧ x.1.ckpt.rid = none ∧ x.1.ckState = n := by decide +kernel

/-- LX_RESTORE where it may run and where it may not. -/
theorem test_restore_states :
    (∀ n ∈ [0, 3, 4, 5], let x := ledgered (State.reset.checkpoint n) 0x6A [(368, 0x100000)]
      isUnbegun x 14 0x6A = true ∧ x.1.ckpt.rid = none ∧ x.1.standsAtBoundary = true ∧ x.1.fget F.HUB_STEP_STS_PHASE = 0 ∧ x.1.ckState = n ∧ x.1.verdictParts = [] ∧ x.1.ckpt.inbox = [] ∧
        x.1.calm = true) ∧
    (∀ n ∈ [1, 2, 6, 7], let x := ledgered (State.reset.checkpoint n) 0x6A []
      isUnbegun x 14 0x6A = true ∧ x.1.ckState = n) := by decide +kernel

def goodShard (s : State) (x : Shard) : Bool := !(s.slotOf x).bad && (s.slotOf x).gdMin = (s.slotOf x).hx

/-- Memory that nothing has written holds no chunk. -/
theorem empty_chunk (s : State) (area : Nat) (h : s.mem = []) (key : List Byte) : openChunk key s.lcoord (s.bytes area mib) = none := by
  have b : s.bytes area mib = List.replicate mib 0 := by
    simp only [State.bytes, State.byte, h]
    apply List.ext_getElem <;> simp [tget, memDefault]
  have n : (ChunkHdr.ofBytes (s.bytes area mib)).len = 0 := by
    rw [b]
    show leNat (((List.replicate mib 0).drop 4).take 4) = 0
    rw [List.drop_replicate, List.take_replicate, show min 4 (mib - 4) = 4 by decide]
    decide
  rw [openChunk, n]; rfl

/-- Nor a shard; and what LX_RESTORE reads of it is one unit. -/
theorem empty_shard (s : State) (area : Nat) (h : s.mem = []) : goodShard s (s.readShard area s.lcoord) = false ∧ s.areaLen area s.lcoord = mib := by
  have k : (s.readShard area s.lcoord).ok = false := by
    rw [State.readShard, empty_chunk s area h]; rfl
  refine ⟨by rw [goodShard, State.slotOf, k]; rfl, ?_⟩
  rw [State.areaLen, empty_chunk s area h]; decide

theorem test_restore_areas : let x := ledgered (State.reset.checkpoint 0) 0x6A [(368, 0x100000)]
    (∀ r ∈ x.1.restoreAreas x.2.word, x.1.rangeDetail (x.1.getC x.2.ctx) r.1 r.2 = 0) ∧ x.1.barred (x.1.restoreAreas x.2.word ++ x.1.sourceSpans) = none := by
  intro x
  have a : x.1.restoreAreas x.2.word = [(0x100000, mib)] := by
    rw [State.restoreAreas, (empty_shard x.1 _ (by decide +kernel)).2, show ckAreaA x.2.word = 0x100000 by decide +kernel, show ckTwo x.2.word = false by decide +kernel]; rfl
  rw [a, show x.1.sourceSpans = [] by simp [State.sourceSpans, show x.1.mpart.srcCur = [] by rfl, rangePages]]
  decide +kernel

/-- A manifest of step 5 with no page, as this device takes it, and the area that holds its chunk. What decryption yields no file of the model says, so the witness of a restore that
succeeds assumes it. -/
def keptHead : List Byte :=
  padTo 128 (leBytes 4 1 ++ leBytes 4 9 ++ leBytes 8 5 ++ leBytes 4 0 ++ leBytes 4 0 ++ leBytes 4 0 ++ ((List.range 4).flatMap fun k => leBytes 4 (State.reset.cutWord k)) ++ leBytes 40 0 ++
    leBytes 4 1 ++ leBytes 8 0 ++ leBytes 8 (shardHash 0 5 (crc64 [])))

def keptManifest : List Byte := keptHead ++ List.replicate (manifestLen - 128) 0

def keptArea : State := State.reset.setBytes 0x100004 [80]

theorem test_restore_witness (h : ∀ k n a c, Config.gcmOpen k n a c = some keptManifest) : goodShard keptArea (keptArea.readShard 0x100000 keptArea.lcoord) = true := by
  have n : (ChunkHdr.ofBytes (keptArea.bytes 0x100000 mib)).len = 80 := by
    have e : keptArea.bytes 0x100000 mib = keptArea.bytes 0x100000 8 ++ (List.range (mib - 8)).map fun i => keptArea.byte (0x100000 + (8 + i)) := by
      simp only [State.bytes, ← List.map_map, ← Function.comp_def]
      rw [show List.range mib = List.range 8 ++ (List.range (mib - 8)).map (8 + ·) from List.range_add (n := 8) (m := mib - 8)]
      simp [Function.comp_def]
    rw [e]
    show leNat ((List.drop 4 (_ ++ _)).take 4) = 80
    rw [List.drop_append_of_le_length (by simp [State.bytes]), List.take_append_of_le_length (by simp [State.bytes])]
    decide +kernel
  have m (key : List Byte) : openChunk key keptArea.lcoord (keptArea.bytes 0x100000 mib) = some keptManifest := by
    rw [openChunk, n, h]
    simp [State.bytes, mib]
  have l : keptManifest.length = manifestLen := by
    rw [keptManifest, List.length_append, List.length_replicate, show keptHead.length = 128 by decide +kernel]; rfl
  have r : keptArea.readShard 0x100000 keptArea.lcoord = { ok := true, step := 5, gdig := shardHash 0 5 (crc64 []), digest := crc64 [], pages := [], manifest := keptManifest } := by
    rw [State.readShard, m]
    simp only [Option.getD_some, l, show leNat ((keptManifest.drop 80).take 4) = 0 by decide +kernel, show leNat ((keptManifest.drop 84).take 4) = 1 by decide +kernel,
      show leNat ((keptManifest.drop 8).take 8) = 5 by decide +kernel, show leNat ((keptManifest.drop 96).take 8) = shardHash 0 5 (crc64 []) by decide +kernel, State.shardChunks]
    rw [show keptArea.rangeUnreadable 0x100000 (1 * mib) = false by decide +kernel]
    simp
  rw [r]
  decide +kernel

/-- Both areas hold it, or one of two. -/
theorem test_restore_fields : let x (b two : Nat) := ledgered keptArea 0x6A [(368, 0x100000), (320, b), (319, two)]
    (isUnbegun (x 0x200000 0) 14 0x6A = true ∧ ckAreaA (x 0x200000 0).2.word = 0x100000 ∧ ckTwo (x 0x200000 0).2.word = false) ∧
    (ckTwo (x 0x200000 1).2.word = true ∧ ckAreaB (x 0x200000 1).2.word = 0x200000 ∧ (x 0x200000 1).1.verdictParts = [] ∧ (x 0x200000 1).1.ckpt.inbox = []) := by decide +kernel

/-- At the boundary after step 5, with nothing held. -/
def stands (s : State) : Bool :=
  s.pos.lastSealed = some 5 && s.standsAtBoundary && s.atBoundary && !s.inProgress && s.recov.cur = none && s.pre.held = none && s.verdictParts.isEmpty

/-- A stop now, at the boundary after step 5, by the pin and by the register; in a run that has passed stage 1, and in one that has not. -/
theorem test_preempt_witness :
    let pin := State.reset.afterStep 5
    let s := pin.fset F.HUB_PRE_CFG_PIN_EN 0
    let passed := { s.inStep 6 with run := { s.run with passed := true } }
    (stands s = true ∧ stands pin = true) ∧
    (s.flag F.HUB_PRE_CFG_PIN_EN = false ∧ pin.flag F.HUB_PRE_CFG_PIN_EN = true ∧ bit (2 ^ 31) 31 = true ∧ bit (2 ^ 31 - 1) 31 = false) ∧
    ((s.inStep 6).atBoundary = false ∧ (s.inStep 6).run.passed = false ∧ passed.atBoundary = false ∧ passed.run.passed = true) ∧
    (nextOf (exec .preemptN pin)).fget F.HUB_STEP_STS_PHASE = 7 := by decide +kernel

def stopPkt (n epoch : Nat) : Packet := { fromYoke 1 0x89 0 (leBytes 16 (n * 2 ^ 64)) with epoch := epoch }

theorem test_stop_witness :
    let s := inTorus.afterStep 5
    let held := { s with pre := { held := some 6 } }
    (s.takes (stopPkt 6 1) 0x89 = true ∧ epochCheck 1 ((s.got (stopPkt 6 1)).rd R.CXE_EPOCH) ≠ 0) ∧
    (held.takes (stopPkt 6 0) 0x89 = true ∧ (held.got (stopPkt 6 0)).pre.held = some 6) ∧
    ((s.inStep 6).takes (stopPkt 0 0) 0x89 = true ∧ ((s.inStep 6).got (stopPkt 0 0)).atBoundary = false ∧ ((s.inStep 6).got (stopPkt 0 0)).inProgress = true) ∧
    (s.takes (stopPkt 6 0) 0x89 = true ∧ (s.got (stopPkt 6 0)).pre.held = none ∧ held.takes (stopPkt 5 0) 0x89 = true ∧ (held.got (stopPkt 5 0)).pre.held = some 6) := by decide +kernel

/-! ### Hangs, aborts and resets -/

/-- The header of an ABORT with its fields, on port 0. -/
def abortFlit (step run : Nat) : Instr := .abort 0 zeroHdr step 2 run 0x10 3

/-- Step 5 in a run, step 5 next, a device that has none, and one in PHASE 7; flits for another step, an older run, one that has passed before, and this one. -/
theorem test_abort_witness :
    let run := (State.reset.linkedPort 0).inStep 5
    let next := State.reset.afterStep 4
    let ended := run.fset F.HUB_STEP_STS_PHASE 7
    let again := { ended with recov := { ended.recov with forwarded := [(5, 0)] } }
    (State.reset.abortable = none ∧ run.abortable = some 5 ∧ run.fget F.HUB_STEP_STS_PHASE ≠ 7 ∧ run.sealing = false ∧ next.abortable = some 5 ∧ next.fget F.HUB_STEP_STS_PHASE ≠ 7 ∧
      next.atBoundary = true ∧ ended.fget F.HUB_STEP_STS_PHASE = 7) ∧
    (∀ v ∈ [run, ended, again], v.linkUp 0 = true ∧ (v.getLink 0).knows 1023 = true ∧ (nextOf (exec (abortFlit 6 0) v)).abortable = some 5 ∧ v.reissueRun 5 ≤ 0) ∧
    ((nextOf (exec (abortFlit 6 0) ended)).recov.forwarded = [] ∧ (nextOf (exec (abortFlit 6 0) again)).recov.forwarded = [(5, 0)] ∧
      (nextOf (exec (abortFlit 5 0) run)).fget F.HUB_STEP_STS_PHASE = 7 ∧ (nextOf (exec (abortFlit 5 0) ended)).recov.forwarded = [(5, 0)]) ∧
    (let s := { run with recov := { run.recov with reissued := some (5, 2) } }
     s.abortable = some 5 ∧ s.reissueRun 5 = 2) := by decide +kernel

def reissuable : State := let s := State.reset.wr64 R.HUB_ABORT_STEP 5; { s with recov := { s.recov with aborted := some 5 } }

theorem test_reissue_witness :
    State.reset.reissueRefused 0 = true ∧ (reissuable.rd64 R.HUB_ABORT_STEP = 5 ∧ reissuable.reissueRefused 5 = false ∧ reissuable.issueHeld = false) ∧
      (let s := { reissuable with power := { reissuable.power with suspect := true } }
       s.reissueRefused 5 = false ∧ s.issueHeld = true) := by decide +kernel

/-- What Obligations.quiet asks, for numerals. -/
def isQuiet (s : State) (d : Nat) (hold : Bool) : Bool :=
  allDomains.contains d && !s.domOos d && [1, 2, 3, 4].all (fun c => !domainContains c d || !s.domOos c) && s.recov.cur = none && s.recov.waiting.isEmpty && (hold || !s.holdsStepped d)

theorem quiet_of {s : State} {d : Nat} {hold : Bool} (h : isQuiet s d hold = true) : Obligations.quiet s d hold := by
  simp only [isQuiet, Bool.and_eq_true, Bool.or_eq_true, Bool.not_eq_true', List.contains_iff_mem, List.all_eq_true, decide_eq_true_eq, List.isEmpty_iff] at h
  exact ⟨h.1.1.1.1.1, h.1.1.1.1.2, fun c hc hd => (h.1.1.1.2 c hc).resolve_left (by simp [hd]), h.1.1.2, h.1.2, h.2⟩

/-- Engine 12 with a record that waits for its answer. -/
def peerWait : State := (State.reset.fly (flightOf (12 * 1024) (recOf [(0, 0x43)]))).awaits (waitingPkt 0x11 0)

theorem test_progress_witness :
    (State.reset.fenced 0x1F = false ∧ State.reset.recov.aborted = none) ∧
    (∀ e ∈ [0, 15], let s := { State.reset with recov := { State.reset.recov with aborted := some 5 } }
      s.fenced (0x10 + e) = false ∧ isQuiet s (0x10 + e) false = true ∧ State.reset.engineFlights e = [] ∧ State.reset.eligibleQueues e = []) ∧
    (let s := State.reset.fly (flightOf (15 * 1024) 0)
     s.engineFlights 15 ≠ [] ∧ s.recov.search.isNone = true ∧ isQuiet s 0x1F false = true ∧ s.fenced 0x1F = false) ∧
    (peerWait.engineFlights 12 = [flightOf (12 * 1024) (recOf [(0, 0x43)])] ∧ peerWait.waitsOnPeer (flightOf (12 * 1024) (recOf [(0, 0x43)])) = true ∧ (peerWait.getC 0).stepped = false ∧
      peerWait.ckpt.rid = none ∧ peerWait.recov.search.isNone = true ∧ peerWait.fenced 0x1C = false ∧ peerWait.flight? 1 = some (flightOf (12 * 1024) (recOf [(0, 0x43)]))) ∧
    (let s := State.reset.fly (flightOf (14 * 1024) (recOf [(0, 0x62)]))
     (s.engineFlights 14).filter (fun f => !(decide (14 = 14) && recOpcode f.word = 0x62 && f.resp.isNone)) = [] ∧ s.engineFlights 14 ≠ [] ∧ s.eligibleQueues 14 = []) := by decide +kernel

/-- A record that waits for counter 7, in a context that is stepped or not; an LX_VERDICT; neither. -/
theorem test_wait_witness :
    let waiting (step : Nat) : State :=
      let s := State.reset.withEntry 2048 step (recOf [(8, 1), (10, 1), (16, 7), (32, 5)])
      s.setQ 2048 { s.getQ 2048 with waitMet := false }
    let s := (waiting 5).stepped.inStep 5
    let v := State.reset.fly (flightOf (14 * 1024) (recOf [(0, 0x62)]))
    ((waiting 0).unmetWait 2048 = some 7 ∧ ((waiting 0).ctxOf 2048).stepped = false) ∧ (s.unmetWait 2048 = some 7 ∧ (s.ctxOf 2048).stepped = true) ∧
      (v.unmetWait (14 * 1024) = none ∧ v.verdictWaits (14 * 1024) = true) ∧ State.reset.unmetWait 0 = none ∧ State.reset.verdictWaits 0 = false := by decide +kernel

/-- No operation, one that waits for its answer, and a digested window. -/
theorem test_response_witness :
    let w := windowed 7
    let s := w.fly (flightOf (14 * 1024) (recOf [(0, 0x63)]))
    (State.reset.ledger.windows = [] ∧ State.reset.cx.pend = []) ∧ (peerWait.ledger.windows = [] ∧ peerWait.cx.pend.any (fun p => p.opid = 1) = true) ∧
      ((s.ledger.windows.find? fun x => x.rid = 1 && x.digested && !x.fetching) = some (winOpen 7) ∧ (s.flight? 1).isSome = true ∧ s.calm = true) := by decide +kernel

theorem test_peer_witness :
    (State.reset.portState 0 = 1 ∧ State.reset.mode ≠ 1 ∧ (State.reset.linkedPort 6).portState 6 = 2) ∧
    (let s := (State.reset.fset (F.FAB_PORT_STS_STATE.page 6) 3).fset F.HUB_JOIN_STS_ROLE 1
     let s := { s with rcv := { s.rcv with join := { s.rcv.join with takeover := some 9 } } }
     s.rcv.join.takeover ≠ none ∧ s.portState 6 ≠ 2 ∧ s.portState 6 ≠ 1 ∧ s.fget F.HUB_JOIN_STS_ROLE = 1) := by decide +kernel

/-- A sequence of a domain in a stage. -/
def inSequence (d : Nat) (hold : Bool) (stage : Nat) : State := { State.reset with recov := { State.reset.recov with cur := some ⟨d, hold, 0x0A, stage⟩ } }

/-- Every stage, for the first and the last domains, with and without the dump engine, at the limit and below it. -/
theorem test_sequence_witness :
    (∀ d ∈ [0, 1, 0x10, 0x1F, 0x26, 0x37, 0x41], ∀ stage ∈ [1, 2, 3], ∀ hold ∈ [true, false], let s := inSequence d hold stage
      s.recov.cur = some ⟨d, hold, 0x0A, stage⟩ ∧ s.que.flights = [] ∧ s.recov.devReset = none ∧ s.recov.waiting = [] ∧ s.recov.search.isNone = true ∧ s.recov.marked = [] ∧ d ∈ allDomains) ∧
    (State.reset.sequences.find? (fun q => q.domain = 0x10 && q.stage = 1) = none ∧ windowPages 0 ≠ 0 ∧ windowPages 0xF = 0 ∧ State.reset.recov.cur = none) ∧
    (State.reset.fget F.DMP_CFG_HOLD_MS = 0 ∨ State.reset.flag F.DMP_CFG_OUT_EN = false) ∧
    (let s := ((inSequence 0 false 2).fset F.DMP_CFG_HOLD_MS 1).fset F.DMP_CFG_OUT_EN 1
     s.fget F.DMP_CFG_HOLD_MS ≠ 0 ∧ s.flag F.DMP_CFG_OUT_EN = true ∧ s.recov.cur.isSome = true) ∧
    (let s := (inSequence 0x10 false 2).fset F.HUB_RST_CFG_DOM_LIMIT 3
     s.atLimit 1 = false ∧ s.atLimit 2 = true) ∧
    ((inSequence 0x10 false 2).domOos 0x44 = false ∧ ((inSequence 0x10 false 2).wr R.HUB_OOS1 (2 ^ 32 - 1)).domOos 0x44 = true) ∧
    { State.reset with recov := { State.reset.recov with devReset := some 4 } }.recov.devReset = some 4 := by decide +kernel

theorem test_reset_request_witness :
    (mayRequest .host 0x44 = false ∧ mayRequest .firmware 0x44 = true) ∧
    (∀ d ∈ [1, 4, 0x10, 0x1F, 0x20, 0x26, 0x30, 0x37, 0x40, 0x42], mayRequest .host d = true ∧ isQuiet State.reset d false = true ∧ isQuiet State.reset d true = true ∧ d ∉ State.reset.recov.held) ∧
    isQuiet (State.reset.stepAbort 0x0B 0) 0 false = true ∧ (inSequence 1 false 1).sequences.any (fun q => domainContains q.domain 0x10) = true ∧
    (let s := { State.reset with recov := { State.reset.recov with held := [0x26] } }
     0x26 ∈ s.recov.held ∧ s.recov.cur = none) := by decide +kernel

theorem test_block_witness :
    ctlDomains 0x40010 = [0x1C] ∧ offWindow 0x40010 ≠ 0 ∧ (ctlDomains 0x70010 = [] ∧ offWindow 0x10 = 0) ∧
    (isEngineWindow (offWindow 0x40010) = true ∧ offPage 0x40010 < windowPages (offWindow 0x40010)) ∧ (isEngineWindow (offWindow 0x70010) = false ∧ offWindow 0x70010 < 0x300) ∧
    (offWindow 0x3000000 = 0x300 ∧ offPage 0x70010 < windowPages (offWindow 0x70010)) := by decide +kernel

/-- The first and the last processor of each kind. -/
theorem test_processor_witness : (∀ n ∈ [0, 3], isQuiet State.reset (1 + n) false = true) ∧
    (nextOf (exec (.processorFault 7 1) State.reset)).ostlerStopped = true ∧ (nextOf (exec (.processorFault 3 1) State.reset)).fget (coreField 3) = 3 ∧
    (nextOf (exec (.processorFault 4 1) State.reset)).mgmt.flash.dumps.length = 1 := by decide +kernel

/-! ### Interrupts -/

/-- A group that may deliver to target 0. -/
def groupReady (prio : Nat) : Group := { cfg0 := 0x00010001, cfg1 := BitVec.ofNat 32 (2 ^ 31 + prio * 2 ^ 26), count := 1, timing := false, ready := true }

theorem test_interrupt_witness :
    (∀ g ∈ [0, 255], let s := State.reset.setGrp g { groupReady 1 with timing := true, ready := false }
      (s.getGrp g).en = true ∧ (s.getGrp g).timing = true ∧ (State.reset.getGrp g).en = false) ∧
    (let s := ((State.reset.setGrp 3 (groupReady 1)).setGrp 5 (groupReady 2)).fset F.ICU_CFG_EN 1
     (s.nextGroup 0 = some 5 ∧ s.nextGroup 7 = none) ∧ (nextOf (exec (.interruptDelivery 0) s)).nextGroup 0 = none ∧ ((nextOf (exec (.interruptDelivery 0) s)).getTarget 0).stack = [5]) ∧
    (targetAllowed .host 0 = true ∧ targetAllowed .host 1 = false ∧ targetAllowed .firmware 7 = true ∧ targetAllowed .firmware 8 = false) ∧
    (let s := State.reset.setTarget 7 { Target.reset with stack := [5] }
     (s.getTarget 7).frozen = false ∧ (s.getTarget 7).stack.getLast? = some 5 ∧ ((State.reset.setTarget 7 { Target.reset with frozen := true }).getTarget 7).frozen = true ∧
       (State.reset.getTarget 7).stack.getLast? ≠ some 0) := by decide +kernel

/-- Source 31 of word 63 is pending behind its mask and routed; the write unmasks it alone, or nothing. -/
theorem test_mask_witness :
    let s := (State.reset.wr (maskReg 1 63) (2 ^ 32 - 1)).wr (pendReg 1 63) (2 ^ 31)
    let s := { s with icu := { s.icu with src := [(2047, 0x00850000)] } }
    (planeAllowed .firmware 1 = true ∧ planeAllowed .host 1 = false ∧ planeAllowed .host 0 = true) ∧ s.srcGroup 1 2047 = some 133 ∧
      (∀ k ∈ List.range 32, (bit (s.rd (maskReg 1 63)) k = true ∧ bit (2 ^ 31 - 1) k = false ∧ bit (s.rd (pendReg 1 63)) k = true) ↔ k = 31) ∧
      ∀ k ∈ List.range 32, ¬ (bit (s.rd (maskReg 1 63)) k = true ∧ bit (2 ^ 31) k = false ∧ bit (s.rd (pendReg 1 63)) k = true) := by decide +kernel

/-! ### The host attachment -/

/-- A record of the host transport. -/
def transported (s : State) (op : Nat) (fs : List (Nat × Nat)) : State × Flight :=
  let f := flightOf (15 * 1024) (recOf ((0, op) :: fs))
  (s.fly f, f)

def isHtUnbegun (x : State × Flight) (op : Nat) : Bool :=
  x.1.flight? x.2.rid = some x.2 && x.2.resp = none && !x.1.halted (queueEngine x.2.queue) && queueEngine x.2.queue = 15 && recOpcode x.2.word = op &&
    x.1.host.copies.all (fun c => c.rid ≠ x.2.rid)

theorem htUnbegun_of {x : State × Flight} {op : Nat} (h : isHtUnbegun x op = true) : Obligations.htUnbegun x.1 x.2 op := by
  simp only [isHtUnbegun, Bool.and_eq_true, decide_eq_true_eq, Bool.not_eq_true'] at h
  exact ⟨⟨h.1.1.1.1.1, h.1.1.1.1.2, h.1.1.1.2⟩, h.1.1.2, h.1.2, h.2⟩

/-- Copies of 4,112 bytes, of a retired page, of fenced memory or of neither; doorbells of queue 3, of the record's GROUP or another. -/
theorem test_transport_witness :
    let fs := [(368, 4112)]
    let held := { State.reset with recov := { State.reset.recov with held := [0x30] } }
    (∀ op ∈ [0x70, 0x71], isHtUnbegun (transported State.reset op fs) op = true ∧ (transported State.reset op fs).1.calm = true ∧ (transported State.reset op fs).1.readsOut + 2 ≤ 256 ∧
      isHtUnbegun (transported held op fs) op = true ∧ (transported held op fs).1.rangeFenced 0 4112 = true ∧ (transported held op fs).1.rangeRetired 0 4112 = false ∧
      isHtUnbegun (transported { State.reset with mpart := { State.reset.mpart with retired := [0] } } op fs) op = true ∧
      (transported { State.reset with mpart := { State.reset.mpart with retired := [0] } } op fs).1.rangeRetired 0 4112 = true) ∧
    (let x := transported (State.reset.withQueue 3) 0x72 [(352, 3), (336, 1)]
     isHtUnbegun x 0x72 = true ∧ bits (htBell x.2.word) 29 16 = 3 ∧ bits (htBell x.2.word) 15 0 = 1 ∧ (x.1.getC (x.1.getQ 3).ctx).group = (x.1.getC x.2.ctx).group ∧ x.1.innerBellOk x.2.ctx (x.1.getQ 3).ctx 3 1 = true) ∧
    (let x := transported State.reset 0x72 [(352, 3), (336, 1)]
     isHtUnbegun x 0x72 = true ∧ x.1.innerBellOk x.2.ctx (x.1.getQ 3).ctx 3 1 = false) := by decide +kernel

def hostMsg (mtype : Nat) : HostMsg := { zeroHost with mtype := mtype, cls := 2, tag := 9, len := if mtype = 0x12 then 16 else 0, body := if mtype = 0x12 then List.replicate 16 7 else [] }

/-- A host link that is up, with a request of TAG 9 and a copy of record 1 that has asked for everything. -/
def asks (kind : ReqKind) (fs : List (Nat × Nat)) : State :=
  let s := (transported State.reset.hostUp 0x70 fs).1
  { s with host := { s.host with reqs := [⟨9, kind, 0, 0x100, 16⟩], copies := [⟨1, 16, false⟩] } }

/-- DMA_RD_DATA for no request, with a failed status, with a counter that has been used, for a copy and for a ring. -/
theorem test_read_data_witness :
    let m := hostMsg 0x12
    let s := asks (.copyIn 1 0x8000) [(368, 16)]
    let r : HostReq := ⟨9, .copyIn 1 0x8000, 0, 0x100, 16⟩
    let u := (s.hostArrive m 0x12).1
    let ring := asks (.ring 3) []
    let ring := ring.setQ 3 { ring.getQ 3 with fetching := true }
    let used := { s with host := { s.host with rxCtr := tset (fun _ => none) [] 0 (some 0) } }
    ((State.reset.hostUp.hostArrive m 0x12).2 = true ∧ (State.reset.hostUp.hostArrive m 0x12).1.host.reqs = []) ∧
    (u.answerLost 9 = false ∧ ({ s with recov := { s.recov with held := [0x1F] } } : State).hostUp.answerLost 9 = true ∧
      (({ s with recov := { s.recov with held := [0x1F] } } : State).hostArrive m 0x12).2 = true ∧ (used.hostArrive m 0x12).1.answerLost 9 = false) ∧
    ((s.hostArrive { m with status := 1 } 0x12).2 = true ∧ Obligations.isRead r.kind = true ∧ u.host.reqs = [r]) ∧
    ((used.hostArrive m 0x12).2 = true ∧ (used.hostArrive m 0x12).1.host.reqs = [r] ∧
      (tget (fun _ => (none : Option Nat)) (used.hostArrive m 0x12).1.host.rxCtr 0).any (m.mctr ≤ ·) = true) ∧
    ((s.hostArrive m 0x12).2 = true ∧ m.len = r.len ∧ tget (fun _ => (none : Option Nat)) u.host.rxCtr 0 = none ∧ (u.flight? 1).isSome = true ∧ u.host.copies = [⟨1, 16, false⟩] ∧
      htLen (recOf [(0, 0x70), (368, 16)]) = 16 ∧ u.calm = true) ∧
    ((ring.hostArrive m 0x12).2 = true ∧ (ring.hostArrive m 0x12).1.host.reqs = [⟨9, .ring 3, 0, 0x100, 16⟩] ∧ ((ring.hostArrive m 0x12).1.getQ 3).fetching = true) := by decide +kernel

theorem test_write_ack_witness :
    let m := hostMsg 0x13
    let s := asks (.copyOut 1) [(368, 16)]
    let c := asks (.compl 0) []
    let c := c.setC 0 { c.getC 0 with crWait := [([], true)] }
    ((State.reset.hostUp.hostArrive m 0x13).2 = true ∧ (State.reset.hostUp.hostArrive m 0x13).1.host.reqs = []) ∧
    ((s.hostArrive { m with status := 1 } 0x13).2 = true ∧ Obligations.isWrite (.copyOut 1) = true) ∧
    ((s.hostArrive m 0x13).2 = true ∧ (s.hostArrive m 0x13).1.host.reqs = [⟨9, .copyOut 1, 0, 0x100, 16⟩] ∧ (s.hostArrive m 0x13).1.host.copies = [⟨1, 16, false⟩] ∧
      ((s.hostArrive m 0x13).1.flight? 1).isSome = true) ∧
    ((c.hostArrive m 0x13).2 = true ∧ ((c.hostArrive m 0x13).1.getC 0).crWait = [([], true)]) ∧
    ((s.host.reqs.find? fun r => r.tag = 9) = some ⟨9, .copyOut 1, 0, 0x100, 16⟩ ∧ (s.host.reqs.find? fun r => r.tag = 8) = none ∧ s.host.copies.any (fun c => c.rid = 1) = true) := by
  decide +kernel

theorem test_host_link_witness :
    (State.reset.hostUp.hostArrive (hostMsg 0x30) 0x30).2 = true ∧ (∀ t ∈ [0x12, 0x13, 0x30], ((State.reset.fset F.UCI_STS_LINK 3).hostArrive (hostMsg t) t).2 = false) ∧
    (∀ n ∈ [0, 1, 2, 3], (State.reset.fset F.UCI_STS_LINK n).fget F.UCI_STS_LINK = n) ∧
    (nextOf (exec (.hostLinkTrain 15) (State.reset.fset F.UCI_STS_LINK 2))).fget F.UCI_STS_LINK = 1 ∧ (nextOf (exec (.hostLinkTrain 16) (State.reset.fset F.UCI_STS_LINK 0))).fget F.UCI_STS_LINK = 3 := by
  decide +kernel

/-! ### Management and security -/

/-- A request of a length, sealed with SEQ 1, or not. -/
def plainMsg (len : Nat) (body : List Byte) : GMsg := { zeroMsg with len := len, body := body }
def sealedMsg (len : Nat) (body : List Byte) : GMsg := { zeroMsg with len := len + 16, body := body, sealed := true, seq := 1 }

def isAdmitted (s : State) (m : GMsg) (code : Nat) (sealed : Bool) (lenOk : Bool) : Bool := isRead s m code && s.admits m sealed false lenOk = 0

theorem admitted_of {s : State} {m : GMsg} {code : Nat} {sealed lenOk : Bool} (h : isAdmitted s m code sealed lenOk = true) : Obligations.admitted s m code sealed false lenOk := by
  simp only [isAdmitted, Bool.and_eq_true, decide_eq_true_eq] at h
  exact ⟨read_of h.1, h.2⟩

/-- The Ostler runs, and no job is open. -/
def jobless : State := { State.reset with power := { State.reset.power with stage := 2 } }

/-- JOB_OPEN with one manager and with seven; with a job, under debug, without a key pair, with eight managers. -/
theorem test_job_open_witness :
    let m (n : Nat) := plainMsg 1400 (List.replicate 64 0 ++ [BitVec.ofNat 8 n])
    (∀ n ∈ [1, 7], isAdmitted jobless (m n) 0x04 false ((m n).plainLen = 1400) = true ∧ payloadOk (m n) = true ∧ jobless.mgmt.job = none ∧ jobless.mgmt.unlocked = none ∧ jobless.mgmt.kem ≠ none) ∧
    payloadOk (m 8) = false ∧ payloadOk (m 0) = false ∧ (isAdmitted managed (m 1) 0x04 false ((m 1).plainLen = 1400) = true ∧ managed.mgmt.job ≠ none) ∧
    (let s := { jobless with mgmt := { jobless.mgmt with unlocked := some 0 } }
     isAdmitted s (m 1) 0x04 false ((m 1).plainLen = 1400) = true) ∧
    (let s := { jobless with mgmt := { jobless.mgmt with kem := none } }
     isAdmitted s (m 1) 0x04 false ((m 1).plainLen = 1400) = true) := by decide +kernel

/-- A change of slot 9 while a record uses it, and while none does. -/
def slotInUse : State := let s := managed.fly (flightOf (15 * 1024) 0); s.setC 0 { s.getC 0 with keyslot := 9 }

theorem test_key_witness :
    let load := sealedMsg 48 [9, 1, 63]
    let derive := sealedMsg 8 [9, 3, 0, 0]
    (isAdmitted managed (sealedMsg 0 []) 0x05 true ((sealedMsg 0 []).plainLen = 0) = true ∧ managed.mayClose = true ∧ (managed.inStep 5).mayClose = false) ∧
    (∀ s ∈ [managed, slotInUse], isAdmitted s load 0x06 true (load.plainLen = 48) = true ∧ slotFieldsOk load = true ∧ load.num 3 5 = 0 ∧ isAdmitted s derive 0x07 true (derive.plainLen = 8) = true ∧
      slotFieldsOk derive = true ∧ derive.num 1 1 ≠ 2 ∧ derive.num 3 1 = 0 ∧ isAdmitted s (sealedMsg 8 [9]) 0x08 true ((sealedMsg 8 [9]).plainLen = 8) = true) ∧
    (slotInUse.slotUsed 9 = true ∧ managed.slotUsed 9 = false) ∧ (slotFieldsOk (sealedMsg 48 [0, 1, 63]) = false ∧ slotFieldsOk (sealedMsg 48 [9, 1, 64]) = false ∧
      slotFieldsOk (sealedMsg 48 [9, 4, 0]) = false ∧ (sealedMsg 8 [0]).num 0 1 = 0 ∧ (sealedMsg 8 [9, 1]).num 1 7 ≠ 0) ∧
    (isAdmitted managed { load with proofOk := false } 0x06 true (load.plainLen = 48) = true) ∧
    (let s := { managed with mgmt := { managed.mgmt with changes := [⟨9, none, 0x08, zeroMsg⟩] } }
     (s.mgmt.changes.find? fun c => c.slot = 9) = some ⟨9, none, 0x08, zeroMsg⟩ ∧ s.slotUsed 9 = false ∧ (managed.mgmt.changes.find? fun c => c.slot = 9) = none) := by decide +kernel

/-- Before the Ostler starts no request is heard; a fifth waiting one of a path is refused BUSY (R388). -/
theorem test_requests_refused :
    (Obligations.requestRows managed (plainMsg 3 [])).all (fun row => isRead managed (plainMsg 3 []) row.2.1 &&
      managed.admits (plainMsg 3 []) row.2.2.1 false row.2.2.2 ≠ 0) = true ∧ State.reset.ostlerUp = false ∧
    (let waits (n : Nat) : State := { managed with mgmt := { managed.mgmt with changes := [⟨9, none, 0x08, zeroMsg⟩], queue := List.replicate n (0x01, zeroMsg) } }
     (waits 0).ostlerUp = true ∧ (waits 0).mgmt.changes ≠ [] ∧ ((waits 3).queueRequest zeroMsg 0x01 0x01).mgmt.queue.length = 4 ∧
       ((waits 4).queueRequest zeroMsg 0x01 0x01).mgmt.queue.length = 4) := by decide +kernel

/-- Requests that are admitted, with what makes each act or not: objects, offsets, sessions, a bank. -/
theorem test_request_witness :
    (∀ code ∈ [0x01, 0x20, 0x22, 0x24, 0x25], isAdmitted managed (plainMsg 0 []) code false ((plainMsg 0 []).plainLen = 0) = true) ∧ isAdmitted managed (plainMsg 4 []) 0x02 false true = true ∧
    isAdmitted managed (plainMsg 32 []) 0x03 false true = true ∧
    (∀ object ∈ [0, 1, 2, 3, 4, 5, 6], isAdmitted managed (plainMsg 8 [BitVec.ofNat 8 object]) 0x12 false true = true ∧ (plainMsg 8 [BitVec.ofNat 8 object]).num 0 1 = object ∧
      (plainMsg 8 [BitVec.ofNat 8 object]).num 1 3 = 0 ∧ (plainMsg 8 [BitVec.ofNat 8 object]).num 4 4 = 0) ∧
    (∀ session ∈ [none, some 0, some 1], let s := { managed with mgmt := { managed.mgmt with session := session } }
      isAdmitted s (plainMsg 0 []) 0x20 false true = true ∧ isAdmitted s (sealedMsg 0 []) 0x23 true true = true ∧ s.mgmt.flash.reached = false ∧
      isAdmitted { s with mgmt := { s.mgmt with flash := { s.mgmt.flash with reached := true } } } (sealedMsg 0 []) 0x23 true true = true) ∧
    (∀ stage ∈ [1, 2, 3, 4], isAdmitted { managed with power := { managed.power with stage := stage } } (plainMsg 0 []) 0x24 false true = true) := by decide +kernel

/-- 4,096 bytes for the last page of a bank and for one beyond it. -/
def writeMsg (off : Nat) : GMsg := plainMsg 4104 (leBytes 8 off ++ List.replicate 4096 1)

theorem test_write_witness :
    (∀ off ∈ [0, 24 * mib - 4096], isAdmitted managed (writeMsg off) 0x21 false
        ((writeMsg off).plainLen = (writeMsg off).body.length && 4104 ≤ (writeMsg off).plainLen && (writeMsg off).plainLen ≤ 16392 && ((writeMsg off).plainLen - 8) % 4096 = 0) = true ∧
      (writeMsg off).num 0 4 = off ∧ (writeMsg off).num 4 4 = 0 ∧ off + 4096 ≤ 24 * mib) ∧
    (writeMsg (24 * mib)).num 0 4 + 4096 > 24 * mib ∧ (writeMsg 64).num 0 4 % 4096 ≠ 0 := by decide +kernel

/-- A bank that holds a bundle of SVN 2. -/
def bundled (fuses : Nat) : State :=
  let bs := ascii "CUFW" ++ leBytes 4 1 ++ leBytes 8 2 ++ leBytes 4 0 ++ leBytes 4 (windowCap0 0)
  { managed with mgmt := { managed.mgmt with session := some 0, flash := { managed.mgmt.flash with bytes := bs.zipIdx.map (fun x => (bankAt 1 x.2, x.1)), fuses := fuses } } }

theorem test_activate_witness :
    (∀ fuses ∈ [0, 2, 3], isAdmitted (bundled fuses) (plainMsg 0 []) 0x22 false true = true ∧ (bundled fuses).mgmt.session = some 0 ∧ (bundled fuses).bundleOk 1 = true ∧
      (bundled fuses).bundleSvn 1 = 2) ∧ managed.bundleOk 1 = false ∧ managed.mgmt.session = none := by decide +kernel

/-- A debug token for the live challenge. -/
def tokenMsg : GMsg := plainMsg 7904 (serialBytes ++ padTo 32 (Config.challenge 0) ++ List.replicate 7864 0)

def challenged : State := { jobless with mgmt := { jobless.mgmt with chal := some 0 } }

theorem test_unlock_witness : Obligations.admitted challenged tokenMsg 0x26 false false (tokenMsg.plainLen = 7904 && tokenMsg.body.length = 7904) ∧ tokenMsg.num 40 1 < 4 ∧ tokenMsg.num 41 7 = 0 ∧
    challenged.tokenOk tokenMsg = true ∧ challenged.mgmt.unlocked = none ∧ challenged.mgmt.job = none ∧ jobless.tokenOk tokenMsg = false := by
  have a : serialBytes.length = 8 := rfl
  have b : (padTo 32 (Config.challenge 0)).length = 32 := by simp only [padTo, List.length_append, List.length_take, List.length_replicate]; omega
  have body : tokenMsg.body = serialBytes ++ padTo 32 (Config.challenge 0) ++ List.replicate 7864 0 := rfl
  have l : tokenMsg.body.length = 7904 := by rw [body, List.length_append, List.length_append, a, b, List.length_replicate]
  have far (n k : Nat) : (tokenMsg.body.drop (40 + n)).take k = List.replicate (min k (7864 - n)) 0 := by
    rw [body, List.drop_append, List.drop_of_length_le (by simp only [List.length_append, a, b]; omega)]
    simp only [List.length_append, a, b, List.nil_append, List.drop_replicate, List.take_replicate]
    congr 2; omega
  refine ⟨⟨read_of (by decide +kernel), ?_⟩, ?_, ?_, ?_, rfl, rfl, rfl⟩
  · rw [l]; decide +kernel
  · rw [GMsg.num, far 0 1]; decide
  · rw [GMsg.num, far 1 7]; decide
  · have t : tokenMsg.body.take 8 = serialBytes := by rw [body, List.append_assoc, List.take_append_of_le_length (Nat.le_of_eq a.symm), List.take_of_length_le (Nat.le_of_eq a)]
    have d : (tokenMsg.body.drop 8).take 32 = padTo 32 (Config.challenge 0) := by
      rw [body, List.append_assoc, List.drop_append, a, Nat.sub_self, List.drop_of_length_le (Nat.le_of_eq a), List.nil_append, List.drop_zero,
        List.take_append_of_le_length (Nat.le_of_eq b.symm), List.take_of_length_le (Nat.le_of_eq b)]
    show (tokenMsg.proofOk && decide (tokenMsg.body.take 8 = serialBytes) && decide ((tokenMsg.body.drop 8).take 32 = padTo 32 (Config.challenge 0))) = true
    rw [decide_eq_true t, decide_eq_true d]
    rfl

/-- A message to forward: within the torus, beyond it, and one that is itself a FORWARD. -/
theorem test_forward_message_witness :
    let m (dst code : Nat) := plainMsg 29 (leBytes 8 dst ++ gPrefix ++ leBytes 16 (code * 256))
    let s := { inTorus with power := managed.power }
    (isAdmitted s (m 3 1) 0x30 false (29 ≤ (m 3 1).plainLen && (m 3 1).plainLen = (m 3 1).body.length) = true ∧ (m 3 1).num 0 4 = 3 ∧ s.inTorus 3 = true ∧ s.reaches 3 = true ∧
      innerHeader ((m 3 1).body.drop 8) 15 8 = 1) ∧ s.inTorus 4 = false ∧ innerHeader ((m 3 0x30).body.drop 8) 15 8 = 0x30 ∧ (m (2 ^ 18) 1).num 0 4 = 2 ^ 18 ∧
    (let s := { managed with mgmt := { managed.mgmt with forwards := [⟨3, 9, zeroMsg⟩] } }
     (s.mgmt.forwards.find? fun f => f.dst = 3 && f.reqId = 9) = some ⟨3, 9, zeroMsg⟩ ∧ (s.mgmt.forwards.find? fun f => f.dst = 3 && f.reqId = 8) = none) := by decide +kernel

/-- GO without its bit, while a request is busy, with the first and the last fragment of a request, with one that is none, and for a response. -/
theorem test_mailbox_witness :
    let whole := gPrefix ++ gHeader 0 0 0 0 false false 0x01
    let s := { State.reset with mgmt := { State.reset.mgmt with request := whole.take 17 } }
    let s := s.wr R.OST_MBX_REQ (leNat (whole.drop 17))
    let ready := State.reset.fset F.OST_MBX_STS_READY 1
    let go (n : Nat) := 2 ^ 31 + n
    (bit (2 ^ 31 - 1) 31 = false ∧ (State.reset.fset F.OST_MBX_STS_BUSY 1).flag F.OST_MBX_STS_BUSY = true) ∧
    (bit (go 4) 29 = false ∧ bit (go (2 ^ 29 + 4)) 29 = true ∧ bit (go (2 ^ 29 + 4)) 30 = false ∧ bits (go (2 ^ 29 + 4)) 11 0 = 4 ∧ s.flag F.OST_MBX_STS_BUSY = false) ∧
    (let got := s.mgmt.request ++ ((List.range 1).flatMap fun i => leBytes 4 (s.rd (R.OST_MBX_REQ + 4 * i))).take 4
     got.take 5 = gPrefix ∧ got.length = 21 ∧ innerHeader got 15 8 ∈ requestCodes ∧ innerHeader got 7 0 = 1 ∧ innerHeader got 32 32 = 0) ∧
    (List.take 5 ((leBytes 4 (State.reset.rd R.OST_MBX_REQ)).take 4) ≠ gPrefix ∧ bit (2 ^ 31 + 2 ^ 30 + 2 ^ 29 + 4) 30 = true) ∧
    (State.reset.flag F.OST_MBX_STS_READY = false ∧ ready.flag F.OST_MBX_STS_READY = true ∧ ready.mgmt.response = [] ∧ bits (go 0) 11 0 = 0) := by decide +kernel

theorem test_jtag_witness :
    State.reset.mgmt.unlocked = none ∧ (∀ c ∈ [0, 1, 2, 3, 5, 6, 255], (nextOf (exec (.jtagInstruction c) State.reset)).mgmt.jtag = if c ≤ 2 then c else 0) ∧
      (nextOf (exec (.jtagInstruction 1) State.reset)).out = [.jtag 0x1940056F] ∧
      (let s := { State.reset with mgmt := { State.reset.mgmt with unlocked := some 0 } }
       s.mgmt.unlocked ≠ none ∧ exec (.jtagInstruction 6) s = .refused (.debugInstruction 6) ∧ (nextOf (exec (.jtagInstruction 5) s)).mgmt.jtag = 5) :=
  ⟨rfl, by decide +kernel, by decide +kernel, by decide +kernel, rfl, by decide +kernel⟩

/-! ### Power, clocks, start-up and tests -/

theorem test_supply_witness :
    let dip (n : Nat) := State.reset.fset F.PWR_STS_SUPPLY n
    let off (n : Nat) : State := { State.reset with power := { State.reset.power with off := n } }
    let low : State := { State.reset with power := { State.reset.power with low := true } }
    (State.reset.awake = true ∧ (off 2).awake = true ∧ (off 1).awake = false ∧ (off 3).awake = false ∧ low.awake = false) ∧
    (∀ n ∈ [0, 1, 2], (dip n).fget F.PWR_STS_SUPPLY = n) ∧
    (State.reset.atBoundary = true ∧ (State.reset.inStep 5).atBoundary = false ∧ (State.reset.inStep 5).sealing = false ∧ sealingStep.atBoundary = false ∧ sealingStep.sealing = true) ∧
    ((State.reset.inStep 5).run.formed = false ∧ (State.reset.inStep 5).run.failSent = false ∧ { State.reset.inStep 5 with run := { State.reset.run with formed := true } }.run.formed = true) ∧
    (State.reset.power.suspect = false ∧ { State.reset with power := { State.reset.power with suspect := true } }.power.suspect = true) ∧ (off 1).power.off = 1 ∧ low.power.low = true ∧
    State.reset.power.low = false := by decide +kernel

/-- Power at the cap, below it by 50 W, and one watt outside either; with an Ostler and without. -/
theorem test_limit_witness :
    let s := managed.fset F.PWR_CAP_PCAP 1000
    s.ostlerUp = true ∧ State.reset.ostlerUp = false ∧ min (s.fget F.PWR_CAP_PCAP) 2400 = 1000 ∧ (∀ w ∈ [950, 1000], exec (.powerCapTick w) s = .next s → w ≤ 1000 ∧ 1000 ≤ w + 50) ∧
      (nextOf (exec (.powerCapTick 1001) s)).fget F.PWR_THROT_STS_SHARE = 1 ∧ 949 + 50 < 1000 := by
  refine ⟨by decide +kernel, by decide +kernel, by decide +kernel, ?_, by decide +kernel, by decide⟩
  intro w hw _
  simp only [List.mem_cons, List.not_mem_nil, or_false] at hw
  omega

theorem test_thermal_witness :
    (State.reset.awake = true ∧ State.reset.flag F.PWR_THROT_STS_TEMP = false) ∧ (State.reset.fset F.PWR_THROT_STS_TEMP 1).flag F.PWR_THROT_STS_TEMP = true ∧
      (nextOf (exec (.thermalReset 3) State.reset)).power.off = 2 := by decide +kernel

/-- The selected reference and the other, good and bad. -/
theorem test_clock_witness :
    let both := (State.reset.fset (refOk 0) 1).fset (refOk 1) 1
    let none' := (State.reset.fset (refOk 0) 0).fset (refOk 1) 0
    (both.flag (refOk 0) = true ∧ both.flag (refOk 1) = true ∧ none'.flag (refOk 0) = false ∧ none'.flag (refOk 1) = false) ∧
    (let s := ((both.fset F.CLK_CFG_REVERT 1).fset F.CLK_CFG_PREF 1).fset F.CLK_STS_SEL 0
     s.flag F.CLK_CFG_REVERT = true ∧ s.fget F.CLK_STS_SEL ≠ s.fget F.CLK_CFG_PREF ∧ s.flag (refOk 1) = true ∧ s.standsAtBoundary = true ∧ s.test.spent = false ∧ s.layoutDue = false ∧ s.test.running = none ∧ s.test.held = [] ∧
       (nextOf (exec .refclkRevertTimer s)).fget F.CLK_STS_SEL = 1) ∧ (both.fset F.CLK_CFG_REVERT 0).flag F.CLK_CFG_REVERT = false := by decide +kernel

/-- Banks that verify: the running one, a pending one at its first and its second start, one that has had two, the other one, and none; the limit of resets. -/
theorem test_boot_witness :
    let flash (pend : Option Nat) (starts : Nat) : State := { State.reset with mgmt := { State.reset.mgmt with flash := { Flash.initial with pend := pend, starts := starts } } }
    (State.reset.awake = true ∧ State.reset.power.stage = 0 ∧ jobless.power.stage ≠ 0 ∧ State.reset.power.limit = 3) ∧
    (∀ x ∈ [((none : Option Nat), 0), (some 1, 0), (some 1, 1), (some 1, 2)], (flash x.1 x.2).mgmt.flash.pend = x.1 ∧ (flash x.1 x.2).mgmt.flash.starts = x.2 ∧ (flash x.1 x.2).awake = true) ∧
    (nextOf (exec (.firmwareBoot [false, true] 0) (flash (some 1) 1))).mgmt.flash.started = 1 ∧ (nextOf (exec (.firmwareBoot [true, true] 0) (flash (some 1) 2))).mgmt.flash.started = 0 ∧
    (nextOf (exec (.firmwareBoot [false, false] 2) State.reset)).power.stage = 4 ∧ (nextOf (exec (.firmwareBoot [true, true] 3) State.reset)).power.stage = 3 := by decide +kernel

/-- Core n may be released: those before it run. -/
def booted (n : Nat) : State :=
  let s := (List.range n).foldl (fun s i => s.fset (coreField i) 2) State.reset
  let s := if n < 7 then s.fset (coreField n) 1 else s
  { s with power := { s.power with stage := 1 } }

theorem test_release_witness :
    (∀ n ∈ [0, 6], (booted n).awake = true ∧ (booted n).power.off = 0 ∧ (booted n).power.stage = 1 ∧ (booted n).fget (coreField n) = 1 ∧ ∀ i ∈ List.range n, (booted n).fget (coreField i) = 2) ∧
    (booted 0).fget (coreField 0) ≠ 2 ∧ (∀ n ∈ [0, 3], (booted 7).fget (coreField n) = 2 ∧ n ∉ (booted 7).power.init) ∧ (booted 7).flag F.HUB_SEAL_STS_READY = false ∧ (booted 7).test.running = none := by
  decide +kernel

def zeroed : State := { jobless with power := { jobless.power with init := [3, 2, 1, 0] } }

theorem test_self_test_witness :
    (zeroed.power.stage = 2 ∧ (∀ n ∈ List.range 4, n ∈ zeroed.power.init) ∧ zeroed.flag F.HUB_SEAL_STS_READY = false ∧ State.reset.power.stage ≠ 2) ∧
    (∀ n ∈ [0, 3], zeroed.coreName n 7 = some 7 ∧ zeroed.isSpare (coreUnit n 7) = false ∧ zeroed.isSpare (coreUnit n 8) = true ∧ ∀ q ∈ List.range 8, zeroed.isSpare (coreUnit n q) = false) ∧
    (nextOf (exec (.startupSelfTestComplete [4096 * 3 + 7]) zeroed)).coreOf 3 7 = 8 := by decide +kernel

/-- Everything that R424 asks for, and for each CAUSE a state in which it is the lowest that fails. -/
def mayEnd : State := (((State.reset.fset F.HUB_RCV_CFG_K 1).fset F.HUB_RCV_CFG_N 1).fset F.HUB_SEAL_STS_READY 1).wr64 R.LXE_LEDGER_BASE (2 ^ 32)

theorem test_seal_witness :
    let cause (s : State) : Nat := (nextOf (exec (.seal .host) s)).fget F.HUB_SEAL_STS_CAUSE
    (mayEnd.isSealed = false ∧ sealedReset.isSealed = true ∧ cause mayEnd = 0 ∧ (nextOf (exec (.seal .host) mayEnd)).isSealed = true) ∧
    (mayEnd.inTorus 0 = true ∧ mayEnd.flag F.FAB_YOKE_EN = false ∧ (mayEnd.sealRegions ++ reservedRegions).Pairwise (fun x y => Obligations.overlap x y = false) ∧
      1024 ≤ mayEnd.fget F.LXE_LEDGER_SIZE_MIB) ∧
    cause (mayEnd.fset F.FAB_YOKE_EN 1) = 1 ∧ cause (mayEnd.fset F.LXE_LEDGER_SIZE_MIB 1023) = 3 ∧ cause (mayEnd.fset F.HUB_RCV_CFG_K 0) = 4 ∧ cause (mayEnd.fset F.HUB_SEAL_STS_READY 0) = 5 ∧
    cause (mayEnd.wr64 R.LXE_LEDGER_BASE 0x0017F0000000) = 2 := by decide +kernel

/-- Units of each kind: a named one, a spare, one that does not exist. -/
theorem test_unit_test_witness :
    let s := State.reset.inStep 5
    (unitExists (unitOf 0x3008) = true ∧ State.reset.unitName (unitOf 0x3008) = none ∧ State.reset.isSpare (unitOf 0x3008) = true) ∧ unitExists (unitOf 0x3009) = false ∧
      unitExists (unitOf 0x4000) = false ∧ (unitExists (unitOf 0x3007) = true ∧ State.reset.unitName (unitOf 0x3007) ≠ none ∧ State.reset.standsAtBoundary = true) ∧
      (s.unitName (unitOf 0x3007) ≠ none ∧ s.standsAtBoundary = false ∧ s.inProgress = true ∧ s.sealing = false) := by decide +kernel

theorem test_test_witness :
    let item (kind target : Nat) : TestItem := ⟨kind, target, false⟩
    let held (kind target : Nat) : State := { State.reset with test := { held := [item kind target], running := none, spent := false } }
    let runs (kind target : Nat) : State := { State.reset with test := { held := [], running := some (item kind target), spent := false } }
    (∀ t ∈ [0x71F, 0x800, 0x720, 6, 7], (t / 256 < 8 ∧ t % 256 < 32) ∨ t = 0x800 ∨ t = 0x720) ∧
    (∀ n ∈ [0, 1, 7], (State.reset.fset F.HUB_STEP_STS_PHASE n).fget F.HUB_STEP_STS_PHASE = n) ∧
    ((State.reset.fset F.HUB_TEST_CFG_CAL_PERIOD_S 0).fget F.HUB_TEST_CFG_CAL_PERIOD_S = 0 ∧ (State.reset.fset F.HUB_TEST_CFG_CAL_PERIOD_S 1).fget F.HUB_TEST_CFG_CAL_PERIOD_S = 1) ∧
    (∀ kind ∈ [0, 1, 2, 3, 4], (held kind 0x71F).standsAtBoundary = true ∧ (held kind 0x71F).test.running = none ∧ (held kind 0x71F).test.held = [item kind 0x71F] ∧
      (held kind 0x71F).test.spent = false ∧ (held kind 0x71F).layoutDue = false ∧ ((held kind 0x71F).fset F.CXE_NEXT_STS_PEND 1).layoutDue = true ∧ (runs kind 0x71F).test.running = some (item kind 0x71F)) ∧
    (let k := pchKey 7 31
     let dead := (held 1 0x71F).setPch k (4 * 2 ^ 29 + 1)
     bits ((held 1 0x71F).pchSts k) 31 29 ≠ 4 ∧ bits (dead.pchSts k) 31 29 = 4 ∧ dead.startTests.test.held = [] ∧ dead.startTests.test.running = none ∧
       (held 1 0x71F).startTests.test.running = some (item 1 0x71F) ∧ bits ((held 1 0x71F).startTests.pchSts k) 31 29 = 1) ∧
    (let late := nextOf (exec (.testComplete true 26) (runs 4 0))
     late.test.spent = true ∧ (nextOf (exec (.testComplete true 25) (runs 4 0))).test.spent = false ∧ (nextOf (exec .calibrationPeriod late)).test.held = [item 4 0] ∧
       (nextOf (exec (.testUnitSelfTest .host 0x3007 true 51) State.reset)).flag F.HUB_TEST_STS_REFUSED = true ∧
       (nextOf (exec (.testUnitSelfTest .host 0x3007 true 50) State.reset)).test.running = some ⟨0, 0x3007, true⟩) ∧
    ((State.reset.inStep 5).standsAtBoundary = false ∧ State.reset.test.held = [] ∧ State.reset.test.running = none ∧ State.reset.spares.now = [] ∧ State.reset.history = []) := by decide +kernel

/-! ### Worked values of the spec -/

/-- 11_step_ledger (R282): the digest of the nine ASCII bytes. -/
theorem test_crc64_value : crc64 (ascii "123456789") = 0x995DC9BBDF1939FA := by decide +kernel

/-- 02_number_formats, the table of E4M3 results: 1.0625, 1.1875, −2.3 and 464, to nearest, to zero and stochastic on both sides of the limit. -/
theorem test_e4m3_values :
    let conv (r : Rnd) (v : Nat) : Nat := (convScalar .e4m3 false r (ofF32 v)).bits
    ([(0x3F880000, 32767), (0x3F880000, 32768), (0x3F980000, 32767), (0x3F980000, 32768), (0xC0133333, 52428), (0xC0133333, 52429), (0x43E80000, 32767)].map
        fun x => (conv .nearest x.1, conv .toZero x.1, conv (.stoch x.2) x.1)) =
      [(0x38, 0x38, 0x38), (0x38, 0x38, 0x39), (0x3A, 0x39, 0x39), (0x3A, 0x39, 0x3A), (0xC1, 0xC1, 0xC1), (0xC1, 0xC1, 0xC2), (0x7E, 0x7E, 0x7E)] ∧
    (convScalar .e4m3 false .nearest (ofF32 0x43EB0000)).ovf = true ∧ (convScalar .e4m3 false (.stoch 32767) (ofF32 0x43E80000)).ovf = false ∧
      (convScalar .e4m3 false (.stoch 32768) (ofF32 0x43E80000)).ovf = true := by decide +kernel

/-- R32: a B8E4 block whose largest magnitude is 500. -/
theorem test_block_value :
    let x := encodeBlock .b8e4 false ((.fin false 500 0, .nearest) :: List.replicate 31 (.zero, .nearest))
    x.1 = 0x80 ∧ (x.2.map (·.bits)).headD 0 = 0x78 ∧ toF32 (decodeBlockElem .b8e4 0x80 0x78) = 0x44000000 := by decide +kernel

/-- R43: the counter of the element at row 300, column 1,000. -/
theorem test_counter_value :
    srCounter { mode := 2, key := 0, step := 1000205, layer := 37, stream := 0, mb := 22, base := 1024, n := 4096 } 300 1000 = 0x0000000F430D0250580000000413059D := by decide +kernel

/-- R49, R50: 2^24 and fifteen ones, exactly and one at a time. -/
theorem test_accumulate_value :
    let terms := Val.fin false 1 24 :: List.replicate 15 .one
    toF32 (accumulateAll false .zero terms).1 = toF32 (.fin false 16777232 0) ∧ toF32 (accumulateAll true .zero terms).1 = toF32 (.fin false 1 24) := by decide +kernel

/-- R173: what the pins carry of a block has no syndromes, and one symbol changed has some. -/
theorem test_burst_codeword : syndromes (nonzero (burst (2 ^ 777 + 2 ^ 64 + 5))) = List.replicate 8 0 ∧ syndromes [(71, 1)] = List.replicate 8 1 := by decide +kernel

/-- R174: four errors without an erasure, and three with two erasures, are corrected. -/
theorem test_pin_decode :
    pinDecode [] [(0, 1), (20, 0xFFFF), (63, 2), (66, 9)] = some [(0, 1), (20, 0xFFFF), (63, 2), (66, 9)] ∧
      pinDecode [3, 70] [(3, 5), (9, 6), (30, 7), (69, 8), (70, 1)] = some [(3, 5), (9, 6), (30, 7), (69, 8), (70, 1)] := by decide +kernel

/-- R177: every single flipped bit is corrected, and no double one. -/
theorem test_secded : (List.range 39).all (fun i => wordFix (2 ^ i) = some (2 ^ i) && (List.range i).all fun j => wordFix (2 ^ i + 2 ^ j) = none) = true := by decide +kernel

/-- R66: a fault of the first datapath is written, one of the second is not, and either gives a miss; the same fault in both gives none. -/
theorem test_drain_datapaths :
    let x (second : Bool) : MxFault := { drain := true, product := 0, row := 0, col := 1, bit := 7, second := second, saved := false }
    let ss : List Strip := [⟨0, 0, 64, [1, 2]⟩]
    (drainOut false [x false] ss = ([⟨0, 0, 64, [1, 0x82]⟩], [0])) ∧ drainOut false [x true] ss = (ss, [0]) ∧
      drainOut false [x false, x true] ss = ([⟨0, 0, 64, [1, 0x82]⟩], []) := by decide +kernel

/-- R118: a row that the coder wrote wrongly does not hold its elements. -/
theorem test_coder_fault : let xs := [0x3F80, 0x4000, 0]
    chunksHold xs (rowChunks 5 xs) = true ∧ chunksHold xs (codeRow [⟨0, 8, 0⟩] 0 (rowChunks 5 xs)) = false := by decide +kernel

/-- R199: two fields of opposite parity are one frame; a field whose partner may still come makes none. -/
theorem test_field_pairs :
    let field (i : Nat) : Option Bool := [some false, some true, none, some true, some true].getD i none
    pairFields field false [0, 1, 2, 3, 4] = [[0, 1], [2], [3]] ∧ pairFields field true [0, 1, 2, 3, 4] = [[0, 1], [2], [3], [4]] := by decide +kernel

/-- R154: WATCH_CFG at its reset value names the cuts data (0) and sequence (3). -/
theorem test_summary_axes : [0, 1, 2, 3].map State.reset.gsAxis = [true, false, false, true] := by decide +kernel

/-- R168: device address 0x0030_1234_5680. -/
theorem test_address_value : addrLoc 0x003012345680 = { stack := 5, pch := 11, bank := 4, row := 291, col := 2 } := by decide +kernel

/-- R90: the ring entry of 40 records at 0x0012_3500_0000 for step 1,000,205. -/
theorem test_entry_value : entryBytes 1000205 40 0x001235000000 = leBytes 16 (0xF430D * 2 ^ 64 + 0x0028000048D40000) := by decide +kernel

/-- R228 and R229: the flits of a write of 4,096 bytes, and its way from (62, 5, 10) to (1, 5, 40) in a machine of 64 × 64 × 64. -/
theorem test_route_value :
    let s := State.reset.wr R.FAB_DIMS (63 + 63 * 64 + 63 * 4096)
    let at' (x z : Nat) := x + 5 * 64 + z * 4096
    flitsOf 1 4128 = 17 ∧ at' 1 40 = 0x28141 ∧ s.routeFrom (at' 62 10) (at' 1 40) = some 0 ∧ (s.wraps (at' 62 10) 0, s.wraps (at' 63 10) 0) = (false, true) ∧
      s.routeFrom (at' 1 10) (at' 1 40) = some 4 := by decide +kernel

/-- R242: the cuts of the mapping at logical (45, 17, 9). -/
theorem test_cut_values :
    let s := ((((State.reset.wr R.CXE_CUT 0x90016001).wr (R.CXE_CUT + 4) 0xC0810201).wr (R.CXE_CUT + 8) 0xC0810408).wr (R.CXE_CUT + 12) 0xC0810104).wr R.CXE_LCOORD (45 + 17 * 64 + 9 * 4096)
    (s.member 0, s.member 1, s.member 2, s.member 3) = (553, 1, 5, 1) ∧ (s.members 0, s.members 1, s.members 2, s.members 3) = (2048, 4, 8, 2) := by decide +kernel

/-- R400: the info of the DMA key of context 9, key generation 1. -/
theorem test_derive_value :
    deriveInfo (sealedMsg 8 [0x21, 1, 9, 0, 1]) = [0x63, 0x75, 0x61, 0x72, 0x69, 0x73, 0x2D, 0x63, 0x74, 0x78, 0x09, 0x01, 0x00, 0x00, 0x00] := by decide +kernel

/-- R445: MXC_CHK_INFO of carriage C2. -/
theorem test_offset_value : carReg R.MXC_CHK_INFO 2 = 0x1210050 := by decide

/-- No row of the table has bits, so no word spells a command. -/
theorem test_decode_rows : decodeTableWord 0 0 = none ∧ decodeTableWord 32 5 = none := by decide +kernel

end Sys2Proof.Machine
end

section
/-! PROOF. What every register access is answered, and what fails (R5, R7, R345, R373, R445): the registers that an access error leaves alone, the status of
an access, and what a read and a write that is not performed do. -/
namespace Sys2Proof.Machine

variable {s : State} {a : Agent} {o size st : Nat}

/-! ### The registers that an access error leaves alone (R447, R449, R353) -/

/-- Neither a register of a common header nor a raw or pending word of an interrupt plane. -/
def SparedReg (k : Nat) : Prop := 0x40 ≤ inPage k ∧ ∀ p i, p < 2 → i < 64 → k ≠ rawReg p i ∧ k ≠ pendReg p i

theorem SparedReg.ne_header {k : Nat} (hk : SparedReg k) (w : Nat) {c : Nat} (hc : c < 0x40) : k ≠ w * 65536 + c := by
  have h := hk.1
  unfold inPage at h
  omega

theorem SparedReg.ne_rawReg {k n p : Nat} (hk : SparedReg k) (hn : srcNamed n = true) (hp : p < 2) : k ≠ rawReg p (n / 32) :=
  (hk.2 p (n / 32) hp (by have := srcNamed_lt hn; omega)).1

theorem SparedReg.ne_pendReg {k n p : Nat} (hk : SparedReg k) (hn : srcNamed n = true) (hp : p < 2) : k ≠ pendReg p (n / 32) :=
  (hk.2 p (n / 32) hp (by have := srcNamed_lt hn; omega)).2

theorem State.rd_countEvent (s : State) (g k : Nat) : (s.countEvent g).rd k = s.rd k := by
  unfold State.countEvent
  dsimp only
  split <;> rfl

theorem State.rd_setRegBit_other {k j : Nat} (i : Nat) (b : Bool) (h : k ≠ j) : (s.setRegBit j i b).rd k = s.rd k := s.rd_wr_other _ h

theorem State.rd_planeEvent_other {k p n : Nat} (h : k ≠ pendReg p (n / 32)) : (s.planeEvent p n).rd k = s.rd k := by
  unfold State.planeEvent
  dsimp only
  split
  · exact State.rd_setRegBit_other _ _ h
  · split
    · rw [State.rd_countEvent, State.rd_setRegBit_other _ _ h]
    · exact State.rd_setRegBit_other _ _ h

theorem State.rd_raise_spared {k : Nat} (hk : SparedReg k) (n : Nat) : (s.raise n).rd k = s.rd k := by
  unfold State.raise
  split
  next hn => rw [State.rd_planeEvent_other (hk.ne_pendReg hn (by decide)), State.rd_planeEvent_other (hk.ne_pendReg hn (by decide))]
  next => rfl

theorem State.rd_setLevel_spared {k : Nat} (hk : SparedReg k) (n : Nat) (b : Bool) : (s.setLevel n b).rd k = s.rd k := by
  unfold State.setLevel
  split
  · rfl
  next e =>
    have hn : srcNamed n = true := by simpa using e
    have hraw : ((s.setRegBit (rawReg 0 (n / 32)) (n % 32) b).setRegBit (rawReg 1 (n / 32)) (n % 32) b).rd k = s.rd k := by
      rw [State.rd_setRegBit_other _ _ (hk.ne_rawReg hn (by decide)), State.rd_setRegBit_other _ _ (hk.ne_rawReg hn (by decide))]
    dsimp only
    split
    · rw [State.rd_raise_spared hk, hraw]
    · exact hraw

theorem State.rd_event_spared {k : Nat} (hk : SparedReg k) (w m : Nat) : (s.event w m).rd k = s.rd k := by
  unfold State.event State.evtLevel
  rw [State.rd_setLevel_spared hk, State.rd_wr_other _ _ (hk.ne_header w (by decide))]

theorem State.rd_accessError_spared {k : Nat} (hk : SparedReg k) (w kind off : Nat) : (s.accessError w kind off).rd k = s.rd k := by
  unfold State.accessError
  dsimp only
  split
  · rfl
  · rw [State.rd_event_spared hk, State.rd_wr_other _ _ (hk.ne_header w (by decide))]

theorem State.rd_noteStatus_spared {k : Nat} (hk : SparedReg k) : (s.noteStatus o st).rd k = s.rd k := by
  unfold State.noteStatus
  split
  · rfl
  · split
    · exact State.rd_accessError_spared hk _ _ _
    · split
      · exact State.rd_accessError_spared hk _ _ _
      · rfl

theorem State.noteStatus_only (s : State) (o st : Nat) : ChangesOnly [.regs, .icu] s (s.noteStatus o st) := by
  simp [State.noteStatus]

/-- An address error is reported to no block: there is none (R445). -/
@[simp] theorem State.noteStatus_addrError (s : State) (o : Nat) : s.noteStatus o 1 = s := by
  simp [State.noteStatus]

/-! ### The status of an access (R373) -/

/-- The offset lies in a window that R444 assigns. -/
def Assigned (o : Nat) : Prop := o < 2 ^ 26 ∧ windowPages (offWindow o) ≠ 0

/-- The offset names no register and lies outside the headers, or no page of its window. -/
def NamesNothing (o : Nat) : Prop := windowPages (offWindow o) ≤ offPage o ∨ (0x40 ≤ inPage o ∧ regNamed o = false)

theorem NamesNothing.regNamed_eq_false (h : NamesNothing o) : regNamed o = false := by
  obtain h | ⟨_, h⟩ := h
  · simp [regNamed, Nat.not_lt.2 h]
  · exact h

theorem State.regStatus_of_not_assigned (h : ¬ Assigned o) : s.regStatus o size = 1 := by
  have h' : 2 ^ 26 ≤ o ∨ windowPages (offWindow o) = 0 := by unfold Assigned at h; omega
  rw [State.regStatus, if_pos (by simpa using h')]

theorem State.regStatus_of_misfit (ha : Assigned o) (h : size ≠ 4 ∨ o % 4 ≠ 0) : s.regStatus o size = 2 := by
  rw [State.regStatus, if_neg (by simpa [Assigned] using ha), if_pos (by simpa using h)]

/-- An access that fits its window needs only its block to be in service, and that only for a block-specific register. -/
theorem State.regStatus_of_fits (ha : Assigned o) (h4 : o % 4 = 0) :
    s.regStatus o 4 = if 0x40 ≤ inPage o ∧ regNamed o = true ∧ s.regFenced (offWindow o) (offPage o) = true then 3 else 0 := by
  rw [State.regStatus, if_neg (by simpa [Assigned] using ha), if_neg (by simp [h4])]
  by_cases hi : inPage o < 0x40
  · rw [if_pos (by simp only [hi, decide_true, Bool.true_or]), if_neg fun h => Nat.not_lt.2 h.1 hi]
  · cases hn : regNamed o with
    | false => rw [if_pos (by simp only [Bool.not_false, Bool.or_true]), if_neg fun h => Bool.false_ne_true h.2.1]
    | true => simp only [hi, Nat.not_lt.1 hi, decide_false, Bool.not_true, Bool.or_self, Bool.false_eq_true, if_false, true_and]

theorem firmwarePage_windowPages (h : firmwarePage o = true) : windowPages (offWindow o) ≠ 0 := by
  have hw : offWindow o = 2 ∨ offWindow o = 3 ∨ offWindow o = 4 ∨ offWindow o = 8 := by
    simp only [firmwarePage, Bool.and_eq_true, Bool.or_eq_true, decide_eq_true_eq] at h
    omega
  rcases hw with e | e | e | e <;> rw [e] <;> decide

/-- The rule of firmware pages answers OK only to an access that fits its window. -/
theorem State.writeStatus_of_not_fits (h : ¬ (Assigned o ∧ size = 4 ∧ o % 4 = 0)) : s.writeStatus a o size = s.regStatus o size := by
  refine if_neg fun hc => h ?_
  simp only [Bool.and_eq_true, decide_eq_true_eq] at hc
  obtain ⟨⟨⟨⟨_, hf⟩, hsize⟩, h4⟩, hlt⟩ := hc
  exact ⟨⟨hlt, firmwarePage_windowPages hf⟩, hsize, h4⟩

theorem State.writeStatus_of_not_assigned (h : ¬ Assigned o) : s.writeStatus a o size = 1 := by
  rw [State.writeStatus_of_not_fits fun hf => h hf.1, State.regStatus_of_not_assigned h]

theorem State.writeStatus_of_misfit (ha : Assigned o) (h : size ≠ 4 ∨ o % 4 ≠ 0) : s.writeStatus a o size = 2 := by
  rw [State.writeStatus_of_not_fits fun ⟨_, hs, h4⟩ => h.elim (· hs) (· h4), State.regStatus_of_misfit ha h]

theorem State.writeStatus_of_regStatus (h : s.regStatus o size = 0) : s.writeStatus a o size = 0 := by
  simp [State.writeStatus, h]

/-! ### Reads -/

theorem State.readReg_of_header (h : inPage o < 0x40) :
    s.readReg o = (s.headerReg (offWindow o) (offPage o) (inPage o) * b2n (offPage o < windowPages (offWindow o)), s) := by
  have hlow : isPairLow o = false := by
    rw [isPairLow, decide_eq_false (Nat.not_le.2 h), Bool.false_and]
  have hhigh : isPairHigh o = false := by
    rw [isPairHigh, decide_eq_false (by omega), Bool.false_and]
  have hsensor : canonReg o ≠ R.OST_SENSOR_VAL := by
    have e : canonReg o = offWindow o * 65536 + inPage o := by simp [canonReg, h]
    rw [e]; simp only [R.OST_SENSOR_VAL]; omega
  have hnow : s.regNow o = s.headerReg (offWindow o) (offPage o) (inPage o) * b2n (offPage o < windowPages (offWindow o)) := by
    by_cases hp : offPage o < windowPages (offWindow o)
    · simp [State.regNow, h, hp, Nat.not_le.2 hp, b2n]
    · simp [State.regNow, hp, Nat.not_lt.1 hp, b2n]
  simp [State.readReg, hlow, hhigh, hsensor, hnow]

/-- A register that is no pair's word reads as it is now; only a sensor's reading takes a value of the world. -/
theorem State.readReg_of_not_pair (hl : isPairLow o = false) (hh : isPairHigh o = false) :
    ∃ u, s.readReg o = (s.regNow o, u) ∧ ChangesOnly [.free] s u := by
  by_cases hc : canonReg o = R.OST_SENSOR_VAL
  · exact ⟨s.fresh.2, by simp [State.readReg, hl, hh, hc], by simp⟩
  · exact ⟨s, by simp [State.readReg, hl, hh, hc], by simp⟩

theorem State.busRead_of_fails (hst : s.regStatus o size = st) (h0 : st ≠ 0) : s.busRead o size = (st, 0, s.noteStatus o st) := by
  simp [State.busRead, hst, h0]

theorem State.busRead_of_unnamed (hst : s.regStatus o size = 0) (hi : 0x40 ≤ inPage o) (hn : regNamed o = false) : s.busRead o size = (0, 0, s) := by
  simp [State.busRead, hst, hn, Nat.not_lt.2 hi]

theorem State.busRead_of_ok (hst : s.regStatus o size = 0) (h : inPage o < 0x40 ∨ regNamed o = true) : s.busRead o size = (0, s.readReg o) := by
  simp [State.busRead, hst, h]

theorem exec_regRd_of_cutOff (tag : Nat) (hc : s.cutOff .host = true) : exec (.regRd ⟨o, size⟩ tag) s = .next s := by
  simp only [exec, execRegRd, hc, if_true]

/-- The REG_RESP to a read that reaches the block. -/
theorem exec_regRd {v tag : Nat} {u : State} (hc : s.cutOff .host = false) (hb : s.busRead o size = (st, v, u)) :
    exec (.regRd ⟨o, size⟩ tag) s = .next (u.sendHost (mkHost 0x03 2 0 v tag st)) := by
  simp only [exec, execRegRd, hc, hb, Bool.false_eq_true, if_false]

/-! ### Writes that are not performed -/

theorem State.performWrite_of_namesNothing (data : Nat) (h : NamesNothing o) : s.performWrite a o data = s := by
  unfold State.performWrite
  split
  next hi =>
    have hp : windowPages (offWindow o) ≤ offPage o := by obtain h | ⟨h, _⟩ := h <;> omega
    simp [State.putHeader, hp]
  next => simp [h.regNamed_eq_false]

theorem exec_registerWrite_of_cutOff (data tag : Nat) (hc : s.cutOff a = true) : exec (.registerWrite a o size data tag) s = .next s := by
  simp only [exec, execRegisterWrite, State.busWrite, hc, if_true]

theorem exec_registerWrite_of_fails (data tag : Nat) (hc : s.cutOff a = false) (hst : s.writeStatus a o size = st) (h0 : st ≠ 0) :
    exec (.registerWrite a o size data tag) s = .next (if a = .host then (s.noteStatus o st).sendErr tag st else s.noteStatus o st) := by
  simp only [exec, execRegisterWrite, State.busWrite, hc, hst, h0, Bool.false_eq_true, if_false]

theorem exec_registerWrite_of_namesNothing (data tag : Nat) (hc : s.cutOff a = false) (hst : s.writeStatus a o size = 0) (h : NamesNothing o) :
    exec (.registerWrite a o size data tag) s = .next s.settle := by
  simp only [exec, execRegisterWrite, State.busWrite, hc, hst, State.performWrite_of_namesNothing _ h, Bool.false_eq_true, if_false, if_true]

/-! ### No answer within 20 µs -/

theorem exec_regTimeout_of_read (addr tag : Nat) (hc : s.cutOff .host = false) :
    exec (.regTimeout addr tag false) s = .next (s.sendHost (mkHost 0x03 2 0 0 tag 4)) := by
  simp only [exec, execRegTimeout, hc, Bool.false_eq_true, if_false]

theorem exec_regTimeout_of_write (addr tag : Nat) (hc : s.cutOff .host = false) : exec (.regTimeout addr tag true) s = .next (s.sendErr tag 4) := by
  simp only [exec, execRegTimeout, hc, Bool.false_eq_true, if_false, if_true]

/-! ### The statement -/

/-- Settles O13: the status decides every access, and each status has one answer. The zero fields of the answers' headers, ADDR among them, are the model's
choice (log 95). -/
theorem registerAnswers : Obligations.RegisterAnswers := by
  refine ⟨fun s addr size tag => ⟨exec_regRd_of_cutOff tag, fun hc =>
      ⟨?readAddrError, ?readSizeError, ?readFenced, ?readUnnamed, ?readHeader, ?readRegister⟩⟩,
    fun s a o size data tag => ⟨exec_registerWrite_of_cutOff data tag, fun hc => ⟨?writeAddrError, ?writeSizeError, ?writeNothing⟩⟩,
    fun s addr tag hc => ⟨exec_regTimeout_of_read addr tag hc, exec_regTimeout_of_write addr tag hc⟩⟩
  case readAddrError =>
    intro ha
    have hb := State.busRead_of_fails (s := s) (size := size) (State.regStatus_of_not_assigned ha) (by decide)
    rw [State.noteStatus_addrError] at hb
    exact exec_regRd hc hb
  case readSizeError =>
    intro ha hmis
    have hst : s.regStatus addr size = 2 := State.regStatus_of_misfit ha (by omega)
    exact ⟨_, exec_regRd hc (State.busRead_of_fails hst (by decide)), s.noteStatus_only addr 2⟩
  case readFenced =>
    rintro ha ⟨rfl, h4⟩ ⟨hi, hn⟩ hf
    have hst : s.regStatus addr 4 = 3 := by rw [State.regStatus_of_fits ha h4, if_pos ⟨hi, hn, hf⟩]
    exact ⟨_, exec_regRd hc (State.busRead_of_fails hst (by decide)), s.noteStatus_only addr 3⟩
  case readUnnamed =>
    rintro ha ⟨rfl, h4⟩ hi hn
    have hst : s.regStatus addr 4 = 0 := by rw [State.regStatus_of_fits ha h4, if_neg (by simp [hn])]
    exact exec_regRd hc (State.busRead_of_unnamed hst hi hn)
  case readHeader =>
    rintro ha ⟨rfl, h4⟩ hi
    have hst : s.regStatus addr 4 = 0 := by rw [State.regStatus_of_fits ha h4, if_neg fun h => by omega]
    exact exec_regRd hc ((State.busRead_of_ok hst (.inl hi)).trans (by rw [State.readReg_of_header hi]))
  case readRegister =>
    rintro ha ⟨rfl, h4⟩ ⟨hi, hn⟩ hf hl hh
    have hst : s.regStatus addr 4 = 0 := by rw [State.regStatus_of_fits ha h4, if_neg (by simp [hf])]
    obtain ⟨u, hu, hfr⟩ := State.readReg_of_not_pair (s := s) hl hh
    exact ⟨u, exec_regRd hc ((State.busRead_of_ok hst (.inr hn)).trans (by rw [hu])), hfr⟩
  case writeAddrError =>
    intro ha
    have h := exec_registerWrite_of_fails data tag hc (State.writeStatus_of_not_assigned (size := size) ha) (by decide)
    rwa [State.noteStatus_addrError] at h
  case writeSizeError =>
    intro ha hmis
    exact ⟨_, exec_registerWrite_of_fails data tag hc (State.writeStatus_of_misfit ha hmis) (by decide), s.noteStatus_only o 2,
      fun k hi hk => State.rd_noteStatus_spared ⟨hi, hk⟩⟩
  case writeNothing =>
    rintro ha rfl h4 hn
    have hst : s.regStatus o 4 = 0 := by
      rw [State.regStatus_of_fits ha h4, if_neg (by simp [NamesNothing.regNamed_eq_false hn])]
    exact exec_registerWrite_of_namesNothing data tag hc (State.writeStatus_of_regStatus hst) hn

end Sys2Proof.Machine
end

section
/-! PROOF. What a change of a sync counter does (R99 to R101, R110, R130): the counter takes its value, the waits on it may be met, PHASE may move; SYN_ADD,
the write of SYN_VAL's high word and the signal of a record that retires are such changes. -/
namespace Sys2Proof.Machine

variable {ps : List Piece} {s t u : State} {f : Flight}

/-! ### What stays as it was where a piece does -/

theorem State.getCtr_only (h : ChangesOnly ps s t) (hc : Piece.counters ∉ ps) (c : Nat) : t.getCtr c = s.getCtr c := by
  have e : t.syn = s.syn := h .counters hc
  simp only [State.getCtr, e]

theorem State.getBound_only (h : ChangesOnly ps s t) (hc : Piece.counters ∉ ps) (c : Nat) : t.getBound c = s.getBound c := by
  have e : t.syn = s.syn := h .counters hc
  simp only [State.getBound, e]

theorem State.getQ_only (h : ChangesOnly ps s t) (hq : Piece.queues ∉ ps) (q : Nat) : t.getQ q = s.getQ q := by
  obtain ⟨hqueues, hswept⟩ : t.que.queues = s.que.queues ∧ t.que.swept = s.que.swept := h .queues hq
  simp only [State.getQ, hqueues, hswept]

theorem State.rd_only (h : ChangesOnly ps s t) (hr : Piece.regs ∉ ps) (k : Nat) : t.rd k = s.rd k := by
  have e : t.regs = s.regs := h .regs hr
  simp only [State.rd, e]

/-! ### Values -/

theorem State.getCtr_lt (s : State) (c : Nat) : s.getCtr c < 2 ^ 64 := BitVec.isLt _

theorem State.lowWord_lt (s : State) (off current : Nat) : s.lowWord off current < 2 ^ 32 := by
  unfold State.lowWord
  split
  · exact BitVec.isLt _
  · exact Nat.mod_lt _ (by decide)

/-! ### The waits on a counter (R100) -/

/-- Nothing changes but that the waits of some queues' first unstarted records are met. -/
def OnlyMeetsWaits (s t : State) : Prop :=
  ChangesOnly [.queues] s t ∧ ∀ q, t.getQ q = s.getQ q ∨ t.getQ q = { s.getQ q with waitMet := true }

theorem OnlyMeetsWaits.refl (s : State) : OnlyMeetsWaits s s := ⟨.refl _ s, fun _ => .inl rfl⟩

theorem OnlyMeetsWaits.trans (h : OnlyMeetsWaits s t) (h' : OnlyMeetsWaits t u) : OnlyMeetsWaits s u := by
  obtain ⟨only, met⟩ := h
  obtain ⟨only', met'⟩ := h'
  refine ⟨only.trans only', fun q => ?_⟩
  rcases met q with e | e <;> rcases met' q with e' | e' <;> simp [e', e]

theorem OnlyMeetsWaits.setQ (s : State) (q : Nat) : OnlyMeetsWaits s (s.setQ q { s.getQ q with waitMet := true }) := by
  refine ⟨by simp, fun p => ?_⟩
  by_cases h : p = q
  · subst h; exact .inr (s.getQ_setQ_same _ _)
  · exact .inl (s.getQ_setQ_other _ h)

theorem OnlyMeetsWaits.foldl (l : List Nat) (g : State → Nat → State) (hg : ∀ u q, OnlyMeetsWaits u (g u q)) (s : State) :
    OnlyMeetsWaits s (l.foldl g s) := by
  induction l generalizing s with
  | nil => exact .refl s
  | cons q l ih => exact (hg s q).trans (ih _)

theorem State.noteWaits_meets (s : State) (c : Nat) : OnlyMeetsWaits s (s.noteWaits c) := by
  refine OnlyMeetsWaits.foldl _ _ (fun u q => ?_) s
  dsimp only
  split
  · split
    · split
      · exact OnlyMeetsWaits.setQ u q
      · exact .refl u
    · exact .refl u
  · exact .refl u

/-! ### PHASE (R130) -/

/-- Nothing changes but the register that holds PHASE. -/
def OnlyMovesPhase (s t : State) : Prop := ChangesOnly [.regs] s t ∧ RegsOnly [R.HUB_STEP_STS] s t

theorem OnlyMovesPhase.refl (s : State) : OnlyMovesPhase s s := ⟨.refl _ s, fun _ _ => rfl⟩

theorem OnlyMovesPhase.trans (h : OnlyMovesPhase s t) (h' : OnlyMovesPhase t u) : OnlyMovesPhase s u :=
  ⟨h.1.trans h'.1, fun k hk => (h'.2 k hk).trans (h.2 k hk)⟩

theorem State.setPhase_moves (s : State) (p : Nat) : OnlyMovesPhase s (s.setPhase p) :=
  ⟨by simp [State.setPhase], fun _ hk => s.rd_fset_other p fun e => hk (List.mem_singleton.2 e)⟩

/-- A move of PHASE that is made on a condition. -/
theorem State.setPhase_if_moves (s : State) (p : Nat) (c : Prop) [Decidable c] : OnlyMovesPhase s (if c then s.setPhase p else s) := by
  split
  · exact s.setPhase_moves p
  · exact .refl s

theorem State.syncPhase_moves (s : State) : OnlyMovesPhase s s.syncPhase := by
  unfold State.syncPhase
  split
  · exact .refl s
  · extract_lets least upd adv
    have hadv (u : State) : OnlyMovesPhase u (adv u) := by
      dsimp only [adv]
      split
      · exact u.setPhase_if_moves 2 _
      · exact u.setPhase_if_moves 3 _
      · exact u.setPhase_if_moves 4 _
      · exact u.setPhase_if_moves 5 _
      · exact .refl u
    exact (hadv s).trans ((hadv _).trans ((hadv _).trans (hadv _)))

/-! ### A change of a counter -/

theorem State.changeCtr_only (s : State) (c v : Nat) : ChangesOnly [.counters, .queues, .regs] s (s.changeCtr c v) := by
  have hput : ChangesOnly [.counters, .queues, .regs] s (s.putCtr c v) := by simp
  have hwaits := ((s.putCtr c v).noteWaits_meets c).1
  have hphase := ((s.putCtr c v).noteWaits c).syncPhase_moves.1
  exact (hput.trans (hwaits.mono (by simp))).trans (hphase.mono (by simp))

theorem State.changeCtr_takes (s : State) (c v : Nat) : Obligations.counterTakes s (s.changeCtr c v) c (v % 2 ^ 64) := by
  obtain ⟨waitsOnly, waitsMet⟩ := (s.putCtr c v).noteWaits_meets c
  obtain ⟨phaseOnly, phaseRegs⟩ := ((s.putCtr c v).noteWaits c).syncPhase_moves
  have hctr (d : Nat) : (s.changeCtr c v).getCtr d = (s.putCtr c v).getCtr d :=
    (State.getCtr_only phaseOnly (by decide) d).trans (State.getCtr_only waitsOnly (by decide) d)
  have hbound (d : Nat) : (s.changeCtr c v).getBound d = s.getBound d :=
    (State.getBound_only phaseOnly (by decide) d).trans (State.getBound_only waitsOnly (by decide) d)
  have hqueue (q : Nat) : (s.changeCtr c v).getQ q = ((s.putCtr c v).noteWaits c).getQ q := State.getQ_only phaseOnly (by decide) q
  refine ⟨by rw [hctr, State.getCtr_putCtr_same], fun d hd => by rw [hctr, State.getCtr_putCtr_other _ _ hd], hbound, fun q => ?_,
    fun k hk => (phaseRegs k hk).trans (State.rd_only waitsOnly (by decide) k)⟩
  rw [hqueue]
  exact waitsMet q

theorem State.signal_only (s : State) (c n : Nat) : ChangesOnly [.counters, .queues, .regs] s (s.signal c n) := s.changeCtr_only c _

/-- A signal adds modulo 2^64 (R99, R101). -/
theorem State.signal_takes (s : State) (c n : Nat) : Obligations.counterTakes s (s.signal c n) c ((s.getCtr c + n) % 2 ^ 64) := by
  have h := s.changeCtr_takes c ((s.getCtr c + n) % 2 ^ 64)
  rwa [Nat.mod_mod] at h

/-! ### The writes of SYN_ADD and SYN_VAL (R110) -/

theorem exec_synAdd (s : State) (a : Agent) {data : Nat} (h : data < 2 ^ 32) :
    exec (.synAdd a data) s = .next (s.signal (s.synSel (agentPage a)) data).settle := by
  simp only [exec, execSynAdd, State.addCounter, Nat.mod_eq_of_lt h]

/-- The write of the high word forgets the pending low word and sets the counter to the pair (R8). -/
theorem exec_synValSet (s : State) (a : Agent) {data : Nat} (h : data < 2 ^ 32) :
    let c := s.synSel (agentPage a)
    let off := pageReg R.SYN_VAL (agentPage a)
    exec (.synValSet a data) s = .next ((s.dropLow off).changeCtr c (data * 2 ^ 32 + s.lowWord off (s.getCtr c))).settle := by
  simp only [exec, execSynValSet, State.setCounter, Nat.mod_eq_of_lt h]

/-- The low word that waits for its high word is of no counter, queue or register. -/
theorem counterTakes_dropLow {off c v : Nat} : Obligations.counterTakes (s.dropLow off) t c v ↔ Obligations.counterTakes s t c v := Iff.rfl

theorem State.dropLow_changeCtr_only (s : State) (off c v : Nat) :
    ChangesOnly [.counters, .queues, .regs, .pairs] s ((s.dropLow off).changeCtr c v) := by
  have hdrop : ChangesOnly [.counters, .queues, .regs, .pairs] s (s.dropLow off) := by simp [State.dropLow]
  exact hdrop.trans (((s.dropLow off).changeCtr_only c v).mono (by simp))

theorem State.dropLow_changeCtr_takes (s : State) {off c v : Nat} (h : v < 2 ^ 64) : Obligations.counterTakes s ((s.dropLow off).changeCtr c v) c v := by
  have ht := (s.dropLow off).changeCtr_takes c v
  rwa [Nat.mod_eq_of_lt h, counterTakes_dropLow] at ht

/-! ### The signal of a record that retires (R97, R101) -/

/-- The queue of a record that has retired OK has one record fewer to wait for, if it goes on with the record's entry (R90). -/
def State.countEnded (s : State) (f : Flight) : State :=
  let x := s.getQ f.queue
  if f.loose || !x.en || x.mode = .reset || !x.entryOk || x.head ≠ f.entry then s
  else (s.setQ f.queue { x with ended := x.ended + 1 }).advanceHead f.queue

theorem State.advanceHead_only (s : State) (q : Nat) : ChangesOnly [.queues] s (s.advanceHead q) := by
  unfold State.advanceHead
  dsimp only
  split <;> simp

theorem State.countEnded_only (s : State) (f : Flight) : ChangesOnly [.queues] s (s.countEnded f) := by
  unfold State.countEnded
  dsimp only
  split
  · exact .refl _ s
  · exact ChangesOnly.trans (by simp) (State.advanceHead_only _ _)

/-- A record without a completion record that has ended OK signals and counts in its queue; nothing else comes of it (R97, R98). -/
theorem State.retire_of_ok {d : Nat} (hf : s.flight? f.rid = some f) (hr : f.resp = some (0, d)) (hs : f.suspect = false)
    (hw : s.ckpt.stalled.any (fun x => x.rid = some f.rid) = false) (hc : recCmpl f.word = false) :
    s.retire f.rid =
      (if recSigEn f.word = true then (s.dropFlight f.rid).signal (recSigCtr f.word) (recSigAdd f.word) else s.dropFlight f.rid).countEnded f := by
  simp [State.retire, hf, hr, hs, hw, hc, State.complete, State.noteResp, respSignals, respStops, State.countEnded]

theorem exec_recordRetire (hf : s.flight? f.rid = some f) (hh : s.halted (queueEngine f.queue) = false) :
    exec (.recordRetire f.rid) s = .next (s.retire f.rid).searchNext.settle := by
  simp [exec, execRecordRetire, hf, hh]

/-! ### The statement -/

/-- Settles O15: each of the three is a change of one counter, whose new value is below 2^64 or is cut to it. -/
theorem counterWrites : Obligations.CounterWrites := by
  refine ⟨State.getCtr_lt, fun s a data hd => ⟨?synAdd, ?synVal⟩, fun s f d hf hh hr hs hw hc hsig => ?retire⟩
  case synAdd => exact ⟨_, exec_synAdd s a hd, s.signal_takes _ data, s.signal_only _ data⟩
  case synVal =>
    have hlow := s.lowWord_lt (pageReg R.SYN_VAL (agentPage a)) (s.getCtr (s.synSel (agentPage a)))
    exact ⟨_, exec_synValSet s a hd, s.dropLow_changeCtr_only _ _ _, s.dropLow_changeCtr_takes (by omega)⟩
  case retire =>
    have hret := State.retire_of_ok hf hr hs hw hc
    rw [if_pos hsig] at hret
    have hdrop : ChangesOnly [.flights] s (s.dropFlight f.rid) := by simp
    have hsignal := (s.dropFlight f.rid).signal_only (recSigCtr f.word) (recSigAdd f.word)
    obtain ⟨hsame, hother, -, -, hregs⟩ := (s.dropFlight f.rid).signal_takes (recSigCtr f.word) (recSigAdd f.word)
    have hcount := ((s.dropFlight f.rid).signal (recSigCtr f.word) (recSigAdd f.word)).countEnded_only f
    refine ⟨_, (exec_recordRetire hf hh).trans (by rw [hret]), ?_, fun k hk => ?_, ?_, fun c hne => ?_⟩
    · exact ((hdrop.mono (by simp)).trans (hsignal.mono (by simp))).trans (hcount.mono (by simp))
    · rw [State.rd_only hcount (by decide), hregs k hk, State.rd_only hdrop (by decide)]
    · rw [State.getCtr_only hcount (by decide), hsame, State.getCtr_only hdrop (by decide)]
    · rw [State.getCtr_only hcount (by decide), hother c hne, State.getCtr_only hdrop (by decide)]

end Sys2Proof.Machine
end
